-- ==== Sys2Proof/Word.lean ====
section
/-! DEFINITION. The words of the device and the one container its state is built from.
R2 fixes little-endian order; the functions that use it stand in Machine/Bits.lean. -/

namespace Sys2Proof

/-- A byte. -/
abbrev Byte := BitVec 8

/-- A 16-bit word of Jexvik-16 and of every command layout (00_scope.md, Units and notation). -/
abbrev Half := BitVec 16

/-- A 32-bit register value (R3). -/
abbrev Word := BitVec 32

/-- A 48-bit address: a virtual word address, or a local byte address (R9, R214). -/
abbrev Addr := BitVec 48

/-- A sparse map: the keys that hold something else than the map's default, in rising order. -/
abbrev SMap (α : Type) := List (Nat × α)

end Sys2Proof
end

