-- ==== Sys2Proof/Syntax.lean ====
section
/-! DEFINITION. The commands the block takes, one constructor for each row of the spec's table of
operations and events, with the operands each row has. Unit numbers are bounded types (R7), so a
command never names a unit that does not exist. -/

namespace Sys2Proof

/-- A Jexvik-16 core: 0–767 compute cores, 768–775 supervisor cores S0–S7 (R222, COREID). -/
abbrev CoreId := Fin 776
/-- A compute core, 0–767 (R7). -/
abbrev CcId := Fin 768
/-- A DRAM slice, 0–191 (R7). -/
abbrev SliceId := Fin 192
/-- A cluster, 0–23 (R7). -/
abbrev ClusterId := Fin 24
/-- An optical port, P0–P15 (R323). -/
abbrev PortId := Fin 16
/-- An optical link, L0–L7 (R325). -/
abbrev LinkId := Fin 8
/-- A context, CTX 0–4095 (R187). -/
abbrev CtxId := Fin 4096
/-- A barrier, B0–B63 (R297). -/
abbrev BarrierId := Fin 64
/-- A DMA channel of a core (R128). -/
abbrev ChanId := Fin 2
/-- A PCI Express function of a port: 0 physical, 1–16 virtual (R361). -/
abbrev FuncId := Fin 17

/-- The two PCI Express ports (R360). -/
inductive HostPort where
  | A | B
  deriving DecidableEq, Repr

/-- Who makes an access: a core at its current ring, management, a function of a host port, or
another device's requester (R74, R113, R378). -/
inductive Requester where
  | core (c : CoreId)
  | management
  | host (port : HostPort) (func : FuncId)
  | device (dev : Half) (req : BitVec 10)
  deriving DecidableEq, Repr

/-- The access sizes of the register region (R3). -/
inductive AccessSize where
  | b8 | b16 | b32 | b64
  deriving DecidableEq, Repr

/-- What the residue side path finds while an MMA runs (R67): no mismatch, one mismatch that the
retry clears, or a mismatch again during the retry. -/
inductive ResidueCheck where
  | clean | once | twice
  deriving DecidableEq, Repr

/-- The engines that have a save image (R68, R96). -/
inductive SaveEngine where
  | matrix | vector
  deriving DecidableEq, Repr

/-- The engines an engine-issue instruction names (R229). -/
inductive Engine where
  | matrix | vector | dma
  deriving DecidableEq, Repr

/-- An engine command that waits on a slot (R119, R120). -/
inductive SlotWaiter where
  | matrix | vector | channel (ch : ChanId)
  deriving DecidableEq, Repr

/-- Where a read response lands from: the exit crossing of a stream plane at a core, or a service
plane response on its way (R170). -/
inductive ResponseSource where
  | stream (k : CcId) (plane : Fin 3)
  | service (index : Nat)
  deriving DecidableEq, Repr

/-- A side of a router on a stream plane, or a slice, that the stall watch follows (R183). -/
inductive StallSite where
  | side (router : CcId) (plane : Fin 3) (port : Fin 6) (output : Bool)
  | slice (s : SliceId)
  deriving DecidableEq, Repr

/-- The path a context command takes: a frame of BAR2, or CX_CMD with an owner named (R204). -/
inductive ContextPath where
  | frame (port : HostPort) (func : FuncId)
  | cmd (rq : Requester) (port : HostPort) (func : BitVec 5)
  deriving DecidableEq, Repr

/-- The path of a record write: register n of the record window of a context, or CX_RECWn (R189,
R190). -/
inductive RecordPath where
  | window (port : HostPort) (func : FuncId) (ctx : CtxId) (n : Fin 16)
  | recw (rq : Requester) (n : Fin 8)
  deriving DecidableEq, Repr

/-- The kinds of translated access (R255). -/
inductive AccessKind where
  | read | write | fetch
  deriving DecidableEq, Repr

/-- What an exception entry takes: the highest pending asynchronous event that may be delivered
(R243), or the fault of fetching word k of the instruction at PC (R232). -/
inductive EntryKind where
  | pending
  | fetch (k : Fin 4)
  deriving DecidableEq, Repr

/-- The registers whose writes arm the timer (R258). -/
inductive TimerReg where
  | tcmpLo | tcmpHi | ctrl
  deriving DecidableEq, Repr

/-- A cache of the die (R263). -/
inductive CacheName where
  | instr (c : CoreId)
  | data (c : CoreId)
  | l2
  deriving DecidableEq, Repr

/-- The registers that enable caches (R270). -/
inductive CacheTarget where
  | core (c : CoreId)
  | l2
  deriving DecidableEq, Repr

/-- What a port sends next (R328, R331, R332). -/
inductive FlitChoice where
  | data (lane : Fin 4) (vc : Fin 4)
  | idle
  | control
  | replay
  deriving DecidableEq, Repr

/-- Why a port leaves service (R351; codes of OL_PORTm_STATE.DOWNCAUSE, R359). -/
inductive DownCause where
  | noBlock | uncorrectable | noGroup | attestation
  deriving DecidableEq, Repr

/-- The stages of port bring-up (R348): block lock, mutual attestation, and final width with the
wavelengths trained. -/
inductive TrainStage where
  | light
  | lock
  | attest
  | width (waves : BitVec 8)
  deriving DecidableEq, Repr

/-- A host's configuration request: reading a field, or setting the fields that the model names
(R360–R362, R366, R376). -/
inductive ConfigField where
  | vendorId | deviceId | classCode | revision | totalVfs | initialVfs | firstVfOffset | vfStride
  | numVfs | vfEnable | memorySpace | busMaster | msixEnable | functionMask | relaxedOrdering
  | bar4Size | maxPayload | maxRead | completionTimeout | tableSize | powerState
  /-- DWs of the BARs, and of the VF BARs with their size (R362). -/
  | bar (dw : Fin 6)
  | vfBar (dw : Fin 6)
  | vfBar4Size
  /-- The error reporting of Device Control and Device Status, and the AER capability (R360, R379). -/
  | deviceControl | deviceStatus | uncStatus | uncMask | uncSeverity | corStatus | corMask | firstError
  | headerLog (dw : Fin 4)
  deriving DecidableEq, Repr

/-- A configuration request (R366). -/
inductive ConfigOp where
  | read (f : ConfigField)
  | write (f : ConfigField) (value : Word)
  deriving DecidableEq, Repr

/-- A memory request to BAR0: the DW count, the byte enables of each DW and the data (R364). -/
inductive Bar0Op where
  | read (dws : Nat) (be0 be1 : BitVec 4)
  | write (dws : Nat) (be0 be1 : BitVec 4) (value : BitVec 64) (poison : Bool)
  deriving DecidableEq, Repr

/-- The BARs served by host memory requests beside BAR0 (R362). -/
inductive HostBar where
  | bar2 | bar4
  deriving DecidableEq, Repr

/-- The completions a host returns for a device read (R371). -/
inductive CompletionStatus where
  | success | unsupported | abort | poisoned
  deriving DecidableEq, Repr

/-- The MCTP bindings (R422). -/
inductive Binding where
  | smbus
  | pcie (port : HostPort)
  deriving DecidableEq, Repr

/-- The commands of the block: one constructor for each row of the table of operations and events.
The mnemonic of each row stands in LAWS.json; the rule named is the one the row is listed under. -/
inductive Instr where
  /-- REGISTER_WRITE (R3): A write to a register that has no row of its own, with the access checks and access-code effects of R3 to R5. -/
  | registerWrite (rq : Requester) (addr : BitVec 48) (size : AccessSize) (value : BitVec 64)
  /-- REGISTER_READ_CLEAR (R5): A read of a register holding RC fields returns their values and then clears them. -/
  | registerReadClear (rq : Requester) (addr : BitVec 48) (size : AccessSize)
  /-- TCFG (R52): Waits for earlier commands to complete, then shapes and clears the named operand tiles and clears the named accumulators. -/
  | tcfg (k : CcId)
  /-- TLD_R (R53): Loads an operand tile from the scratchpad in row view. -/
  | tldR (k : CcId)
  /-- TLD_C (R53): Loads an operand tile from the scratchpad in column view. -/
  | tldC (k : CcId)
  /-- TST_R (R53): Stores an operand tile to the scratchpad in row view. -/
  | tstR (k : CcId)
  /-- TST_C (R53): Stores an operand tile to the scratchpad in column view. -/
  | tstC (k : CcId)
  /-- MMA_T (R54): Multiply-accumulate with A and B both taken from tiles, issued once hazards and the scoreboard allow. -/
  | mmaT (k : CcId) (residue : ResidueCheck)
  /-- MMA_S (R55): Multiply-accumulate with B streamed from the scratchpad through the enlarger. -/
  | mmaS (k : CcId) (residue : ResidueCheck)
  /-- AZERO (R56): Sets an accumulator to zero. -/
  | azero (k : CcId)
  /-- AMOV_C (R56): Copies one accumulator to another. -/
  | amovC (k : CcId)
  /-- AMOV_L (R56): Loads an accumulator from the scratchpad with its bits unchanged. -/
  | amovL (k : CcId)
  /-- AMOV_S (R56): Stores an accumulator to the scratchpad with its bits unchanged. -/
  | amovS (k : CcId)
  /-- ACVT_S (R57): Converts an accumulator to a target format and writes it to the scratchpad. -/
  | acvtS (k : CcId)
  /-- ACVT_T (R57): Converts an accumulator to a target format and writes it into an operand tile. -/
  | acvtT (k : CcId)
  /-- MMA_WRITE_BACK (R59): An MMA whose last outer product has been formed completes its write-back of the cells to its accumulator tile. -/
  | mmaWriteBack (k : CcId)
  /-- MATRIX_FAULT (R66): A refused, page-faulting or arithmetic-integrity command stops, holds the engine, writes MX_FAULT and raises an exception. -/
  | matrixFault (k : CcId)
  /-- MX_ABANDON (R64): A write of MX_CTRL.ABANDON while held discards the whole matrix queue. -/
  | mxAbandon (rq : Requester) (k : CcId)
  /-- MX_SAVE (R69): A write of MX_CTRL.SAVE while held begins writing the matrix save image. -/
  | mxSave (rq : Requester) (k : CcId)
  /-- MX_RESTORE (R70): A write of MX_CTRL.RESTORE while held checks the image header and begins restoring the engine. -/
  | mxRestore (rq : Requester) (k : CcId)
  /-- SAVE_RESTORE_COMPLETE (R69): A save or restore of an engine image finishes its last row, and SAVEBUSY clears. -/
  | saveRestoreComplete (k : CcId) (engine : SaveEngine)
  /-- VOP_ADD (R80): Element-wise addition of vector registers. -/
  | vopAdd (k : CcId)
  /-- VOP_SUB (R80): Element-wise subtraction of vector registers. -/
  | vopSub (k : CcId)
  /-- VOP_MUL (R80): Element-wise multiplication of vector registers. -/
  | vopMul (k : CcId)
  /-- VOP_FMA (R80): Element-wise fused multiply-add with one rounding. -/
  | vopFma (k : CcId)
  /-- VOP_MIN (R80): Element-wise minimum under R23. -/
  | vopMin (k : CcId)
  /-- VOP_MAX (R80): Element-wise maximum under R23. -/
  | vopMax (k : CcId)
  /-- VOP_ABS (R80): Element-wise absolute value. -/
  | vopAbs (k : CcId)
  /-- VOP_NEG (R80): Element-wise negation. -/
  | vopNeg (k : CcId)
  /-- CPSGN (R80): Element-wise copy of the sign bit of b onto a. -/
  | cpsgn (k : CcId)
  /-- CMPEQ (R80): Element-wise equality compare giving all ones or zero. -/
  | cmpeq (k : CcId)
  /-- CMPLT (R80): Element-wise less-than compare. -/
  | cmplt (k : CcId)
  /-- CMPLE (R80): Element-wise less-or-equal compare. -/
  | cmple (k : CcId)
  /-- CMPUN (R80): Element-wise unordered compare, true when either input is a NaN. -/
  | cmpun (k : CcId)
  /-- SEL (R80): Element-wise select of a or b by the mask c. -/
  | sel (k : CcId)
  /-- VOP_MOV (R80): Element-wise move with bits unchanged. -/
  | vopMov (k : CcId)
  /-- VOP_AND (R80): Element-wise bitwise AND. -/
  | vopAnd (k : CcId)
  /-- VOP_OR (R80): Element-wise bitwise OR. -/
  | vopOr (k : CcId)
  /-- VOP_XOR (R80): Element-wise bitwise XOR. -/
  | vopXor (k : CcId)
  /-- VOP_SHL (R80): Element-wise left shift. -/
  | vopShl (k : CcId)
  /-- VOP_SHR (R80): Element-wise arithmetic right shift. -/
  | vopShr (k : CcId)
  /-- VCVT (R82): Converts a register between formats with a rounding mode and a part selector. -/
  | vcvt (k : CcId)
  /-- EXP2 (R85): Applies a correctly rounded 2^x to each F32 element. -/
  | exp2 (k : CcId)
  /-- LOG2 (R85): Applies a correctly rounded log2 x to each F32 element. -/
  | log2 (k : CcId)
  /-- RCP (R85): Applies a correctly rounded reciprocal to each F32 element. -/
  | rcp (k : CcId)
  /-- RSQRT (R85): Applies a correctly rounded reciprocal square root to each F32 element. -/
  | rsqrt (k : CcId)
  /-- VRED_SUM (R86): Sums the 64 lanes of a register in tree order. -/
  | vredSum (k : CcId)
  /-- VRED_MAX (R86): Takes the maximum across the 64 lanes of a register. -/
  | vredMax (k : CcId)
  /-- VRED_MIN (R86): Takes the minimum across the 64 lanes of a register. -/
  | vredMin (k : CcId)
  /-- ARGMAX (R86): Writes the winning lane's value and lane number across a register. -/
  | argmax (k : CcId)
  /-- VBC (R81): Broadcasts an element or an immediate to every element of a register. -/
  | vbc (k : CcId)
  /-- VLD (R88): Loads N vector registers from the scratchpad. -/
  | vld (k : CcId)
  /-- VST (R88): Stores N vector registers to the scratchpad. -/
  | vst (k : CcId)
  /-- VSTRM (R89): Streams an operation and an optional reduction over N chunks of the scratchpad. -/
  | vstrm (k : CcId)
  /-- VTOPK_S (R90): Keeps a top-k list over N chunks of the scratchpad. -/
  | vtopkS (k : CcId)
  /-- VECTOR_FAULT (R94): A refused or page-faulting vector command stops, holds the engine, writes VX_FAULT and raises an exception. -/
  | vectorFault (k : CcId)
  /-- VX_ABANDON (R95): A write of VX_CTRL.ABANDON while held discards the vector queue and the recorded progress. -/
  | vxAbandon (rq : Requester) (k : CcId)
  /-- VX_SAVE (R96): A write of VX_CTRL.SAVE while held begins writing the vector save image. -/
  | vxSave (rq : Requester) (k : CcId)
  /-- VX_RESTORE (R96): A write of VX_CTRL.RESTORE while held checks the image and begins restoring the vector engine. -/
  | vxRestore (rq : Requester) (k : CcId)
  /-- APERTURE_WRITE (R115): An arriving write is tested against the apertures, then written, accumulated, slotted or held, or else refused. -/
  | apertureWrite (k : CcId) (plane : Fin 4)
  /-- REMOTE_READ (R115): An arriving remote read is tested in order and either returns data or is refused. -/
  | remoteRead (k : CcId) (plane : Fin 4)
  /-- ECC_WRITE_BACK (R106): The corrected code word of a granule is written back on port 1 in a cycle that no other requester uses. -/
  | eccWriteBack (k : CcId)
  /-- APERTURE_OPEN (R114): A write of SP_APn_CTRL.OPEN = 1 opens a closed aperture or sets APERR. -/
  | apertureOpen (rq : Requester) (k : CcId) (ap : Fin 16) (value : BitVec 32)
  /-- APERTURE_CLOSE (R116): A write of SP_APn_CTRL.OPEN = 0 makes an open aperture closing and refuses its held writes. -/
  | apertureClose (rq : Requester) (k : CcId) (ap : Fin 16) (value : BitVec 32)
  /-- APERTURE_CLOSED (R116): A closing aperture becomes closed once its accepted writes have completed. -/
  | apertureClosed (k : CcId) (ap : Fin 16)
  /-- SP_RELEASE (R118): A write to SP_RELEASE asks for slots of a slotted aperture to become empty. -/
  | spRelease (rq : Requester) (k : CcId) (value : BitVec 32)
  /-- SLOT_RELEASE_EFFECT (R118): A waiting release takes effect once no in-flight read rectangle touches the slot, and held writes proceed. -/
  | slotReleaseEffect (k : CcId)
  /-- SLOT_WAIT_TIMEOUT (R120): An engine command waiting on a slot past SP_TIMEOUT raises a scratchpad fault with cause 0x2. -/
  | slotWaitTimeout (k : CcId) (waiter : SlotWaiter)
  /-- HELD_WRITE_TIMEOUT (R121): A write held at a full slot past the timeout is refused with reason 0x6 and raises a scratchpad interrupt. -/
  | heldWriteTimeout (k : CcId) (ap : Fin 16) (slot : BitVec 8)
  /-- DGO (R130): Issues a DMA chain by copying its descriptors into the channel's buffer. -/
  | dgo (k : CcId) (ch : ChanId)
  /-- DESCRIPTOR_START (R134): A descriptor starts: its fields are checked, it is translated and bound, and its rectangles are declared. -/
  | descriptorStart (k : CcId) (ch : ChanId)
  /-- DMA_PAGE_FAULT (R145): A local side reaches an untranslatable page, and the channel stops and raises a page fault. -/
  | dmaPageFault (k : CcId) (ch : ChanId)
  /-- CHAIN_COMPLETE (R143): Every write of a chain is complete at its home, so the channel signals its counter and frees itself for the next DGO. -/
  | chainComplete (k : CcId) (ch : ChanId)
  /-- DM_RESUME (R146): A write of DM_CTRL.RESUMEn drops a halted chain and continues with the next DGO. -/
  | dmResume (rq : Requester) (k : CcId) (ch : ChanId)
  /-- DM_ABANDON (R146): A write of DM_CTRL.ABANDONn discards a halted or held channel's queue. -/
  | dmAbandon (rq : Requester) (k : CcId) (ch : ChanId)
  /-- REMOTE_ACK_TIMEOUT (R146): No acknowledgement arrives from a remote device within DM_TIMEOUT, and the channel halts with cause 0x9. -/
  | remoteAckTimeout (k : CcId) (ch : ChanId)
  /-- OUTPUT_BEAT (R159): An output side copies a beat from its scheduled input into its link latch. -/
  | outputBeat (router : CcId) (plane : Fin 3) (port : Fin 6)
  /-- INPUT_BEAT (R159): An input side frees its latch once every output of its entry has taken the beat. -/
  | inputBeat (router : CcId) (plane : Fin 3) (port : Fin 6)
  /-- STREAM_BEAT_SERVE (R162): A slice's STREAM window serves one arriving beat, or a void, and yields a response in order. -/
  | streamBeatServe (slice : SliceId)
  /-- MARK (R161): A slice schedule MARK entry records a phase and begins an occupation of it. -/
  | mark (slice : SliceId)
  /-- SERVICE_PACKET (R178): A plane V packet is delivered to its destination and served there. -/
  | servicePacket (index : Nat)
  /-- READ_RESPONSE (R170): A read response beat or transaction lands at the requester's destination. -/
  | readResponse (src : ResponseSource)
  /-- ACKNOWLEDGEMENT (R173): A home's acknowledgement of writes reaches the sending channel and counts toward completion. -/
  | acknowledgement (index : Nat)
  /-- REFUSAL (R336): A refusal reaches the sending channel and halts it with cause 0x5 or 0x6. -/
  | refusal (index : Nat)
  /-- STALL (R183): A side waits past MS_STALL_LIMIT, so a stall record is logged and a mesh event may be raised. -/
  | stall (what : StallSite)
  /-- POP (R186): A write of MS_CTRL.POP drops the head record of the stall log. -/
  | pop (rq : Requester)
  /-- OPEN (R207): Opens a free context for the issuing function. -/
  | openContext (via : ContextPath) (ctx : CtxId)
  /-- PARK (R206): Parks an idle or ready context, or requests a park at the close for a running one. -/
  | park (via : ContextPath) (ctx : CtxId)
  /-- RESUME (R188): Moves a parked context to ready or idle. -/
  | resumeContext (via : ContextPath) (ctx : CtxId)
  /-- DROP (R206): Frees a context, or requests a drop at the close for a running one. -/
  | dropContext (via : ContextPath) (ctx : CtxId)
  /-- CLAIM (R208): A non-owner takes a context that is marked for hand-over or whose port is lost. -/
  | claim (via : ContextPath) (ctx : CtxId)
  /-- ASSIGN (R209): A supervisor core gives a non-free context to a named owner. -/
  | assign (via : ContextPath) (ctx : CtxId)
  /-- CX_IN_DB (R192): The input doorbell moves IN_TAIL and may make the context ready. -/
  | cxInDb (port : HostPort) (func : FuncId) (ctx : CtxId) (value : BitVec 32)
  /-- CX_OUT_DB (R192): The output doorbell moves OUT_HEAD and may make the context ready. -/
  | cxOutDb (port : HostPort) (func : FuncId) (ctx : CtxId) (value : BitVec 32)
  /-- RECORD_WRITE (R189): A write to record fields through the record window or CX_RECW, applied where R189 allows it. -/
  | recordWrite (path : RecordPath) (size : AccessSize) (half : Bool) (value : BitVec 32)
  /-- CLOSE (R202): After the DONEID wait completes, the context engine closes the step, appends outputs and moves records to new states. -/
  | closeStep
  /-- GATHER_TIMEOUT (R197): The gather window of CX_GATHER expires. -/
  | gatherTimeout
  /-- COMPOSE (R198): The composer selects ready contexts, assigns slots and writes the slot map and slot inputs. -/
  | compose
  /-- RELEASE (R200): Once the composition writes are acknowledged, CX_STEP increments, the map is forwarded and RELID is signalled. -/
  | release
  /-- FOLLOWER_RELEASE (R210): A follower releases a step once its whole map has arrived and its DONEID wait has completed. -/
  | followerRelease
  /-- SLOT_MAP_PART (R357): A slot-map part arrives and is gathered by step number or discarded. -/
  | slotMapPart (sender : BitVec 16) (stepNo : BitVec 32) (part : Fin 32) (data : List Byte)
  /-- MAP_CREDIT (R357): A receiver's map credit returns to the sender and frees its next map. -/
  | mapCredit (sender : BitVec 16) (stepNo : BitVec 32)
  /-- MAP_RESEND (R212): A map whose credit has not returned within CX_MAPRT is sent again. -/
  | mapResend (receiver : BitVec 16)
  /-- ZTRAP (R221): The zero word takes an instruction fault with cause 0x1. -/
  | ztrap (c : CoreId)
  /-- NOP (R221): Does nothing. -/
  | nop (c : CoreId)
  /-- WFI (R221): Clock-gates the core until an interrupt is pending above the mask level. -/
  | wfi (c : CoreId)
  /-- FENCE (R278): Waits until the named scalar stores and engine work have reached their stated points. -/
  | fence (c : CoreId) (g : Bool) (d : Bool) (v : Bool) (m : Bool) (st : Bool)
  /-- GCALL (R241): Calls through a gate entry, writing a gate frame and changing ring. -/
  | gcall (c : CoreId) (gate : BitVec 8)
  /-- GRET (R241): Returns from a gate frame to the caller's ring. -/
  | gret (c : CoreId)
  /-- RETE (R249): Returns from an exception frame and resumes the engines held at that TSR. -/
  | rete (c : CoreId)
  /-- MFS (R222): Reads a special register. -/
  | mfs (c : CoreId) (reg : BitVec 4) (spr : BitVec 8)
  /-- MTS (R222): Writes a special register. -/
  | mts (c : CoreId) (reg : BitVec 4) (spr : BitVec 8)
  /-- ISYNC (R221): Discards fetched instructions once earlier instructions have completed. -/
  | isync (c : CoreId)
  /-- MOV (R223): Register move gD := gS. -/
  | mov (c : CoreId) (rd : BitVec 4) (rs : BitVec 4)
  /-- ADD (R223): Register add with flags. -/
  | add (c : CoreId) (rd : BitVec 4) (rs : BitVec 4)
  /-- ADC (R223): Register add with carry. -/
  | adc (c : CoreId) (rd : BitVec 4) (rs : BitVec 4)
  /-- SUB (R223): Register subtract. -/
  | sub (c : CoreId) (rd : BitVec 4) (rs : BitVec 4)
  /-- SBC (R223): Register subtract with borrow. -/
  | sbc (c : CoreId) (rd : BitVec 4) (rs : BitVec 4)
  /-- CMP (R223): Register compare setting the flags. -/
  | cmp (c : CoreId) (rd : BitVec 4) (rs : BitVec 4)
  /-- AND (R223): Register bitwise AND. -/
  | and (c : CoreId) (rd : BitVec 4) (rs : BitVec 4)
  /-- OR (R223): Register bitwise OR. -/
  | or (c : CoreId) (rd : BitVec 4) (rs : BitVec 4)
  /-- XOR (R223): Register bitwise XOR. -/
  | xor (c : CoreId) (rd : BitVec 4) (rs : BitVec 4)
  /-- TST (R223): Register bit test setting the flags. -/
  | tst (c : CoreId) (rd : BitVec 4) (rs : BitVec 4)
  /-- SHL (R223): Register logical shift left. -/
  | shl (c : CoreId) (rd : BitVec 4) (rs : BitVec 4)
  /-- SHR (R223): Register logical shift right. -/
  | shr (c : CoreId) (rd : BitVec 4) (rs : BitVec 4)
  /-- SAR (R223): Register arithmetic shift right. -/
  | sar (c : CoreId) (rd : BitVec 4) (rs : BitVec 4)
  /-- ROL (R223): Register rotate left. -/
  | rol (c : CoreId) (rd : BitVec 4) (rs : BitVec 4)
  /-- MULL (R223): Low 16 bits of a product. -/
  | mull (c : CoreId) (rd : BitVec 4) (rs : BitVec 4)
  /-- MULHU (R223): High 16 bits of an unsigned product. -/
  | mulhu (c : CoreId) (rd : BitVec 4) (rs : BitVec 4)
  /-- MOVI (R223): Immediate move. -/
  | movi (c : CoreId) (rd : BitVec 4) (imm : BitVec 16)
  /-- ADDI (R223): Immediate add. -/
  | addi (c : CoreId) (rd : BitVec 4) (imm : BitVec 16)
  /-- ADCI (R223): Immediate add with carry. -/
  | adci (c : CoreId) (rd : BitVec 4) (imm : BitVec 16)
  /-- SUBI (R223): Immediate subtract. -/
  | subi (c : CoreId) (rd : BitVec 4) (imm : BitVec 16)
  /-- SBCI (R223): Immediate subtract with borrow. -/
  | sbci (c : CoreId) (rd : BitVec 4) (imm : BitVec 16)
  /-- CMPI (R223): Immediate compare. -/
  | cmpi (c : CoreId) (rd : BitVec 4) (imm : BitVec 16)
  /-- ANDI (R223): Immediate AND. -/
  | andi (c : CoreId) (rd : BitVec 4) (imm : BitVec 16)
  /-- ORI (R223): Immediate OR. -/
  | ori (c : CoreId) (rd : BitVec 4) (imm : BitVec 16)
  /-- XORI (R223): Immediate XOR. -/
  | xori (c : CoreId) (rd : BitVec 4) (imm : BitVec 16)
  /-- TSTI (R223): Immediate bit test. -/
  | tsti (c : CoreId) (rd : BitVec 4) (imm : BitVec 16)
  /-- SHL_IMMEDIATE (R223): Shift left by an immediate count in group 0x2. -/
  | shlImmediate (c : CoreId) (rd : BitVec 4) (imm : BitVec 16)
  /-- SHR_IMMEDIATE (R223): Logical shift right by an immediate count in group 0x2. -/
  | shrImmediate (c : CoreId) (rd : BitVec 4) (imm : BitVec 16)
  /-- SAR_IMMEDIATE (R223): Arithmetic shift right by an immediate count in group 0x2. -/
  | sarImmediate (c : CoreId) (rd : BitVec 4) (imm : BitVec 16)
  /-- ROL_IMMEDIATE (R223): Rotate left by an immediate count in group 0x2. -/
  | rolImmediate (c : CoreId) (rd : BitVec 4) (imm : BitVec 16)
  /-- MULLI (R223): Low product with an immediate. -/
  | mulli (c : CoreId) (rd : BitVec 4) (imm : BitVec 16)
  /-- MULHUI (R223): High unsigned product with an immediate. -/
  | mulhui (c : CoreId) (rd : BitVec 4) (imm : BitVec 16)
  /-- MOVQ (R224): Sets a register to a sign-extended 8-bit immediate. -/
  | movq (c : CoreId) (rd : BitVec 4) (imm : BitVec 8)
  /-- ADDQ (R224): Adds a sign-extended 8-bit immediate. -/
  | addq (c : CoreId) (rd : BitVec 4) (imm : BitVec 8)
  /-- NOT (R224): Bitwise complement. -/
  | not (c : CoreId) (rd : BitVec 4)
  /-- NEG (R224): Two's complement negation. -/
  | neg (c : CoreId) (rd : BitVec 4)
  /-- SWAPB (R224): Exchanges the two bytes of a register. -/
  | swapb (c : CoreId) (rd : BitVec 4)
  /-- ZXB (R224): Zero-extends the low byte. -/
  | zxb (c : CoreId) (rd : BitVec 4)
  /-- SXB (R224): Sign-extends the low byte. -/
  | sxb (c : CoreId) (rd : BitVec 4)
  /-- CLZ (R224): Counts leading zero bits. -/
  | clz (c : CoreId) (rd : BitVec 4)
  /-- POPC (R224): Counts set bits. -/
  | popc (c : CoreId) (rd : BitVec 4)
  /-- SHLI (R224): Unary shift left by count N. -/
  | shli (c : CoreId) (rd : BitVec 4) (n : BitVec 4)
  /-- SHRI (R224): Unary logical shift right by count N. -/
  | shri (c : CoreId) (rd : BitVec 4) (n : BitVec 4)
  /-- SARI (R224): Unary arithmetic shift right by count N. -/
  | sari (c : CoreId) (rd : BitVec 4) (n : BitVec 4)
  /-- ROLI (R224): Unary rotate left by count N. -/
  | roli (c : CoreId) (rd : BitVec 4) (n : BitVec 4)
  /-- AMOV (R225): Copies one address register to another. -/
  | amov (c : CoreId) (ra : BitVec 3) (x : BitVec 3)
  /-- AADD (R225): Adds a sign-extended general register to an address register. -/
  | aadd (c : CoreId) (ra : BitVec 3) (x : BitVec 4)
  /-- AADDP (R225): Adds a sign-extended pair to an address register. -/
  | aaddp (c : CoreId) (ra : BitVec 3) (x : BitVec 4)
  /-- AADDI (R225): Adds a sign-extended immediate to an address register. -/
  | aaddi (c : CoreId) (ra : BitVec 3) (imm : BitVec 16)
  /-- AMOVI (R225): Loads a 48-bit immediate into an address register. -/
  | amovi (c : CoreId) (ra : BitVec 3) (imm : BitVec 48)
  /-- APC (R225): Loads a PC-relative address into an address register. -/
  | apc (c : CoreId) (ra : BitVec 3) (disp : BitVec 32)
  /-- AMOVG (R225): Moves a quad into an address register. -/
  | amovg (c : CoreId) (ra : BitVec 3) (x : BitVec 4)
  /-- GMOVA (R225): Moves an address register into a quad. -/
  | gmova (c : CoreId) (ra : BitVec 3) (x : BitVec 4)
  /-- ACMP (R225): Compares two address registers over 48 bits. -/
  | acmp (c : CoreId) (ra : BitVec 3) (x : BitVec 3)
  /-- LD (R226): Loads one word. -/
  | ld (c : CoreId) (vol : Bool) (mode : BitVec 2) (rd : BitVec 4) (rb : BitVec 3) (disp : BitVec 16)
  /-- LD_P (R226): Loads a pair. -/
  | ldP (c : CoreId) (vol : Bool) (mode : BitVec 2) (rd : BitVec 4) (rb : BitVec 3) (disp : BitVec 16)
  /-- LD_Q (R226): Loads a quad. -/
  | ldQ (c : CoreId) (vol : Bool) (mode : BitVec 2) (rd : BitVec 4) (rb : BitVec 3) (disp : BitVec 16)
  /-- LD_A (R226): Loads an address register or LK from 3 words. -/
  | ldA (c : CoreId) (vol : Bool) (mode : BitVec 2) (rd : Fin 9) (rb : BitVec 3) (disp : BitVec 16)
  /-- ST (R226): Stores one word through the store buffer. -/
  | st (c : CoreId) (mode : BitVec 2) (rd : BitVec 4) (rb : BitVec 3) (disp : BitVec 16)
  /-- ST_P (R226): Stores a pair. -/
  | stP (c : CoreId) (mode : BitVec 2) (rd : BitVec 4) (rb : BitVec 3) (disp : BitVec 16)
  /-- ST_Q (R226): Stores a quad. -/
  | stQ (c : CoreId) (mode : BitVec 2) (rd : BitVec 4) (rb : BitVec 3) (disp : BitVec 16)
  /-- ST_A (R226): Stores an address register or LK as 3 words. -/
  | stA (c : CoreId) (mode : BitVec 2) (rd : Fin 9) (rb : BitVec 3) (disp : BitVec 16)
  /-- SHORT_BRANCH (R227): Branches by an 8-bit displacement when its condition holds. -/
  | shortBranch (c : CoreId) (cond : Fin 15) (disp : BitVec 8)
  /-- JCC (R227): Jumps by a 32-bit displacement when its condition holds. -/
  | jcc (c : CoreId) (cond : Fin 15) (disp : BitVec 32)
  /-- CALL (R227): Writes LK and jumps PC-relative. -/
  | call (c : CoreId) (disp : BitVec 32)
  /-- JMPA (R227): Jumps to an address register. -/
  | jmpa (c : CoreId) (ra : BitVec 3)
  /-- CALLA (R227): Writes LK and jumps to an address register. -/
  | calla (c : CoreId) (ra : BitVec 3)
  /-- RET (R227): Jumps to LK. -/
  | ret (c : CoreId)
  /-- LMOV (R228): Long move. -/
  | lmov (c : CoreId) (w : Bool) (rd : BitVec 3) (rs : BitVec 3)
  /-- LADD (R228): Long add. -/
  | ladd (c : CoreId) (w : Bool) (rd : BitVec 3) (rs : BitVec 3)
  /-- LSUB (R228): Long subtract. -/
  | lsub (c : CoreId) (w : Bool) (rd : BitVec 3) (rs : BitVec 3)
  /-- LCMP (R228): Long compare. -/
  | lcmp (c : CoreId) (w : Bool) (rd : BitVec 3) (rs : BitVec 3)
  /-- LAND (R228): Long AND. -/
  | land (c : CoreId) (w : Bool) (rd : BitVec 3) (rs : BitVec 3)
  /-- LOR (R228): Long OR. -/
  | lor (c : CoreId) (w : Bool) (rd : BitVec 3) (rs : BitVec 3)
  /-- LXOR (R228): Long XOR. -/
  | lxor (c : CoreId) (w : Bool) (rd : BitVec 3) (rs : BitVec 3)
  /-- LNEG (R228): Long negate. -/
  | lneg (c : CoreId) (w : Bool) (rd : BitVec 3)
  /-- LSHL (R228): Long shift left. -/
  | lshl (c : CoreId) (w : Bool) (rd : BitVec 3) (rs : BitVec 3)
  /-- LSHR (R228): Long logical shift right. -/
  | lshr (c : CoreId) (w : Bool) (rd : BitVec 3) (rs : BitVec 3)
  /-- LSAR (R228): Long arithmetic shift right. -/
  | lsar (c : CoreId) (w : Bool) (rd : BitVec 3) (rs : BitVec 3)
  /-- LMULU (R228): Low half of a long product. -/
  | lmulu (c : CoreId) (w : Bool) (rd : BitVec 3) (rs : BitVec 3)
  /-- LMULHU (R228): High half of an unsigned long product. -/
  | lmulhu (c : CoreId) (w : Bool) (rd : BitVec 3) (rs : BitVec 3)
  /-- LMULHS (R228): High half of a signed long product. -/
  | lmulhs (c : CoreId) (w : Bool) (rd : BitVec 3) (rs : BitVec 3)
  /-- LSXW (R228): Sign-extends a word or pair to the operation width. -/
  | lsxw (c : CoreId) (w : Bool) (rd : BitVec 3) (rs : BitVec 3)
  /-- EIS (R229): Pushes a command from general registers to an engine queue. -/
  | eis (c : CoreId) (eng : Engine) (len : Bool) (rg : BitVec 4)
  /-- EISM (R229): Pushes a command from memory to an engine queue. -/
  | eism (c : CoreId) (eng : Engine) (len : Bool) (ra : BitVec 3)
  /-- SIG (R231): Sends an amount to a translated counter or barrier. -/
  | sig (c : CoreId) (glb : Bool) (p : BitVec 3) (ident : BitVec 10)
  /-- WAIT (R231): Registers a threshold at a counter's node and clock-gates the scalar engine. -/
  | wait (c : CoreId) (glb : Bool) (p : BitVec 3) (ident : BitVec 10)
  /-- RESERVED_OPCODE (R219): Execution of a reserved encoding, with undefined results within the stated bounds. -/
  | reservedOpcode (c : CoreId)
  /-- EXCEPTION_ENTRY (R247): A synchronous fault or a deliverable asynchronous event is taken: engines hold, a frame is written and the handler starts. -/
  | exceptionEntry (c : CoreId) (what : EntryKind)
  /-- TABLE_WALK (R253): A TLB miss walks the two-level page table, one walk at a time in request order. -/
  | tableWalk (c : CoreId) (va : BitVec 48) (kind : AccessKind) (ring : BitVec 2)
  /-- TIMER (R258): XC_TNOW reaches XC_TCMP with TEN set, and a timer event is raised. -/
  | timer (c : CoreId)
  /-- TIMER_ARM (R258): A write to XC_TCMP, or one setting TEN, re-arms the core's timer. -/
  | timerArm (rq : Requester) (c : CoreId) (what : TimerReg) (value : BitVec 32)
  /-- SOFTWARE_INTERRUPT (R258): A write to XC_SWI raises a software interrupt on the named core. -/
  | softwareInterrupt (rq : Requester) (value : BitVec 32)
  /-- INVPAGE (R257): A write of TR_CTRL.INVPAGE invalidates the TLB entry of one page. -/
  | invpage (rq : Requester) (c : CoreId)
  /-- INVALL (R257): A write of TR_CTRL.INVALL invalidates every TLB entry. -/
  | invall (rq : Requester) (c : CoreId)
  /-- LINE_FILL (R265): A missed line arrives from its home and is delivered and allocated. -/
  | lineFill (cache : CacheName) (line : Nat)
  /-- STORE_ACKNOWLEDGEMENT (R268): A home acknowledges a buffered store, or reports a failure that raises a store error. -/
  | storeAcknowledgement (c : CoreId)
  /-- CACHE_ENABLE (R270): A write to CF_CTRL or CF_L2CTRL enables or disables a cache, refusing an enable while not clean. -/
  | cacheEnable (rq : Requester) (target : CacheTarget) (value : BitVec 32)
  /-- RANGE_OPERATION (R271): A write to CF_RANGE_CTRL starts invalidating a range, or every line, of the named caches. -/
  | rangeOperation (rq : Requester) (c : CoreId) (value : BitVec 32)
  /-- RANGE_COMPLETE (R273): A range operation finishes, and BUSY clears. -/
  | rangeComplete (c : CoreId)
  /-- COUNTER_SIGNAL (R285): A signal reaches its counter's node, adds to the count and completes satisfied waits. -/
  | counterSignal (index : Nat)
  /-- WAIT_COMPLETE (R292): A node's completion reaches the waiting core, writes WRES and wakes the engine. -/
  | waitComplete (index : Nat)
  /-- CONTEXT_NOTICE (R296): A park, resume or drop notice reaches a node and freezes, re-arms or drops that context's waits. -/
  | contextNotice (node : ClusterId) (ctx : CtxId)
  /-- LOCAL_NODE_ARRIVAL (R298): An arrival at a barrier's local node accumulates and forwards one arrival per expectation met. -/
  | localNodeArrival (index : Nat)
  /-- DIE_NODE_ARRIVAL (R298): The die node counts an arrival and completes a round, sending it up or releasing it. -/
  | dieNodeArrival (index : Nat)
  /-- BARRIER_ARRIVAL (R299): A child's arrival transaction with its status reaches the die node. -/
  | barrierArrival (link : LinkId) (bar : BarrierId) (lost : Bool)
  /-- BARRIER_RELEASE (R299): A release from the parent signals the exit counter and is passed on to the children. -/
  | barrierRelease (bar : BarrierId) (lost : Bool)
  /-- HAND_SETTING (R303): A debug-unlocked write to SY_CNT sets a count and examines the pending waits. -/
  | handSetting (rq : Requester) (value : BitVec 32)
  /-- TRANSLATION_WRITE (R290): A write to SY_XLAT updates a per-context entry in every replica before it is acknowledged. -/
  | translationWrite (rq : Requester) (value : BitVec 32)
  /-- REFRESH_DUE (R316): A refresh operation falls due, and the slice's refresh debt rises. -/
  | refreshDue (slice : SliceId)
  /-- REFRESH_OPERATION (R317): A slice refreshes one row of one bank in eight slots. -/
  | refreshOperation (slice : SliceId)
  /-- SCRUB (R318): A slice scrubs the next unit and writes back a corrected one. -/
  | scrub (slice : SliceId)
  /-- TRAINING (R319): A slice completes lane training and the zero fill, and TRAINED sets. -/
  | training (slice : SliceId) (failed : List (BitVec 9))
  /-- SELF_REFRESH_EXIT (R320): After a warm reset a slice leaves self-refresh and verifies its training values. -/
  | selfRefreshExit (slice : SliceId) (failed : List (BitVec 9)) (retrain : Bool)
  /-- FLIT_SEND (R331): A link sends a data, idle or control flit on a port that has room and credit. -/
  | flitSend (port : PortId) (what : FlitChoice)
  /-- FLIT_RECEIVE (R330): A port receives a flit and checks it, delivering in order, acknowledging, NAKing or replaying. -/
  | flitReceive (port : PortId) (words : List (List Nat)) (index : Fin 20)
  /-- LASER_FAILOVER (R324): A failed working laser is replaced by its spare within 2 µs. -/
  | laserFailover (wave : Fin 8)
  /-- NARROW (R327): A receiver finds a bad wavelength and names a narrower width and boundary in a control flit. -/
  | narrow (port : PortId) (bad : BitVec 8)
  /-- WIDTH_CHANGE (R327): Both ends change the port's width at the agreed block boundary. -/
  | widthChange (port : PortId)
  /-- LEAVE_SERVICE (R351): A port leaves service on a block timeout, an error rate, a lost wavelength group or a failed attestation. -/
  | leaveService (port : PortId) (cause : DownCause)
  /-- RETRAIN (R351): A write of OL_PORTm_STATE.RETRAIN takes the port out of service and retrains it. -/
  | retrain (rq : Requester) (port : PortId)
  /-- PORT_TRAINING (R348): A port completes a stage of bring-up: lock, attestation or final width. -/
  | portTraining (port : PortId) (stage : TrainStage)
  /-- LINK_LOST (R352): A link without a port in service for LOSTUS is lost, and its neighbour is declared lost. -/
  | linkLost (link : LinkId)
  /-- HUB_LOOKUP (R345): A transaction at the link hub is routed, delivered, refused or discarded. -/
  | hubLookup (index : Nat)
  /-- HEARTBEAT (R348): A heartbeat arrives on the management lane. -/
  | heartbeat (port : PortId)
  /-- NONCE (R349): A peer's attestation nonce arrives and is answered, or kept until level 1. -/
  | nonce (port : PortId) (value : List Byte)
  /-- REPORT_PART (R349): A part of a peer's attestation report arrives. -/
  | reportPart (port : PortId) (part : Fin 74) (data : List Byte)
  /-- VERDICT (R349): A peer's verdict on attestation arrives. -/
  | verdict (port : PortId) (accepted : Bool)
  /-- NOT_READY (R349): A peer's not-ready notice arrives and restarts the attestation limit. -/
  | notReady (port : PortId)
  /-- ATTESTATION_TIMEOUT (R349): No report arrives within 40 ms, so the port is out of service with ATTCAUSE 7. -/
  | attestationTimeout (port : PortId)
  /-- EPOCH_REPORT (R356): A peer's epoch report arrives, and a device at epoch 0 adopts it. -/
  | epochReport (port : PortId) (epoch : BitVec 16)
  /-- EPOCH_NOTICE (R354): An epoch notice arrives and switches an armed device, or sets UNARMED or EPOCHSKIP. -/
  | epochNotice (port : PortId) (epoch : BitVec 16)
  /-- ARM (R353): A write of OL_EPOCH.ARM arms the next table. -/
  | arm (rq : Requester)
  /-- GO (R354): A write of OL_EPOCH.GO switches an armed device to the next epoch. -/
  | go (rq : Requester)
  /-- ROUTE_TABLE_WRITE (R353): A write to OL_RT changes the next table and clears ARMED. -/
  | routeTableWrite (rq : Requester) (value : BitVec 32)
  /-- DRAIN_END (R355): DRAINUS passes after a switch, and the previous table is dropped. -/
  | drainEnd
  /-- CONFIGURATION_REQUEST (R366): A host configuration request is answered according to the service level. -/
  | configurationRequest (port : HostPort) (func : FuncId) (what : ConfigOp)
  /-- BAR0_ACCESS (R363): A host request to BAR0 reaches the port frame, function frame, MSI-X table or MG_ copy. -/
  | bar0Access (port : HostPort) (func : FuncId) (offset : BitVec 24) (req : Bar0Op)
  /-- HOST_WRITE (R372): A posted host write to BAR2 ring entries or BAR4 takes effect at its home in the stated order. -/
  | hostWrite (port : HostPort) (func : FuncId) (bar : HostBar) (offset : Nat) (data : List Byte) (be : List Bool) (ro : Bool) (poison : Bool)
  /-- HOST_READ (R372): A host read of BAR2 ring entries or BAR4 is served after earlier posted writes. -/
  | hostRead (port : HostPort) (func : FuncId) (bar : HostBar) (offset : Nat) (len : Nat) (be : List Bool)
  /-- HOST_WINDOW_WRITE (R371): A device write to a host window is accepted into the port's transmit order once credit allows. -/
  | hostWindowWrite (port : HostPort)
  /-- HOST_COMPLETION (R371): A completion for a device read arrives from the host, with data or with an error. -/
  | hostCompletion (port : HostPort) (tag : Nat) (status : CompletionStatus) (data : List Byte)
  /-- COMPLETION_TIMEOUT (R371): A device read gets no completion within the function's timeout. -/
  | completionTimeout (port : HostPort) (tag : Nat)
  /-- PORT_LOST (R375): A port's link is down, or its heartbeat is missing, for PX_HLOST.MS, so the port is lost. -/
  | portLost (port : HostPort)
  /-- HOST_HEARTBEAT (R375): A write to PX_HBEAT records a host heartbeat. -/
  | hostHeartbeat (rq : Requester) (port : HostPort) (value : BitVec 32)
  /-- PERST_N (R376): Assertion of a port's PERST_N resets that port alone. -/
  | perstN (port : HostPort)
  /-- HOT_RESET (R376): A hot reset resets one port's link, controller and configuration space. -/
  | hotReset (port : HostPort)
  /-- LINK_DISABLE (R376): Link disable resets one port's link, controller and configuration space. -/
  | linkDisable (port : HostPort)
  /-- FLR (R376): A function-level reset affects one function's requests and configuration space. -/
  | flr (port : HostPort) (func : FuncId)
  /-- LINK_UP (R377): A port's link comes up and then reaches its highest common speed and width. -/
  | linkUp (port : HostPort) (speed : Fin 6) (width : Fin 17)
  /-- BEGIN (R402): Opens a bank write and erases that bank's header. -/
  | beginWrite (rq : Requester)
  /-- CHUNK (R402): Appends bytes from SC_STAGE to the open bank write. -/
  | chunk (rq : Requester)
  /-- DRAMCHUNK (R402): Appends bytes from DRAM to the open bank write. -/
  | dramchunk (rq : Requester)
  /-- COMMIT (R402): Checks the written bank and writes its header last. -/
  | commit (rq : Requester)
  /-- ENROL (R398): Checks a vendor-signed owner record and makes it the pending owner. -/
  | enrol (rq : Requester)
  /-- TRANSFER (R398): Checks an owner-signed transfer record and makes it the pending owner. -/
  | transfer (rq : Requester)
  /-- ATTEST (R400): Writes a signed attestation bundle for a nonce into SC_RPT. -/
  | attest (rq : Requester)
  /-- EXTEND (R401): Extends a supervisor core's measurement with 64 staged bytes. -/
  | extend (rq : Requester)
  /-- UNLOCK (R399): Unlocks debug with a single-use owner token. -/
  | unlock (rq : Requester)
  /-- LOCK (R399): Locks debug. -/
  | lock (rq : Requester)
  /-- ABORT (R402): Closes an open bank write, leaving the bank with no acceptable header. -/
  | abort (rq : Requester)
  /-- OPERATION_COMPLETE (R403): A store or security operation ends, RESULT is written and BUSY clears. -/
  | operationComplete
  /-- SERVICE_LEVEL_0 (R395): Management runs, identity is derived, device data is verified and bank headers are read. -/
  | serviceLevel0 (seed : Option (List Byte))
  /-- SELECT_AND_LOAD (R392): Banks are selected and loaded with their fields checked and clamped, reaching level 1 or staying unconfigured. -/
  | selectAndLoad
  /-- SERVICE_LEVEL_2 (R395): Every slice is trained and every port has attested, so BAR2, BAR4 and slice schedules start. -/
  | serviceLevel2
  /-- SERVICE_LEVEL_3 (R395): Every port is at its final width or out of service, so clocks move to their targets and composition starts. -/
  | serviceLevel3
  /-- RAIL_START (R406): With PWR_EN asserted and VIN at least 59.0 V for 10 ms, the rails start and power-good asserts. -/
  | railStart
  /-- VIN_LOW (R407): VIN stays below 52.0 V for 10 µs, so power-good deasserts. -/
  | vinLow
  /-- VAON_PRESENT (R431): VAON becomes newly present, with power-on reset cause 0. -/
  | vaonPresent
  /-- PWR_EN_DEASSERT (R454): PWR_EN deasserted for 1 µs turns off every rail except VAON and enters power-on reset. -/
  | pwrEnDeassert
  /-- TELEMETRY (R408): The 1 ms telemetry sample updates the measurements and the cap trim. -/
  | telemetry (vin : Nat) (pin : Nat) (rails : List (Nat × Nat))
  /-- CONTROL_TICK (R415): The 10 µs estimator and controller tick computes a new goal for the activity limit. -/
  | controlTick (est : List Nat)
  /-- ACTIVITY_STEP (R413): The activity limit moves one unit toward its goal at the ramp slope. -/
  | activityStep
  /-- TEST_STRIP (R410): The 100 ms recalibration moves K toward the measured ratio, or rejects the ratio. -/
  | testStrip (measured : Nat)
  /-- CAPMISS (R416): The cap is still exceeded after 10 ms at a = 1, so CAPMISS sets. -/
  | capmiss
  /-- CAP_WRITE (R414): A write to PW_CAP within 150 to 600 W sets a new cap. -/
  | capWrite (rq : Requester) (value : BitVec 32)
  /-- GET_POWER (R423): The vendor command that returns power, voltage, cap and status. -/
  | getPower (via : Binding) (inst : Byte)
  /-- SET_CAP (R423): The vendor command that sets the power cap. -/
  | setCap (via : Binding) (inst : Byte) (cap : BitVec 16)
  /-- READ_REG (R423): The vendor command that reads a register with management's rights. -/
  | readReg (via : Binding) (inst : Byte) (addr : BitVec 64)
  /-- WRITE_REG (R423): The vendor command that writes a register with management's rights. -/
  | writeReg (via : Binding) (inst : Byte) (addr : BitVec 64) (value : BitVec 32)
  /-- GET_EVENTS (R423): The vendor command that returns PW_EVSTAT and MG_STAGE. -/
  | getEvents (via : Binding) (inst : Byte)
  /-- SET_ENDPOINT_ID (R422): The MCTP control message Set Endpoint ID. -/
  | setEndpointId (via : Binding) (eid : Byte)
  /-- GET_ENDPOINT_ID (R422): The MCTP control message Get Endpoint ID. -/
  | getEndpointId (via : Binding)
  /-- GET_MCTP_VERSION_SUPPORT (R422): The MCTP control message Get MCTP Version Support. -/
  | getMctpVersionSupport (via : Binding)
  /-- GET_MESSAGE_TYPE_SUPPORT (R422): The MCTP control message Get Message Type Support. -/
  | getMessageTypeSupport (via : Binding)
  /-- GET_VENDOR_DEFINED_SUPPORT (R422): The MCTP control message Get Vendor Defined Message Support. -/
  | getVendorDefinedSupport (via : Binding)
  /-- DIP_HOLD (R424): VIN stays below 57.0 V for 1 µs, so a dip hold begins and a_max becomes 64. -/
  | dipHold (minv : Nat)
  /-- DIP_HOLD_END (R424): VIN stays at or above 58.0 V for 1 ms, so the dip hold ends. -/
  | dipHoldEnd
  /-- TEMPERATURE_SAMPLE (R426): The 1 ms junction and DRAM reading moves thermal clocks and starts holds, hot refresh or a trip. -/
  | temperatureSample (junctions : List Int) (layers : List (List Int))
  /-- THERMAL_HOLD_END (R426): The temperatures stay low for 10 ms, so the thermal hold ends. -/
  | thermalHoldEnd
  /-- DENSITOMETER (R428): A periodic or post-reset measurement of path-delay slack begins in every cluster. -/
  | densitometer (slack : List Nat)
  /-- RUN (R428): A write of PW_DENS.RUN starts a densitometer measurement at once. -/
  | run (rq : Requester)
  /-- DENSITOMETER_STEP (R429): A re-measurement after lowering a target by 5 MHz completes, stopping or lowering again. -/
  | densitometerStep (cluster : ClusterId) (slack : Nat)
  /-- WARM (R431): RS_CMD WARM triggers a warm reset. -/
  | warm (rq : Requester)
  /-- COLD (R431): RS_CMD COLD triggers a cold reset. -/
  | cold (rq : Requester)
  /-- STANDBY (R437): RS_CMD STANDBY enters standby at level 3. -/
  | standby (rq : Requester)
  /-- WAKE (R437): RS_CMD WAKE ends standby with a warm reset of cause 9. -/
  | wake (rq : Requester)
  /-- CLEARRET (R436): RS_CMD CLEARRET clears the retired flag in flash. -/
  | clearret (rq : Requester)
  /-- MRST_N_ASSERT (R454): MRST_N asserted for 1 µs or longer triggers a cold reset. -/
  | mrstNAssert
  /-- WARM_RESET (R432): A warm reset begins 1 ms after its trigger, putting the DRAM into self-refresh and resetting the rest. -/
  | warmReset
  /-- LOCKUP_DELAY (R433): The lockup delay expires with a lockup standing and triggers a warm reset. -/
  | lockupDelay
  /-- STROKE (R434): A write to RS_SAFELIGHT is checked as a stroke that restarts the safelight count. -/
  | stroke (rq : Requester) (value : BitVec 32)
  /-- SLWARN (R434): Three-quarters of the safelight timeout pass without a stroke. -/
  | slwarn
  /-- SAFELIGHT_EXPIRY (R434): The safelight timeout passes without a stroke and triggers a warm reset. -/
  | safelightExpiry
  /-- ALERT_RESPONSE (R456): A read of the SMBus Alert Response Address is answered with 0x74 while ALERT_N is asserted. -/
  | alertResponse
  /-- MRST_N_DEASSERT (R431): Deassertion of MRST_N releases the logic reset held since assertion, and the cold-reset timeline starts counting. -/
  | mrstNDeassert
  /-- PERST_N_DEASSERT (R376): Deassertion of a port's PERST_N with REFCLK stable clears PX_PSTAT.PERST and starts link training. -/
  | perstNDeassert (port : HostPort)
  /-- DATA_LINK_LAYER_DOWN (R375): A PCI Express port's data link layer goes down by itself, clearing LINKUP, dropping accepted unsent writes into PX_ERR.DROPW and starting the host-lost count. -/
  | dataLinkLayerDown (port : HostPort)
  /-- VAON_LOSS (R406): VIN falls below 40 V, so VAON disappears and the state it keeps is lost, including the window history and PW_EVSTAT.TRIP. -/
  | vaonLoss
  /-- NOT_READY_NOTICE (R349): Every 10 ms, an end that holds a peer's nonce while below level 1 sends a not-ready notice on the management lane. -/
  | notReadyNotice (port : PortId)
  /-- SLICE_SLOT (R162): A slot of the fixed 1.3 GHz slice clock passes, so an SVC or REFRESH window spends one of its slots and the slice schedule moves to its next entry when the window is exhausted. -/
  | sliceSlot (slice : SliceId)
  deriving DecidableEq, Repr

end Sys2Proof
end

