-- ==== Sys2Proof/Machine/State.lean ====
section
/-! DEFINITION. The state of the block as plain data: every piece of state the spec gives the
machine, each with the value it holds right after a power-on reset. The registers of the register
region stand in one sparse map keyed by their byte offset in the region; what a register shows of
other state is computed when it is read (Machine/RegAccess.lean). -/

namespace Sys2Proof.Machine

/-- Why the machine stops with a fault. No meaning of this model answers with one on a well-formed
command: the spec gives every refused access an outcome of its own. -/
inductive Fault where
  /-- An internal table of the negative did not have its stated size. No step raises it; it is safe. -/
  | malformedTable
  deriving DecidableEq, Repr

/-- Why a command has no meaning. -/
inductive Refusal where
  /-- The command of this row has no meaning in the model yet. Raised by exec's arms only; safe. -/
  | notModelled (mnemonic : String)
  deriving DecidableEq, Repr

/-! ### Messages on the die and between devices -/

/-- The kinds of beat, packet and transaction (R156, R334). -/
inductive MsgKind where
  | write | readReq | readResp | ack | refusal | void
  | mapPart | mapCredit | barArrival | barRelease | management
  deriving DecidableEq, Repr

/-- A beat of a stream plane (R156), a packet of plane V (R178) or a transaction of the links
(R333). Fields a kind does not use hold their defaults. -/
structure Msg where
  kind  : MsgKind := .void
  /-- Destination and source device ID (R333). -/
  ddev  : Half := 0
  sdev  : Half := 0
  /-- Requester number (R113). -/
  req   : Nat := 0
  /-- DMA channel of the requester and its running count (R333, TAG). -/
  chan  : Nat := 0
  tag   : Nat := 0
  /-- Aperture generation a write carries (R131). -/
  gen   : Byte := 0
  /-- Target or source local byte address. -/
  addr  : Nat := 0
  len   : Nat := 0
  data  : List Byte := []
  be    : List Bool := []
  /-- Accumulate operation, if any (R108). -/
  acc   : Option (BitVec 2) := none
  /-- Destination offset in the requester's scratchpad of a stream read (R156). -/
  dest  : Nat := 0
  /-- The final beat of a descriptor to its home (R173). -/
  last  : Bool := false
  /-- Data of a read response that carries the poisoned code pattern (R313). -/
  poison : Bool := false
  /-- Route reason and aperture reason of a refusal (R334, R336). -/
  route : Nat := 0
  reason : Nat := 0
  /-- An access error or a host error in place of data, as the DMA event cause it gives (R146). -/
  error : Nat := 0
  /-- Writes an acknowledgement covers (R173, R335). -/
  count : Nat := 0
  /-- The unit a plane V packet or a response comes from (R179): a core, 1000 plus a slice, or a block. -/
  src   : Nat := 0
  /-- Epoch parity, bridge mark, and virtual channel of a transaction (R333, R343). -/
  ep    : Bool := false
  xb    : Bool := false
  vc    : Nat := 0
  /-- Link the transaction came in on, or 8 for this device (R343). -/
  from_ : Nat := 8
  /-- Step and part of a slot-map message, or barrier number (R334). -/
  stepNo : Nat := 0
  part  : Nat := 0
  lost  : Bool := false
  /-- Slice that relays the access, plus 1 (R175); 0 for none. -/
  relay : Nat := 0
  /-- How many of the crossings and latches of its route a plane V packet has entered (R153, R155, R178). -/
  hop   : Nat := 0
  /-- The scalar stores of its core that entered the entry crossing before a plane V packet (R179). -/
  stores : Nat := 0
  deriving DecidableEq, Repr

/-! ### What the block sends to the outside -/

/-- What leaves the block: answers, messages, pins, flits and blocks. -/
inductive Emission where
  /-- Data returned for a register read (R3, R5). -/
  | regData (rq : Requester) (addr : Nat) (value : Nat)
  /-- A register write that was carried out (R268). -/
  | regAck (rq : Requester) (addr : Nat)
  /-- An access error returned to a requester, with the cause of R252. -/
  | accessError (rq : Requester) (addr : Nat) (cause : Nat)
  /-- A completion of a host request: status 0 successful, 1 unsupported, 2 retry (R364, R366). -/
  | hostCompletion (port : HostPort) (func : Nat) (status : Nat) (data : List Byte) (poison : Bool)
  /-- An error reported through AER (R364, R379). -/
  | aer (port : HostPort) (func : Nat) (error : Nat)
  /-- An error message of a function: 0 correctable, 1 non-fatal, 2 fatal (R360, R379). -/
  | errorMessage (port : HostPort) (func : Nat) (severity : Nat)
  /-- A request the device sends to a host: write or read (R370). -/
  | hostWriteReq (port : HostPort) (func : Nat) (addr : Nat) (data : List Byte) (ro : Bool)
  | hostReadReq (port : HostPort) (func : Nat) (addr : Nat) (len : Nat) (tag : Nat)
  /-- An MSI-X message (R367). -/
  | msix (port : HostPort) (func : Nat) (vec : Nat) (addr : Nat) (data : Nat)
  /-- A response over MCTP: COMMAND, INSTANCE, STATUS and data (R423), or a control response (R422). -/
  | mctp (via : Binding) (command inst status : Nat) (data : List Nat)
  | mctpControl (via : Binding) (command : Nat) (data : List Nat)
  /-- The byte that answers the SMBus Alert Response Address (R456). -/
  | alertByte (value : Nat)
  /-- A flit sent on an optical port (R328). -/
  | flit (port : Nat) (bytes : List Byte)
  /-- A block sent on an optical port: each wavelength with its PAM4 symbols (R326, R327). -/
  | block (port : Nat) (waves : List (Nat × List Nat))
  deriving DecidableEq, Repr

/-! ### Cores -/

/-- One TLB entry (R257). -/
structure TlbEntry where
  page  : Nat
  frame : Nat
  ring  : BitVec 2
  x     : Bool
  w     : Bool
  r     : Bool
  deriving DecidableEq, Repr

/-- An asynchronous event pending on a core (R243). -/
structure PendingEvent where
  vec   : Nat
  src   : Nat
  cause : Nat
  fa    : Addr
  deriving DecidableEq, Repr

/-- What the scalar engine is clock-gated on (R221, R231). -/
inductive Waiting where
  | no
  | wfi
  | counter (p : Nat)
  deriving DecidableEq, Repr

/-- A store in the store buffer (R268): its first virtual word, its local byte address and its bytes. -/
structure StoreEntry where
  va    : Addr
  la    : Nat
  bytes : List Byte
  ring  : BitVec 2
  /-- Sent to another core's scratchpad and held there at a full slot (R121), and how that ended: 0, or the
  cause of its store error. -/
  sent  : Bool := false
  ended : Option Nat := none
  deriving DecidableEq, Repr

/-- A line held by a cache: its way, the local byte address of the line, its data, the groups of 8 data bytes whose
parity is bad, whether its tag's parity is bad (R263, R267), and the cores whose range operation in progress will
remove it (R272). -/
structure CacheLine where
  way    : Nat
  line   : Nat
  data   : List Byte
  badGroups : List Nat := []
  badTag : Bool := false
  doomed : List Nat := []
  deriving DecidableEq, Repr

/-- A miss register (R265): the line requested, the data its home returned, stores to it that came
since, and whether its allocation was cancelled by a range operation (R272). -/
structure MissReg where
  line      : Nat
  data      : List Byte
  cancelled : Bool := false
  /-- For a supervisor core: the L1 also fills the L2 (R265). -/
  core      : Nat := 0
  deriving DecidableEq, Repr

/-- A cache: per set its valid lines, most recently used first (R263, R264), and its miss registers. -/
structure Cache where
  sets : SMap (List CacheLine) := []
  miss : List MissReg := []
  deriving DecidableEq, Repr

/-- A range operation in progress (R271). -/
structure RangeOp where
  i   : Bool
  d   : Bool
  l2  : Bool
  all : Bool
  /-- Cores whose operation on the L2 was started earlier and has not ended (R272). -/
  ahead : List Nat := []
  deriving DecidableEq, Repr

/-- An access of a load to a host window (R269, R371): its local address, its length, and once it has ended its
data, or none for an error. -/
structure HostLoad where
  la  : Nat
  len : Nat
  got : Option (Option (List Byte)) := none
  deriving DecidableEq, Repr

/-- An exception entry that waits for a frame write or for the handler's first word (R247). -/
structure Entering where
  vec   : Nat
  src   : Nat
  cause : Nat
  fa    : Addr
  sync  : Bool
  /-- ENTRYF of its escalation, once it has come to that. -/
  esc   : Option Nat := none
  deriving DecidableEq, Repr

/-- A frame that a core is writing (R245, R247): the pieces written, and, when the next one is held at a full slot of
another core's scratchpad, how it has ended: 0, or the cause of its error (R121). A GCALL keeps its gate entry. -/
structure FrameWrite where
  done  : Nat
  sent  : Bool := false
  ended : Option Nat := none
  gate  : List Half := []
  deriving DecidableEq, Repr

/-- A Jexvik-16 core (R214, R222, R243, R257, R262–R273). -/
structure Core where
  g       : SMap Half := []
  a       : SMap Addr := []
  lk      : Addr := 0
  pc      : Addr := 0
  /-- ST: ring 0, mask level 7, flags 0 (R214, R215). -/
  st      : Half := 0x3800
  wres    : Half := 0
  vbase   : Addr := 0
  tsr     : Addr := 0
  gtbase  : Addr := 0
  ttbase  : Addr := 0
  syncctx : Half := 0
  /-- Most recently used first; at most 64 (R257). -/
  tlb     : List TlbEntry := []
  pend    : List PendingEvent := []
  waiting : Waiting := .no
  entering : Option Entering := none
  /-- Original vector and cause of the failed escalation (R248). -/
  locked  : Option (Nat × Nat) := none
  stores  : List StoreEntry := []
  /-- The stores that have left the buffer since reset (R179). -/
  stored  : Nat := 0
  /-- A frame whose writing waits (R247). -/
  frameWrite : Option FrameWrite := none
  /-- The accesses of a load from a host window, first to last as they are made. -/
  hostLoads : List HostLoad := []
  icache  : Cache := {}
  dcache  : Cache := {}
  range   : Option RangeOp := none
  /-- The timer event of the present arming has been raised (R258). -/
  timerRaised : Bool := false
  deriving DecidableEq, Repr

/-! ### Engines of a compute core -/

/-- A command in an engine queue: its words, the ring and the SYNCCTX in force when it was pushed
(R255, R289), and whether it had begun writing before it was stopped (R63, R64). -/
structure EngineCmd where
  words : List Half
  ring  : BitVec 2
  sync  : Half := 0
  begun : Bool := false
  deriving DecidableEq, Repr

/-- A tile register: shape, contents and in-use flag (R41, R44). -/
structure Tile where
  rows  : Nat := 16
  rlen4 : Nat := 64
  data  : SMap Byte := []
  inUse : Bool := false
  deriving DecidableEq, Repr

/-- A save or a restore in progress (R69, R70): its first row, and the image that a save writes. -/
structure SaveJob where
  restore : Bool
  base    : Nat
  rows    : Nat
  image   : List Byte
  deriving DecidableEq, Repr

/-- An MMA that has formed its last outer product and is writing back (R59): its accumulator, the cells
it writes and the operand tiles it read. It holds its scoreboard entry (R111). -/
structure WriteBack where
  acc   : Nat
  cells : SMap Byte
  reads : List Nat
  deriving DecidableEq, Repr

/-- The matrix engine (R41–R71). Tiles 0–7 are T0–T7 and tiles 8–11 are C0–C3. -/
structure Mx where
  tiles    : SMap Tile := []
  queue    : List EngineCmd := []
  held     : Bool := false
  /-- The TSR recorded at the entry that held the engine; none when it held itself (R62, R250). -/
  heldTsr  : Option Addr := none
  /-- The resident accumulator (R61) and the cells. -/
  resident : Option Nat := none
  cells    : SMap Byte := []
  /-- Write-backs in flight, oldest first (R59). -/
  writeBacks : List WriteBack := []
  saving   : Option SaveJob := none
  deriving DecidableEq, Repr

/-- The recorded progress of a stopped multi-chunk command (R93). -/
structure Progress where
  pidx  : Nat
  chunk : Nat
  deriving DecidableEq, Repr

/-- The vector engine (R76–R96). -/
structure Vx where
  v        : SMap (SMap Byte) := []
  queue    : List EngineCmd := []
  held     : Bool := false
  heldTsr  : Option Addr := none
  progress : Option Progress := none
  saving   : Option SaveJob := none
  deriving DecidableEq, Repr

/-- The code state of a granule (R105–R107). -/
inductive GranuleCode where
  | good | single | poisoned
  deriving DecidableEq, Repr

/-- The states of an aperture (R127, SP_APn_CTRL.STATE). -/
inductive ApertureState where
  | closed | opened | closing
  deriving DecidableEq, Repr

/-- A slot of a slotted aperture (R117). -/
structure Slot where
  full : Bool := false
  fill : Nat := 0
  deriving DecidableEq, Repr

/-- An aperture beyond its registers: its state and its slots (R113, R116, R117). -/
structure Aperture where
  state : ApertureState := .closed
  slots : SMap Slot := []
  deriving DecidableEq, Repr

/-- A rectangle of rows and granules (R110). -/
structure Rect where
  row0 : Nat
  row1 : Nat
  g0   : Nat
  g1   : Nat
  deriving DecidableEq, Repr

/-- Who owns a scoreboard entry. -/
inductive SbOwner where
  | matrix | vector | channel (ch : Nat) | saveMatrix | saveVector
  deriving DecidableEq, Repr

/-- A scoreboard entry: one in-flight command's rectangles (R110, R111). -/
structure SbEntry where
  owner : SbOwner
  reads : List Rect := []
  write : Option Rect := none
  deriving DecidableEq, Repr

/-- A write held at a full slot (R121). -/
structure HeldWrite where
  ap    : Nat
  slot  : Nat
  plane : Nat
  msg   : Msg
  deriving DecidableEq, Repr

/-- A release that waits (R118). -/
structure ReleaseReq where
  ap    : Nat
  slot  : Nat
  count : Nat
  deriving DecidableEq, Repr

/-- The scratchpad of a compute core (R99–R125). -/
structure Sp where
  mem       : SMap Byte := []
  code      : SMap GranuleCode := []
  aps       : SMap Aperture := []
  held      : List HeldWrite := []
  releases  : List ReleaseReq := []
  /-- Granules whose corrected code word waits to be written back (R106). -/
  corrected : List Nat := []
  scoreboard : List SbEntry := []
  /-- The exit crossings and arrival buffers of planes S0, S1, S2 and V (R102, R155). -/
  arrivals  : SMap (List Msg) := []
  deriving DecidableEq, Repr

/-- Where one piece of a DMA run comes from or goes to. -/
inductive Place where
  | own (offset : Nat)
  | onDie (addr : Nat)
  | remote (dev : Half) (addr : Nat)
  | zeros
  | discard
  deriving DecidableEq, Repr

/-- A read of a DMA channel that has not returned: its tag, where its data goes, the descriptor and its
index, where the read goes, and whether its chain has been dropped (R146). -/
structure PendingRead where
  tag    : Nat
  remote : Bool
  dst    : Place
  desc   : List Half
  didx   : Nat
  dev    : Half
  addr   : Nat
  /-- The bytes wanted of the block that a stream read names: offset and length (R170). -/
  off    : Nat
  len    : Nat
  orphan : Bool := false
  /-- The data that has come, with its poison, while an earlier access to the same bytes is outstanding (R275). -/
  got    : Option (List Byte × Bool) := none
  deriving DecidableEq, Repr

/-- What stops a channel once the accesses before it have ended: a page fault or a poisoned granule of a local side,
with the virtual byte met (R107, R145), or a halt: cause, reason, device and address (R146). -/
inductive ChanStop where
  | page (cause v : Nat)
  | poison (granule v : Nat)
  | halt (cause reason : Nat) (dev : Half) (addr : Nat)
  deriving DecidableEq, Repr

/-- A write of a DMA channel to another device that has not been acknowledged (R335). -/
structure RemoteWrite where
  tag  : Nat
  dev  : Half
  addr : Nat
  didx : Nat
  deriving DecidableEq, Repr

/-- A DMA channel (R128–R146). -/
structure Chan where
  queue   : List EngineCmd := []
  /-- The DGO whose chain is in progress, and its descriptor buffer (R130). -/
  dgo     : Option EngineCmd := none
  chain   : List (List Half) := []
  /-- Index of the current descriptor and its position in the order of R132. -/
  didx    : Nat := 0
  z       : Nat := 0
  y       : Nat := 0
  x       : Nat := 0
  /-- A stopped position is recorded (R144). -/
  stopped : Bool := false
  /-- A stop that waits for the accesses before it. -/
  stop    : Option ChanStop := none
  /-- A hold waits for the accesses before the position to end, to record it (R144). -/
  stopping : Bool := false
  halted  : Bool := false
  /-- A chain that is held but completes, since its descriptor uses a stream plane (R144). -/
  finishing : Bool := false
  /-- Writes of this device sent and not yet acknowledged (R173), those to other devices, and the reads
  outstanding. -/
  unacked : Nat := 0
  remoteOut : List RemoteWrite := []
  reads   : List PendingRead := []
  /-- The running counts of tags: of every access, at the start of the chain, and of remote ones. -/
  tag     : Nat := 0
  base    : Nat := 0
  remote  : Nat := 0
  /-- Stream-plane writes each home has accepted and not yet acknowledged, by home (R173). -/
  owed    : SMap Nat := []
  /-- The plane of the latest descriptor started; 3 when it uses none (R141). -/
  plane   : Nat := 3
  /-- Stream-plane beats not yet issued, oldest first (R169–R171). -/
  outbox  : List (Nat × Msg) := []
  /-- Bytes of granules of the own scratchpad of which an accumulation has come in part (R109). -/
  accPart : SMap Byte := []
  deriving DecidableEq, Repr

/-- The DMA engine (R128, R144). -/
structure Dm where
  chans   : SMap Chan := []
  /-- The entry crossing of each stream plane (R155). -/
  crossings : SMap (List Msg) := []
  held    : Bool := false
  heldTsr : Option Addr := none
  deriving DecidableEq, Repr

/-! ### Mesh and DRAM -/

/-- One side of a router port on a stream plane (R159): the entry it is at, its loop counters, the
beats moved in the entry, its latch, and the outputs that have taken a forked beat. -/
structure Side where
  entry : Nat := 0
  left0 : Option Nat := none
  left1 : Option Nat := none
  moved : Nat := 0
  latch : Option Msg := none
  taken : List Nat := []
  /-- The stall watch has recorded this episode (R183). -/
  recorded : Bool := false
  /-- The ingress fills the rest of the entry with voids, in place of read requests or not (R172). -/
  voiding : Option Bool := none
  /-- The clock when the side last moved a beat (MS_PEEK.MOVING). -/
  movedAt : Option Nat := none
  deriving DecidableEq, Repr

/-- A place in a slice's D-input sequence: a response, or a relayed read whose data is awaited (R175). -/
inductive RespSlot where
  | ready (m : Msg)
  | awaiting (tag : Nat)
  deriving DecidableEq, Repr

/-- The bits of a unit's stored code word (R309): wrong ones as its layer holds them, by 8 × symbol + bit with the
symbols d0 to d63 and c0 to c7, and wrong ones as they arrive, by lane and transfer (R310–R312). -/
structure UnitErr where
  cells : List Nat := []
  lanes : List (Nat × Nat) := []
  deriving DecidableEq, Repr

/-- A unit that a slice holds for merging: its plane, the unit and the clock when it was read (R142). -/
structure MergeUnit where
  plane : Nat
  unit  : Nat
  at_   : Nat
  deriving DecidableEq, Repr

/-- A DRAM slice (R142, R161, R162, R306–R321). -/
structure Slice where
  entry   : Nat := 0
  left0   : Option Nat := none
  left1   : Option Nat := none
  moved   : Nat := 0
  inq     : SMap (List Msg) := []
  outq    : SMap (List Msg) := []
  /-- A relay's D-input sequence by plane, and its accesses outstanding (R175). -/
  relaySeq : SMap (List RespSlot) := []
  relayed : Nat := 0
  rtag    : Nat := 0
  movedAt : Option Nat := none
  debt    : Nat := 0
  /-- The 8 ms refresh interval is in force (R316). -/
  hot     : Bool := false
  trained : Bool := false
  trfail  : Bool := false
  selfRef : Bool := false
  err     : SMap UnitErr := []
  poisoned : SMap Bool := []
  /-- Lanes with a fault: it touches every unit (R309). -/
  badLanes : List Nat := []
  /-- The clock at each outer correction of the last second, by lane (R315). -/
  laneHits : SMap (List Nat) := []
  /-- Units held for merging (R142). -/
  merging : List MergeUnit := []
  recorded : Bool := false
  phase   : Nat := 0
  deriving DecidableEq, Repr

/-! ### Contexts -/

/-- The states of a context (R187). -/
inductive CtxState where
  | free | idle | ready | running | parked
  deriving DecidableEq, Repr

/-- A context record (R187); the default is a free record. -/
structure CtxRec where
  state    : CtxState := .free
  portB    : Bool := false
  func     : Nat := 0x1F
  prio     : Nat := 0
  handover : Bool := false
  parkReq  : Bool := false
  dropReq  : Bool := false
  ien      : Bool := false
  inHead   : Nat := 0
  inTail   : Nat := 0
  outHead  : Nat := 0
  outTail  : Nat := 0
  tokens   : Nat := 0
  kvroot   : Nat := 0
  syncBase : Nat := 0
  slotV    : Bool := false
  slot     : Nat := 0
  readyStep : Nat := 0
  userTag  : Nat := 0
  ivec     : Nat := 0
  deriving DecidableEq, Repr

/-- The phases of the context engine (R213, CX_STATUS.PHASE). -/
inductive CxPhase where
  | running | closing | gathering | composing
  deriving DecidableEq, Repr

/-- A slot map sent to a receiver whose credit has not returned (R212, R357). -/
structure SentMap where
  dev    : Half
  stepNo : Nat
  parts  : List (List Byte)
  deriving DecidableEq, Repr

/-- What reaches the context engine and may have to wait for a composition to end (R205). -/
inductive CtxReq where
  /-- A command: its code, the port and function that issue it or that it names, whether it came through a
  frame of BAR2, and its context (R204). -/
  | command (code : Nat) (portB : Bool) (func : Nat) (frame : Bool) (ctx : Nat)
  | inDb (portB : Bool) (func ctx tail : Nat)
  | outDb (portB : Bool) (func ctx head : Nat)
  /-- A write of the enabled halves of window register n: by a function through its frame, or through
  CX_RECW (R189, R190). -/
  | record (frame : Bool) (portB : Bool) (func ctx n : Nat) (lo hi : Bool) (value : Nat)
  deriving DecidableEq, Repr

/-- The context engine beyond its registers (R196–R212). -/
structure CxEngine where
  phase    : CxPhase := .running
  /-- A step has been released since the reset, so the next one waits for DONEID (R196). -/
  released : Bool := false
  /-- The gather window has passed (R197). -/
  gathered : Bool := false
  /-- The wait on DONEID has completed (R196). -/
  done     : Bool := false
  /-- Slots of the current step: context plus 1 per occupied slot, and the slot map as written. -/
  occ      : SMap Nat := []
  map      : List Byte := []
  /-- Slots of the step that a warm reset interrupted, context plus 1 (R439), until the next composition. -/
  kept     : SMap Nat := []
  /-- Requests that arrived during a close or a composition, oldest first (R205). -/
  deferred : List CtxReq := []
  /-- Slot-map parts gathered, by step × 32 + part (R212), the sender of the latest part, and the one whole
  map held ahead of its release (R210). -/
  rxParts  : SMap (List Byte) := []
  rxDev    : Half := 0
  heldMap  : Option (Nat × List Byte) := none
  /-- Per step already released, the parts of its map that came again and were discarded (R212). -/
  again    : SMap Nat := []
  sent     : List SentMap := []
  /-- Maps that wait in the hub for their receiver's credit (R357). -/
  waitingMaps : List SentMap := []
  deriving DecidableEq, Repr

/-! ### Synchronisation -/

/-- A wait registered at a counter's node (R286, R292): the core, or 776 for the context engine. -/
structure WaitReg where
  who    : Nat
  amount : Nat
  tag    : Option Nat
  frozen : Bool := false
  deriving DecidableEq, Repr

/-- A wait on its way to its counter's node: the counter, and how many signals of its source to that node were sent before
it and have not reached it (R179, R287). -/
structure SentWait where
  ctr   : Nat
  wait  : WaitReg
  ahead : Nat
  deriving DecidableEq, Repr

/-- A physical counter (R284). -/
structure Counter where
  count : Nat := 0
  lost  : Bool := false
  home  : Nat := 768
  waits : List WaitReg := []
  deriving DecidableEq, Repr

/-- What a signal names (R288). -/
inductive SigTarget where
  | counter (p : Nat)
  | barrier (b : Nat)
  deriving DecidableEq, Repr

/-- A signal on its way to its node (R291): its source (a core, or 776 for the context engine, 777
for a die node), its target, its amount and its LOST status (R299). -/
structure SigMsg where
  src    : Nat
  target : SigTarget
  amount : Nat
  lost   : Bool := false
  deriving DecidableEq, Repr

/-- A completion on its way to a waiter (R292). -/
structure WakeMsg where
  who    : Nat
  status : Nat
  cnt    : Nat
  deriving DecidableEq, Repr

/-- A notice of a context's state on its way to a node (R296), with the state and the SYNCBASE that the node still sees. -/
structure Notice where
  node   : Nat
  ctx    : Nat
  state  : CtxState
  former : CtxState
  base   : Nat
  deriving DecidableEq, Repr

/-- A barrier beyond its definition registers (R297–R301). -/
structure Barrier where
  cfg  : Word := 0
  inc  : Word := 0
  root : Word := 0
  box  : Word := 0
  exp  : SMap Nat := []
  acc  : SMap Nat := []
  die  : Nat := 0
  /-- Arrivals of children: per link, the statuses kept for rounds not yet completed (R299). -/
  kids : SMap (List Bool) := []
  /-- Children and the parent by link in the present tree (R300). -/
  children : List Nat := []
  parent   : Option Nat := none
  /-- Links whose neighbour is lost, substituted until the next switch (R301). -/
  lostKids : List Nat := []
  lostParent : Bool := false
  /-- Rounds of this node sent up and not yet released, with their status. -/
  pendingUp : List Bool := []
  rounds : Nat := 0
  lastLost : Bool := false
  deriving DecidableEq, Repr

/-- The synchronisation objects (R284–R303). -/
structure Sync where
  counters : SMap Counter := []
  xlat     : SMap Half := []
  xlatGlb  : SMap Half := []
  bars     : SMap Barrier := []
  sigs     : List SigMsg := []
  /-- Waits on their way behind signals of their own source, with their counters (R179, R287). -/
  regs     : List SentWait := []
  wakes    : List WakeMsg := []
  notices  : List Notice := []
  /-- Contexts parked in a node's view, keyed node × 4096 + context (R295, R296). -/
  parked   : SMap Bool := []
  /-- Arrivals of local nodes on their way to a die node: barrier, local node and number (R298). -/
  dieArrivals : List (Nat × Nat × Nat) := []
  deriving DecidableEq, Repr

/-! ### Optical links -/

/-- The states of a port (R359, OL_PORTm_STATE.STATE). -/
inductive PortState where
  | dark | training | attesting | ready | inService | outOfService | unused
  deriving DecidableEq, Repr

/-- An optical port (R323–R331, R348–R351). -/
structure OPort where
  state     : PortState := .dark
  width     : Nat := 0
  waves     : Nat := 0
  downCause : Nat := 0
  attCause  : Nat := 0
  /-- The wavelengths of the group in use (R327). -/
  lanes     : List Nat := []
  /-- The width that the next agreed block boundary brings, that boundary (R327), and whether bring-up has ended
  (R348). -/
  nextWidth : Option Nat := none
  boundary  : Nat := 0
  final     : Bool := false
  /-- The nonce this end has sent, a nonce of the peer kept until level 1 (R349). -/
  ownNonce  : Option (List Byte) := none
  peerNonce : Option (List Byte) := none
  report    : SMap (List Byte) := []
  /-- The clock when the limit of 40 ms began (R349). -/
  attAt     : Nat := 0
  /-- Whether this end has accepted its peer, and the peer this end. -/
  accepted  : Bool := false
  peerAccepted : Bool := false
  peerDigest : List Byte := []
  /-- The flits of the block that is being sent, and the count of blocks sent (R326). -/
  txBlock   : List (List Byte) := []
  blockCount : Nat := 0
  /-- The port has entered service and the notice of the epoch has not come (R354); the epoch of the latest notice
  for the current or the next epoch, and the epoch the peer's report named (R356). -/
  awaiting  : Bool := false
  noticeEpoch : Option Nat := none
  repEpoch  : Option Nat := none
  deriving DecidableEq, Repr

/-- The states of a link (R359, OL_LINKk_STATE.STATE). -/
inductive LinkState where
  | notInService | inService | lost
  deriving DecidableEq, Repr

/-- A data flit kept in the retry buffer (R330): its channel (lane × 4 + VC), its payload, and the transactions that end in it. -/
structure Flit where
  seq  : Nat
  key  : Nat
  payload : List Byte
  ends : List Msg
  deriving DecidableEq, Repr

/-- An optical link (R325, R330–R332, R352). -/
structure OLink where
  role    : Nat := 0
  state   : LinkState := .notInService
  peerDev : Half := 0
  peerCoord : Half := 0
  txSeq   : Nat := 0
  rxNext  : Nat := 0
  retry   : List Flit := []
  /-- Flits to send again after a NAK, oldest first. -/
  replay  : List Flit := []
  nakDue  : Bool := false
  /-- Transactions that wait, with their bytes not yet sent, by channel as in Flit, and the bytes received of
  a transaction that is not complete (R333). -/
  txq     : SMap (List (Msg × List Byte)) := []
  rxBytes : SMap (List Byte) := []
  /-- The channel of each lane that sent last (R332). -/
  turn    : SMap Nat := []
  /-- Flits sent and not yet credited, and credits owed, by channel (R332). -/
  used    : SMap Nat := []
  owed    : SMap Nat := []
  deriving DecidableEq, Repr

/-- A device entry of the domain section (R337). -/
structure DomDevice where
  digest : List Byte
  dev    : Nat
  coord  : Nat
  roles  : Nat
  deriving DecidableEq, Repr

/-- A bridge entry (R337). -/
structure DomBridge where
  digest : List Byte
  dev    : Nat
  link   : Nat
  peer   : Nat
  deriving DecidableEq, Repr

/-- A range entry (R337). -/
structure DomRange where
  first : Nat
  last  : Nat
  dev   : Nat
  link  : Nat
  deriving DecidableEq, Repr

/-- The domain section as loaded (R337); sizes of 1 when there is none (R300). -/
structure Domain where
  sizes   : List Nat := [1, 1, 1, 1]
  devices : List DomDevice := []
  bridges : List DomBridge := []
  ranges  : List DomRange := []
  standaloneId : Nat := 0
  deriving DecidableEq, Repr

/-- The optical links and the hub (R341–R357). -/
structure Ol where
  ports  : SMap OPort := []
  links  : SMap OLink := []
  cur    : SMap Byte := []
  next   : SMap Byte := []
  prev   : SMap Byte := []
  epoch  : Nat := 0
  armed  : Bool := true
  draining : Bool := false
  /-- The clock at the switch that the drain follows (R355). -/
  drainAt  : Nat := 0
  hub    : List Msg := []
  domain : Domain := {}
  /-- The report of the first attested peer has been heeded (R356). -/
  adopted : Bool := false
  mapped : Bool := false
  devId  : Half := 0
  coord  : Nat := 0
  /-- Wavelengths whose working laser, and whose spare, have failed (R324). -/
  workingFailed : BitVec 8 := 0
  spareFailed   : BitVec 8 := 0
  deriving DecidableEq, Repr

/-! ### PCI Express -/

/-- The error registers of a function (R360, R379): the reporting enables of Device Control and the bits of Device
Status [3:0], and the registers of the AER capability. -/
structure Aer where
  control  : Nat := 0
  status   : Nat := 0
  unc      : Nat := 0
  uncMask  : Nat := 0
  severity : Nat := 0x62010
  cor      : Nat := 0
  corMask  : Nat := 0x2000
  /-- The First Error Pointer and the header log. -/
  first    : Nat := 0
  header   : List Nat := [0, 0, 0, 0]
  deriving DecidableEq, Repr

/-- The configuration-space state of a function (R360–R362, R376). -/
structure FnCfg where
  /-- The base addresses of BAR0, BAR2 and BAR4 (R362). -/
  bars   : SMap Nat := []
  aer    : Aer := {}
  mse    : Bool := false
  bme    : Bool := false
  /-- The power state is D3hot (R360). -/
  d3     : Bool := false
  msixEn : Bool := false
  fmask  : Bool := false
  ero    : Bool := true
  bar4sz : Nat := 16
  mps    : Nat := 128
  mrrs   : Nat := 512
  cto    : Nat := 0
  deriving DecidableEq, Repr

/-- A device write accepted into a port's transmit order (R371). -/
structure HostReq where
  func : Nat
  addr : Nat
  data : List Byte
  ro   : Bool
  /-- An MSI-X message of this vector (R367, R373). -/
  vec  : Option Nat := none
  deriving DecidableEq, Repr

/-- A device read that awaits its completions, and the data that has come (R371). -/
structure HostRead where
  tag  : Nat
  func : Nat
  msg  : Msg
  got  : List Byte := []
  deriving DecidableEq, Repr

/-- A host request that its port has accepted: to DRAM, at the address that BAR4 gave it on its arrival (R365); to the
frames and rings of BAR2, or to BAR0 (R364); or to configuration space. -/
inductive HostOp where
  | dramWrite (addr : Nat) (data : List Byte) (be : List Bool) (poison : Bool)
  | dramRead (addr len : Nat)
  | frameWrite (offset : Nat) (data : List Byte) (be : List Bool) (poison : Bool)
  | frameRead (offset len : Nat) (be : List Bool)
  | bar0 (offset : Nat) (req : Bar0Op)
  | config (what : ConfigOp)
  deriving DecidableEq, Repr

/-- A request to configuration space. -/
def HostOp.isConfig : HostOp → Bool
  | .config _ => true
  | _ => false

/-- A host request that waits at its port for earlier posted writes (R372): its function, and whether its completion is
discarded since the port was reset (R376). -/
structure HostWait where
  func : Nat
  op   : HostOp
  mute : Bool := false
  deriving DecidableEq, Repr

/-- A PCI Express port beyond its registers (R360–R377). -/
structure PxPort where
  linkUp  : Bool := false
  lost    : Bool := false
  perst   : Bool := false
  speed   : Nat := 0
  width   : Nat := 0
  numVfs  : Nat := 0
  vfEnable : Bool := false
  /-- The VF BARs and the VF Resizable BAR size code of the PF's SR-IOV capability (R362). -/
  vfBars  : SMap Nat := []
  vfBar4sz : Nat := 16
  fns     : SMap FnCfg := []
  /-- MSI-X tables: function × 8192 + DW; the mask bits of entries are set after reset (R367). -/
  msix    : SMap Word := []
  pba     : SMap Bool := []
  tx      : List HostReq := []
  /-- Host-window accesses that wait to be accepted (R371). -/
  inbox   : List Msg := []
  reads   : List HostRead := []
  tag     : Nat := 0
  /-- Requests of the host that wait for earlier posted writes, oldest first (R372). -/
  waiting : List HostWait := []
  deriving DecidableEq, Repr

/-! ### Negative, security, power and reset -/

/-- The contents of the device-data area (R381). -/
structure DeviceData where
  /-- The PUF helper data (R381, R396). -/
  helper    : List Byte := []
  vendorKey : List Byte := []
  cert      : List Byte := []
  owner     : Option (List Byte) := none
  ownerGen  : Nat := 0
  pending   : Option (List Byte) := none
  pendingGen : Nat := 0
  svnFloor  : Nat := 0
  dbgCtr    : Nat := 0
  /-- Densitometer targets in units of 5 MHz, per cluster (R429). -/
  targets   : SMap Nat := []
  resetCount : Nat := 0
  retired   : Bool := false
  deriving DecidableEq, Repr

/-- A copy of the device-data area: sequence number, tag of 32 bytes, contents (R384). -/
structure DdCopy where
  seq  : Nat := 0
  tag  : List Byte := []
  body : DeviceData := {}
  deriving DecidableEq, Repr

/-- An open bank write (R402). -/
structure BankWrite where
  bank    : Nat
  owner   : Requester
  len     : Nat
  written : Nat := 0
  deriving DecidableEq, Repr

/-- What a store or security operation does when it ends (R402, R403). -/
inductive SecEffect where
  | none
  | openWrite (w : BankWrite)
  | append (bank offset : Nat) (data : List Byte)
  | header (bank : Nat) (data : List Byte)
  | owner (key : List Byte) (gen : Nat)
  | report (data : List Byte)
  | measure (j : Nat) (value : List Byte)
  | debug (on : Bool) (count : Bool)
  | closeWrite
  deriving DecidableEq, Repr

/-- The security controller (R395–R405). -/
structure Sec where
  flash   : SMap Byte := []
  copy0   : DdCopy := {}
  copy1   : DdCopy := {}
  /-- The device-data copy in force since level 0, the second if true (R384). -/
  area    : Option Bool := none
  /-- Pages of 4 KiB of module flash that can be neither read nor written (R390, R403): bank b begins at page
  0x20000 × b, device-data copy c at page 0x40000 + 0x800 × c. -/
  badPages : List Nat := []
  write   : Option BankWrite := none
  /-- The header held back until COMMIT writes it last (R383). -/
  header  : List Byte := []
  op      : Option (Nat × SecEffect) := none
  stage   : SMap Byte := []
  rpt     : SMap Byte := []
  meas    : SMap (List Byte) := []
  debug   : Bool := false
  seed    : Option (List Byte) := none
  /-- The effective owner's key, as read at the last power-on or cold reset (R398). -/
  owner   : Option (List Byte) := none
  idOk    : Bool := false
  /-- The bank in use and what its header says (R392, R400), and the bank that a warm reset reloads (R393). -/
  bank    : Option Nat := none
  reload  : Option Nat := none
  /-- The registers that hold the running negative's values, as its load left them (R6, R438). -/
  loaded  : SMap Word := []
  imgSeq  : Nat := 0
  imgSvn  : Nat := 0
  imgDig  : List Byte := []
  raiseFloor : Bool := false
  deriving DecidableEq, Repr

/-- What the controller has learned of a phase in a cluster (R418). -/
structure Learned where
  l    : Nat := 0
  n    : Nat := 0
  hint : Bool := false
  deriving DecidableEq, Repr

/-- The present occupation of a cluster's phase (R417, R418): whether one has begun, whether a whole interval has begun
in it, the whole intervals and the sum of their powers in 1/65,536 of 1/64 W. -/
structure Occupation where
  begun : Bool := false
  whole : Bool := false
  n     : Nat := 0
  sum   : Nat := 0
  deriving DecidableEq, Repr

/-- The power controller (R406–R429). Watts are kept in units of 1/40,960,000 W, in which every value of R415 is whole. -/
structure Pw where
  /-- Rails other than VAON are on, and power-good is asserted (R406). -/
  railsOn  : Bool := false
  vaon     : Bool := true
  pwrEn    : Bool := true
  mrst     : Bool := false
  /-- A trip holds the rails off until PWR_EN is cycled (R427). -/
  tripped  : Bool := false
  act      : Nat := 64
  goal     : Nat := 64
  trim     : Int := 0
  fixed    : Int := 0
  /-- Estimates: the last tick's, and the sums over the present millisecond and test strip. -/
  est      : SMap Nat := []
  estMs    : Nat := 0
  estStrip : Nat := 0
  room     : Int := 0
  rails    : SMap (Nat × Nat) := []
  learned  : SMap Learned := []
  occupied : SMap Occupation := []
  dipHold  : Bool := false
  /-- The reasons of the thermal hold: a junction, and a DRAM layer (R426). -/
  holdJunction : Bool := false
  holdLayer : Bool := false
  capMissed : Bool := false
  missMs   : Nat := 0
  okMs     : Nat := 0
  throttled : SMap Bool := []
  tj       : SMap Int := []
  /-- A densitometer measurement waits or runs; the clusters that still lower their target (R428, R429). -/
  densBusy : Bool := false
  /-- A measurement has ended since the latest power-on or cold reset (R428). -/
  measured : Bool := false
  lowering : SMap Bool := []
  changed  : Bool := false
  degraded : SMap Bool := []
  slack    : SMap Nat := []
  eids     : SMap Byte := []
  deriving DecidableEq, Repr

/-- The reset controller (R431–R443). -/
structure Rs where
  /-- The trigger of a warm reset that has not begun, as its cause (R431). -/
  warmCause : Option Nat := none
  /-- A reset is under way: level 3 has not been reached since it began. -/
  inReset   : Bool := true
  warmKind  : Bool := false
  standby   : Bool := false
  history   : List Nat := []
  retired   : Bool := false
  /-- The count was lost with VAON, and level 0 adds what the device-data area holds (R435). -/
  countLost : Bool := true
  /-- The clock when the lockup delay began that runs (R433). -/
  lockDelay : Option Nat := none
  armed     : Bool := false
  /-- The clock at the latest stroke or arming (R434). -/
  strokeAt  : Nat := 0
  /-- Three-quarters of the timeout have passed in this count (R434). -/
  warned    : Bool := false
  seq       : Byte := 0
  last      : Nat := 0
  inWin     : Nat := 0
  count     : Nat := 1
  accepted  : Bool := false
  deriving DecidableEq, Repr

/-- The state of the device. -/
structure State where
  /-- Commands that wait, first in, first out. -/
  pending : List Instr := []
  /-- Microseconds of the management reference clock (R452), and its value at the latest reset and at
  the latest power-on reset. -/
  clock   : Nat := 0
  resetAt : Nat := 0
  powerOnAt : Nat := 0
  /-- The service level (R395), and whether the level-0 work of this reset has been done. -/
  level   : Nat := 0
  level0  : Bool := false
  /-- The clock when level 1 was reached (R440). -/
  level1At : Nat := 0
  /-- Registers of the register region by byte offset (R460), where they differ from reset. -/
  regs    : SMap Word := []
  cores   : SMap Core := []
  l2      : Cache := {}
  mx      : SMap Mx := []
  vx      : SMap Vx := []
  sp      : SMap Sp := []
  dm      : SMap Dm := []
  dram    : SMap Byte := []
  sram    : SMap Byte := []
  /-- SRAM granules that are uncorrectable (R237). -/
  sramBad : SMap Bool := []
  sides   : SMap Side := []
  /-- Router tables: side × 256 + entry, as they differ from a table whose entry 0 is IDLE; slice schedules:
  slice × 256 + entry, as they differ from the schedule of R387; and the period counts minus 1, by side and
  by 100,000 plus the slice. -/
  tables  : SMap Word := []
  periods : SMap Nat := []
  slices  : SMap Slice := []
  schedules : SMap Word := []
  stallLog : List Word := []
  /-- Plane V requests and responses on their way (R178). -/
  vReq    : List Msg := []
  vResp   : List Msg := []
  /-- The input that each output of plane V served last, by output and class (R178). -/
  vTurn   : SMap Nat := []
  ctx     : SMap CtxRec := []
  cx      : CxEngine := {}
  sync    : Sync := {}
  ol      : Ol := {}
  px      : SMap PxPort := []
  sec     : Sec := {}
  pw      : Pw := {}
  rs      : Rs := {}
  /-- Proof records of the accepted image, and clamps made (R391). -/
  proof   : List (List Byte) := []
  /-- The next free value to be drawn: the model's own field. -/
  freeCount : Nat := 0
  /-- What the block has sent to the outside, latest first: the model's own field. -/
  out     : List Emission := []
  deriving DecidableEq, Repr

/-- The state right after power-on reset with VAON newly present: reset cause 0 (R431). -/
def State.reset : State := {}

end Sys2Proof.Machine
end

