-- ==== Sys2Proof/Machine/Bits.lean ====
section
/-! DEFINITION. Bit fields, byte order and sign extension: the helpers every layout uses. -/

namespace Sys2Proof.Machine

/-- Bits [hi:lo] of a number. -/
def bits (x hi lo : Nat) : Nat := (x >>> lo) % 2 ^ (hi + 1 - lo)

/-- Bit n of a number. -/
def bit (x n : Nat) : Bool := x.testBit n

/-- A number where a condition holds, and 0 otherwise. -/
def oneIf (b : Bool) (n : Nat) : Nat := if b then n else 0

/-- Replaces bits [hi:lo] of a number by the low bits of v. -/
def setBits (x hi lo v : Nat) : Nat :=
  (x >>> (hi + 1)) <<< (hi + 1) + (v % 2 ^ (hi + 1 - lo)) <<< lo + x % 2 ^ lo

/-- The number of a list of bytes, lowest byte first (R2). -/
def leNat : List Byte → Nat
  | [] => 0
  | b :: r => b.toNat + 256 * leNat r

/-- The n bytes of a number, lowest first (R2). -/
def leBytes : Nat → Nat → List Byte
  | 0, _ => []
  | n + 1, v => BitVec.ofNat 8 v :: leBytes n (v / 256)

/-- A list of halves as bytes, word 0 at the lowest address (R2). -/
def halfBytes (ws : List Half) : List Byte := ws.flatMap fun w => leBytes 2 w.toNat

/-- A list of bytes as halves (R2). -/
def bytesHalf : List Byte → List Half
  | a :: b :: r => BitVec.ofNat 16 (a.toNat + 256 * b.toNat) :: bytesHalf r
  | [a] => [BitVec.ofNat 16 a.toNat]
  | [] => []

/-- Word n of a layout; 0 beyond its end. -/
def wordAt (ws : List Half) (n : Nat) : Nat := (ws.getD n 0).toNat

/-- The 48-bit number in words n, n + 1, n + 2. -/
def addrAt (ws : List Half) (n : Nat) : Nat :=
  wordAt ws n + wordAt ws (n + 1) * 0x10000 + wordAt ws (n + 2) * 0x100000000

/-- The n-bit two's complement number of x. -/
def signedOf (n x : Nat) : Int :=
  if x.testBit (n - 1) then (x % 2 ^ n : Nat) - (2 ^ n : Nat) else ((x % 2 ^ n : Nat) : Int)

/-- An integer wrapped to n bits. -/
def wrapTo (n : Nat) (x : Int) : Nat := (x % (2 ^ n : Nat)).toNat

/-- An integer clamped to a range. -/
def clampInt (lo hi x : Int) : Int := if x < lo then lo else if hi < x then hi else x

/-- Counts up and stops at the largest value of n bits. -/
def satAdd (n x d : Nat) : Nat := min (x + d) (2 ^ n - 1)

/-- Numbers a, a + 1, …, a + n − 1. -/
def span (a n : Nat) : List Nat := (List.range n).map (a + ·)

/-- Overwrites a list with the enabled bytes of another, byte by byte. -/
def mergeBytes : List Byte → List Byte → List Bool → List Byte
  | o :: os, n :: ns, e :: es => (if e then n else o) :: mergeBytes os ns es
  | os, _, _ => os

/-- A list of bytes made n long. -/
def fit (n : Nat) (l : List Byte) : List Byte := (l ++ List.replicate (n - l.length) 0).take n

/-- Removes the element at a place. -/
def dropAt {α : Type} : List α → Nat → List α
  | [], _ => []
  | _ :: r, 0 => r
  | a :: r, n + 1 => a :: dropAt r n

/-- Replaces the element at a place. -/
def putAt {α : Type} : List α → Nat → α → List α
  | [], _, _ => []
  | _ :: r, 0, v => v :: r
  | a :: r, n + 1, v => a :: putAt r n v

/-- Cuts a list into pieces of n, for at most fuel pieces. -/
def chunks {α : Type} (n : Nat) : Nat → List α → List (List α)
  | 0, _ => []
  | _, [] => []
  | fuel + 1, l => l.take n :: chunks n fuel (l.drop n)

end Sys2Proof.Machine
end

