-- ==== Sys2Proof/Machine/Flags.lean ====
section
/-! DEFINITION. The condition flags and every computation of them (R215, R223, R224, R227, R228), at the width of
the operation. -/

namespace Sys2Proof.Machine

/-- The condition flags (R215). -/
structure Nzcv where
  n : Bool
  z : Bool
  c : Bool
  v : Bool
  deriving DecidableEq, Repr

/-- The flags of an ST word. -/
def Nzcv.of (st : Half) : Nzcv := ⟨bit st.toNat 3, bit st.toNat 2, bit st.toNat 1, bit st.toNat 0⟩

/-- The flags as bits [3:0] of ST. -/
def Nzcv.word (f : Nzcv) : Nat :=
  (if f.n then 8 else 0) + (if f.z then 4 else 0) + (if f.c then 2 else 0) + (if f.v then 1 else 0)

/-- An ST word with its flags replaced. -/
def Nzcv.into (f : Nzcv) (st : Half) : Half := BitVec.ofNat 16 (st.toNat / 16 * 16 + f.word)

/-- Whether an integer does not fit in w bits, two's complement. -/
def overflows (w : Nat) (x : Int) : Bool := decide (x < -(2 ^ (w - 1) : Nat)) || decide ((2 ^ (w - 1) : Nat) ≤ x)

/-- A result of w bits with the flags of an addition: carry out of the top bit, signed overflow (R223). -/
def addFlags (w a b cin : Nat) : Nat × Nzcv :=
  let t := a + b + cin
  let r := t % 2 ^ w
  (r, ⟨r.testBit (w - 1), r == 0, decide (2 ^ w ≤ t), overflows w (signedOf w a + signedOf w b + cin)⟩)

/-- A result of w bits with the flags of a subtraction: C is the borrow (R223). -/
def subFlags (w a b bin : Nat) : Nat × Nzcv :=
  let r := wrapTo w ((a : Int) - b - bin)
  (r, ⟨r.testBit (w - 1), r == 0, decide (a < b + bin), overflows w (signedOf w a - signedOf w b - bin)⟩)

/-- A result of w bits that sets N and Z and clears V, with a carry. -/
def resultFlags (w r : Nat) (c : Bool := false) : Nat × Nzcv := (r, ⟨r.testBit (w - 1), r == 0, c, false⟩)

/-- A logical shift left: C is the last bit out, and 0 for a count of 0 or above the width. -/
def shlFlags (w a n : Nat) : Nat × Nzcv :=
  resultFlags w (if n < w then a * 2 ^ n % 2 ^ w else 0) (n != 0 && decide (n ≤ w) && a.testBit (w - n))

/-- A logical shift right. -/
def shrFlags (w a n : Nat) : Nat × Nzcv :=
  resultFlags w (if n < w then a / 2 ^ n else 0) (n != 0 && decide (n ≤ w) && a.testBit (n - 1))

/-- An arithmetic shift right: at and above the width the sign fills, and C is the sign. -/
def sarFlags (w a n : Nat) : Nat × Nzcv :=
  resultFlags w (wrapTo w (signedOf w a / (2 ^ min n w : Nat))) (n != 0 && a.testBit (min (n - 1) (w - 1)))

/-- A rotation left by a count modulo the width: C is bit 0 of the result, or 0 when nothing rotates. -/
def rolFlags (w a n : Nat) : Nat × Nzcv :=
  let k := n % w
  let r := a * 2 ^ k % 2 ^ w + a / 2 ^ (w - k) % 2 ^ k
  resultFlags w r (k != 0 && r.testBit 0)

/-- A count: Z from the result, N, C and V clear (CLZ, POPC of R224). -/
def countFlags (r : Nat) : Nat × Nzcv := (r, ⟨false, r == 0, false, false⟩)

/-! ### The functions of the ALU (R223, R228) -/

/-- The ALU functions (R223); long arithmetic has the same at its own widths (R228). -/
inductive AluFn where
  | mov | add | adc | sub | sbc | cmp | and | or | xor | tst | shl | shr | sar | rol | mull | mulhu
  deriving DecidableEq, Repr

/-- Whether a function writes its result; a compare and a test only set the flags. -/
def AluFn.writes : AluFn → Bool
  | .cmp => false | .tst => false
  | .mov => true | .add => true | .adc => true | .sub => true | .sbc => true | .and => true | .or => true
  | .xor => true | .shl => true | .shr => true | .sar => true | .rol => true | .mull => true | .mulhu => true

/-- Whether the second operand of a function is a shift count. -/
def AluFn.shifts : AluFn → Bool
  | .shl => true | .shr => true | .sar => true | .rol => true
  | .mov => false | .add => false | .adc => false | .sub => false | .sbc => false | .cmp => false
  | .and => false | .or => false | .xor => false | .tst => false | .mull => false | .mulhu => false

/-- The carry as a number. -/
def Nzcv.carry (f : Nzcv) : Nat := if f.c then 1 else 0

/-- The result of w bits and the flags of a function on a and b, with the flags before it. -/
def aluResult (w : Nat) (fn : AluFn) (a b : Nat) (f : Nzcv) : Nat × Nzcv :=
  match fn with
  | .mov => (b, f)
  | .add => addFlags w a b 0
  | .adc => addFlags w a b f.carry
  | .sub => subFlags w a b 0
  | .sbc => subFlags w a b f.carry
  | .cmp => subFlags w a b 0
  | .and => resultFlags w (a &&& b)
  | .or => resultFlags w (a ||| b)
  | .xor => resultFlags w (a ^^^ b)
  | .tst => resultFlags w (a &&& b)
  | .shl => shlFlags w a b
  | .shr => shrFlags w a b
  | .sar => sarFlags w a b
  | .rol => rolFlags w a b
  | .mull => resultFlags w (a * b % 2 ^ w)
  | .mulhu => resultFlags w (a * b / 2 ^ w)

/-- The high half of a signed product (LMULHS of R228). -/
def mulHighSigned (w a b : Nat) : Nat × Nzcv := resultFlags w (wrapTo w (signedOf w a * signedOf w b / (2 ^ w : Nat)))

/-- The low n bits of a number, sign-extended to w bits. -/
def signExtend (n w a : Nat) : Nat := wrapTo w (signedOf n (a % 2 ^ n))

/-- Leading zero bits of a word. -/
def leadingZeros (a : Nat) : Nat := ((span 0 16).reverse.takeWhile fun i => !a.testBit i).length

/-- Set bits of a word. -/
def onesIn (a : Nat) : Nat := ((span 0 16).filter fun i => a.testBit i).length

/-- The bytes of a word exchanged. -/
def swapBytes (a : Nat) : Nat := a % 256 * 256 + a / 256

/-- Whether a condition code holds (R227). Code c + 8 holds exactly when code c does not; 7 always holds. -/
def condHolds (code : Nat) (f : Nzcv) : Bool :=
  let base := match code % 8 with
    | 0 => f.z
    | 1 => f.c
    | 2 => f.n
    | 3 => f.v
    | 4 => f.c || f.z
    | 5 => f.n != f.v
    | 6 => f.z || f.n != f.v
    | _ => true
  if code < 8 then base else !base

end Sys2Proof.Machine
end

