-- ==== Sys2Proof/Machine/Sparse.lean ====
section
/-! DEFINITION. Sparse maps in one canonical form: keys strictly rising, no entry equal to what an
unlisted key reads as. Equal maps are then equal lists. -/

namespace Sys2Proof.Machine

/-- What a key reads as: its entry, or the default. -/
def get {α : Type} (d : α) : SMap α → Nat → α
  | [], _ => d
  | (k', v) :: r, k => if k = k' then v else get d r k

/-- Sets a key, keeping the canonical form: the default is not listed. What a key reads as afterwards does not depend on
the form of the map. -/
def put {α : Type} [DecidableEq α] (d : α) : SMap α → Nat → α → SMap α
  | [], k, v => if v = d then [] else [(k, v)]
  | (k', v') :: r, k, v =>
    if v = d then (if k = k' then put d r k v else (k', v') :: put d r k v)
    else if k < k' then (k, v) :: (k', v') :: r
    else if k = k' then (k, v) :: r
    else (k', v') :: put d r k v

/-- The canonical form, from a bound below every key: keys rise and no entry is the default. -/
def wfFrom {α : Type} [DecidableEq α] (d : Nat → α) : Nat → SMap α → Bool
  | _, [] => true
  | b, (k, v) :: r => decide (b ≤ k) && decide (v ≠ d k) && wfFrom d (k + 1) r

/-- The canonical form of a sparse map. -/
def wfMap {α : Type} [DecidableEq α] (d : Nat → α) (m : SMap α) : Bool := wfFrom d 0 m

/-- The bytes of n keys from a. -/
def getBytes (d : Byte) (m : SMap Byte) (a n : Nat) : List Byte := (span a n).map (get d m)

/-- Sets the bytes from key a on. -/
def putBytes (d : Byte) (m : SMap Byte) (a : Nat) : List Byte → SMap Byte
  | [] => m
  | b :: r => putBytes d (put d m a b) (a + 1) r

/-- Sets the enabled bytes from key a on. -/
def putEnabled (d : Byte) (m : SMap Byte) (a : Nat) : List Byte → List Bool → SMap Byte
  | b :: r, e :: es => putEnabled d (if e then put d m a b else m) (a + 1) r es
  | _, _ => m

/-- The sparse map of a list of bytes from key a on. -/
def ofBytes (a : Nat) : List Byte → SMap Byte
  | [] => []
  | b :: r => if b = 0 then ofBytes (a + 1) r else (a, b) :: ofBytes (a + 1) r

/-- Applies a change to the value of a key. -/
def upd {α : Type} [DecidableEq α] (d : α) (m : SMap α) (k : Nat) (f : α → α) : SMap α :=
  put d m k (f (get d m k))

/-- Changes every listed value. -/
def mapVals {α : Type} [DecidableEq α] (d : α) (f : Nat → α → α) (m : SMap α) : SMap α :=
  m.foldl (fun acc e => put d acc e.1 (f e.1 e.2)) []

/-- Keeps the entries whose keys a test accepts. -/
def keepKeys {α : Type} (p : Nat → Bool) (m : SMap α) : SMap α := m.filter fun e => p e.1

/-- Changes the values of the keys in a list. -/
def updAll {α : Type} [DecidableEq α] (d : α) (m : SMap α) (ks : List Nat) (f : Nat → α → α) : SMap α :=
  ks.foldl (fun m k => put d m k (f k (get d m k))) m

end Sys2Proof.Machine
end

