-- ==== Sys2Proof/Machine/RegTable.lean ====
section
/-! DEFINITION. The registers of the register region: their places (R460, R461) and their fields, written
from the register tables of the chapters that own them. A field with reset N reads 0 until the
negative is loaded (notes/assumptions/3.md); a field with reset P starts at its first power-on value. -/

namespace Sys2Proof.Machine

/-- The registers, by their names in the register index (R461). -/
inductive RegId where
  | mgStage | mgRefuse | mgProofHdr | mgAlertSrc | mgAlertEn | scStatus | scCmd | scOplen
  | scSvn | scOpsrcLo | scOpsrcHi | scSeq | scDbgctr | rsStatus | rsCmd | rsSafelight | rsSlcfg
  | rsRetcfg | rsCount | rsUptime | rsLockdly | rsCtrl | pwStatus | pwCap | pwMargin | pwRamp
  | pwPin | pwVin | pwRailsel | pwRail | pwK | pwEvstat | pwDiplog | pwDens | pwLearn | pwTherm
  | pwPhsel | pwPhase | pwClClk | pwClTarget | pwClEst | pwClTemp | cxCfg | cxGather | cxStep
  | cxStatus | cxEvents | cxSync | cxRelinc | cxCmd | cxRecsel | cxMaprt | cxMapstat | cxRerr
  | cxSlotmapLo | cxSlotmapHi | cxSlotinLo | cxSlotinHi | cxSlotoutLo | cxSlotoutHi
  | cxRingbaseLo | cxRingbaseHi | cxFwd | cxRecw | syStatus | syCntSel | syCnt | syCntAttr
  | syXlatSel | syXlat | syBarSel | syBarCfg | syBarInc | syBarExp | syBarRoot | syBarBox
  | syBarTree | syBarState | msCtrl | msStatus | msStallLimit | msStallRec | msVoids | msRate
  | msPeekSel | msPeek | drSstatus | drInner | drOuter | drEloc | drTemp | drScrub | drErase
  | drCtrl | drScrubper | drLanethr | drEvstat | drMapRes | drMapLo | drMapHi | olId | olCoord
  | olEpoch | olTimers | olCtrl | olEvstat | olDrops | olRtsel | olRt | olLinkState | olLinkPeer
  | olPortState | olPortErr | pxPstat | pxPctl | pxHlost | pxHbeat | pxHevt | pxErr | pxHwBaseLo
  | pxHwBaseHi | pxHwCtl | pxFnD4baseLo | pxFnD4baseHi | pxFnD4len | pxFnStat | xcStatus
  | xcPend | xcVlvl | xcTslimLo | xcTslimHi | xcCtrl | xcTcmpLo | xcTcmpHi | xcEsc | xcTnowLo
  | xcTnowHi | xcSwi | xcDevroute | xcLockmap | trCtrl | trInvvaLo | trInvvaHi | trStatus
  | cfCtrl | cfStatus | cfRangeLen | cfRangeCtrl | cfParity | cfMiss | cfRangeLo | cfRangeHi
  | cfL2ctrl | cfL2status | cfL2parity | spStatus | spEcc | spEccLoc | spTimeout | spFault
  | spRefuse | spRefuseLast | spRefuseRow | spRelease | spApRect | spApShape | spApSrc | spApReq
  | spApCtrl | spSlotbits | mxStatus | mxCtrl | mxSaveBase | mxFault | mxFaultVaLo | mxFaultVaHi
  | mxTileUse | mxTshape | mxResidue | vxStatus | vxCtrl | vxSaveBase | vxFault | vxFaultVaLo
  | vxFaultVaHi | vxProgress | dmStatus | dmCtrl | dmTimeout | dmChProg | dmChProgx | dmChErr
  | dmChErraddrLo | dmChErraddrHi
  deriving DecidableEq, Repr

/-- The access codes of R5. -/
inductive Access where
  | ro | rw | wo | w1c | w1s | rc
  deriving DecidableEq, Repr

/-- A field: its bits, its access code and its value after reset. -/
structure FieldRow where
  hi  : Nat
  lo  : Nat
  acc : Access
  rst : Nat
  deriving DecidableEq, Repr

/-- Where a register stands: its block, the offset of its first copy, how many units have it and
their stride, and how many copies a unit has and their stride. -/
structure RegPlace where
  blk   : Nat
  base  : Nat
  units : Nat
  uStep : Nat
  count : Nat
  nStep : Nat
  deriving DecidableEq, Repr

/-- A field of a register by its manual name. -/
structure Field where
  reg : RegId
  hi  : Nat
  lo  : Nat
  deriving DecidableEq, Repr

/-- The places of the registers (R461 and the captions of the register tables). -/
def regPlace : RegId → RegPlace
  | .mgStage => ⟨0, 0x0, 1, 0x0, 1, 0x0⟩
  | .mgRefuse => ⟨0, 0x4, 1, 0x0, 2, 0x4⟩
  | .mgProofHdr => ⟨0, 0x100, 1, 0x0, 1, 0x0⟩
  | .mgAlertSrc => ⟨0, 0x1000, 1, 0x0, 1, 0x0⟩
  | .mgAlertEn => ⟨0, 0x1004, 1, 0x0, 1, 0x0⟩
  | .scStatus => ⟨1, 0x0, 1, 0x0, 1, 0x0⟩
  | .scCmd => ⟨1, 0x4, 1, 0x0, 1, 0x0⟩
  | .scOplen => ⟨1, 0x8, 1, 0x0, 1, 0x0⟩
  | .scSvn => ⟨1, 0x30, 1, 0x0, 1, 0x0⟩
  | .scOpsrcLo => ⟨1, 0xc, 1, 0x0, 1, 0x0⟩
  | .scOpsrcHi => ⟨1, 0x10, 1, 0x0, 1, 0x0⟩
  | .scSeq => ⟨1, 0x20, 1, 0x0, 4, 0x4⟩
  | .scDbgctr => ⟨1, 0x38, 1, 0x0, 2, 0x4⟩
  | .rsStatus => ⟨2, 0x0, 1, 0x0, 1, 0x0⟩
  | .rsCmd => ⟨2, 0x4, 1, 0x0, 1, 0x0⟩
  | .rsSafelight => ⟨2, 0x8, 1, 0x0, 1, 0x0⟩
  | .rsSlcfg => ⟨2, 0xc, 1, 0x0, 1, 0x0⟩
  | .rsRetcfg => ⟨2, 0x10, 1, 0x0, 1, 0x0⟩
  | .rsCount => ⟨2, 0x14, 1, 0x0, 1, 0x0⟩
  | .rsUptime => ⟨2, 0x18, 1, 0x0, 1, 0x0⟩
  | .rsLockdly => ⟨2, 0x1c, 1, 0x0, 1, 0x0⟩
  | .rsCtrl => ⟨2, 0x20, 1, 0x0, 1, 0x0⟩
  | .pwStatus => ⟨3, 0x0, 1, 0x0, 1, 0x0⟩
  | .pwCap => ⟨3, 0x4, 1, 0x0, 1, 0x0⟩
  | .pwMargin => ⟨3, 0x8, 1, 0x0, 1, 0x0⟩
  | .pwRamp => ⟨3, 0xc, 1, 0x0, 1, 0x0⟩
  | .pwPin => ⟨3, 0x10, 1, 0x0, 1, 0x0⟩
  | .pwVin => ⟨3, 0x14, 1, 0x0, 1, 0x0⟩
  | .pwRailsel => ⟨3, 0x18, 1, 0x0, 1, 0x0⟩
  | .pwRail => ⟨3, 0x1c, 1, 0x0, 1, 0x0⟩
  | .pwK => ⟨3, 0x20, 1, 0x0, 1, 0x0⟩
  | .pwEvstat => ⟨3, 0x24, 1, 0x0, 1, 0x0⟩
  | .pwDiplog => ⟨3, 0x28, 1, 0x0, 1, 0x0⟩
  | .pwDens => ⟨3, 0x2c, 1, 0x0, 1, 0x0⟩
  | .pwLearn => ⟨3, 0x30, 1, 0x0, 1, 0x0⟩
  | .pwTherm => ⟨3, 0x34, 1, 0x0, 1, 0x0⟩
  | .pwPhsel => ⟨3, 0x38, 1, 0x0, 1, 0x0⟩
  | .pwPhase => ⟨3, 0x3c, 1, 0x0, 1, 0x0⟩
  | .pwClClk => ⟨3, 0x100, 24, 0x10, 1, 0x0⟩
  | .pwClTarget => ⟨3, 0x104, 24, 0x10, 1, 0x0⟩
  | .pwClEst => ⟨3, 0x108, 24, 0x10, 1, 0x0⟩
  | .pwClTemp => ⟨3, 0x10c, 24, 0x10, 1, 0x0⟩
  | .cxCfg => ⟨4, 0x0, 1, 0x0, 1, 0x0⟩
  | .cxGather => ⟨4, 0x4, 1, 0x0, 1, 0x0⟩
  | .cxStep => ⟨4, 0x8, 1, 0x0, 1, 0x0⟩
  | .cxStatus => ⟨4, 0xc, 1, 0x0, 1, 0x0⟩
  | .cxEvents => ⟨4, 0x10, 1, 0x0, 1, 0x0⟩
  | .cxSync => ⟨4, 0x40, 1, 0x0, 1, 0x0⟩
  | .cxRelinc => ⟨4, 0x44, 1, 0x0, 1, 0x0⟩
  | .cxCmd => ⟨4, 0x60, 1, 0x0, 1, 0x0⟩
  | .cxRecsel => ⟨4, 0x64, 1, 0x0, 1, 0x0⟩
  | .cxMaprt => ⟨4, 0x68, 1, 0x0, 1, 0x0⟩
  | .cxMapstat => ⟨4, 0x6c, 1, 0x0, 1, 0x0⟩
  | .cxRerr => ⟨4, 0x70, 1, 0x0, 1, 0x0⟩
  | .cxSlotmapLo => ⟨4, 0x20, 1, 0x0, 1, 0x0⟩
  | .cxSlotmapHi => ⟨4, 0x24, 1, 0x0, 1, 0x0⟩
  | .cxSlotinLo => ⟨4, 0x28, 1, 0x0, 1, 0x0⟩
  | .cxSlotinHi => ⟨4, 0x2c, 1, 0x0, 1, 0x0⟩
  | .cxSlotoutLo => ⟨4, 0x30, 1, 0x0, 1, 0x0⟩
  | .cxSlotoutHi => ⟨4, 0x34, 1, 0x0, 1, 0x0⟩
  | .cxRingbaseLo => ⟨4, 0x38, 1, 0x0, 1, 0x0⟩
  | .cxRingbaseHi => ⟨4, 0x3c, 1, 0x0, 1, 0x0⟩
  | .cxFwd => ⟨4, 0x50, 1, 0x0, 4, 0x4⟩
  | .cxRecw => ⟨4, 0x80, 1, 0x0, 8, 0x4⟩
  | .syStatus => ⟨5, 0x0, 1, 0x0, 1, 0x0⟩
  | .syCntSel => ⟨5, 0x4, 1, 0x0, 1, 0x0⟩
  | .syCnt => ⟨5, 0x8, 1, 0x0, 1, 0x0⟩
  | .syCntAttr => ⟨5, 0xc, 1, 0x0, 1, 0x0⟩
  | .syXlatSel => ⟨5, 0x10, 1, 0x0, 1, 0x0⟩
  | .syXlat => ⟨5, 0x14, 1, 0x0, 1, 0x0⟩
  | .syBarSel => ⟨5, 0x20, 1, 0x0, 1, 0x0⟩
  | .syBarCfg => ⟨5, 0x24, 1, 0x0, 1, 0x0⟩
  | .syBarInc => ⟨5, 0x28, 1, 0x0, 1, 0x0⟩
  | .syBarExp => ⟨5, 0x2c, 1, 0x0, 1, 0x0⟩
  | .syBarRoot => ⟨5, 0x30, 1, 0x0, 1, 0x0⟩
  | .syBarBox => ⟨5, 0x34, 1, 0x0, 1, 0x0⟩
  | .syBarTree => ⟨5, 0x38, 1, 0x0, 1, 0x0⟩
  | .syBarState => ⟨5, 0x3c, 1, 0x0, 1, 0x0⟩
  | .msCtrl => ⟨6, 0x0, 1, 0x0, 1, 0x0⟩
  | .msStatus => ⟨6, 0x4, 1, 0x0, 1, 0x0⟩
  | .msStallLimit => ⟨6, 0x8, 1, 0x0, 1, 0x0⟩
  | .msStallRec => ⟨6, 0xc, 1, 0x0, 1, 0x0⟩
  | .msVoids => ⟨6, 0x10, 1, 0x0, 1, 0x0⟩
  | .msRate => ⟨6, 0x14, 1, 0x0, 1, 0x0⟩
  | .msPeekSel => ⟨6, 0x20, 1, 0x0, 1, 0x0⟩
  | .msPeek => ⟨6, 0x24, 1, 0x0, 1, 0x0⟩
  | .drSstatus => ⟨7, 0x0, 192, 0x40, 1, 0x0⟩
  | .drInner => ⟨7, 0xc, 192, 0x40, 1, 0x0⟩
  | .drOuter => ⟨7, 0x10, 192, 0x40, 1, 0x0⟩
  | .drEloc => ⟨7, 0x14, 192, 0x40, 1, 0x0⟩
  | .drTemp => ⟨7, 0x18, 192, 0x40, 1, 0x0⟩
  | .drScrub => ⟨7, 0x1c, 192, 0x40, 1, 0x0⟩
  | .drErase => ⟨7, 0x4, 192, 0x40, 2, 0x4⟩
  | .drCtrl => ⟨7, 0x4000, 1, 0x0, 1, 0x0⟩
  | .drScrubper => ⟨7, 0x4004, 1, 0x0, 1, 0x0⟩
  | .drLanethr => ⟨7, 0x4008, 1, 0x0, 1, 0x0⟩
  | .drEvstat => ⟨7, 0x400c, 1, 0x0, 1, 0x0⟩
  | .drMapRes => ⟨7, 0x4018, 1, 0x0, 1, 0x0⟩
  | .drMapLo => ⟨7, 0x4010, 1, 0x0, 1, 0x0⟩
  | .drMapHi => ⟨7, 0x4014, 1, 0x0, 1, 0x0⟩
  | .olId => ⟨8, 0x0, 1, 0x0, 1, 0x0⟩
  | .olCoord => ⟨8, 0x4, 1, 0x0, 1, 0x0⟩
  | .olEpoch => ⟨8, 0x8, 1, 0x0, 1, 0x0⟩
  | .olTimers => ⟨8, 0xc, 1, 0x0, 1, 0x0⟩
  | .olCtrl => ⟨8, 0x10, 1, 0x0, 1, 0x0⟩
  | .olEvstat => ⟨8, 0x14, 1, 0x0, 1, 0x0⟩
  | .olDrops => ⟨8, 0x18, 1, 0x0, 1, 0x0⟩
  | .olRtsel => ⟨8, 0x20, 1, 0x0, 1, 0x0⟩
  | .olRt => ⟨8, 0x24, 1, 0x0, 1, 0x0⟩
  | .olLinkState => ⟨8, 0x100, 8, 0x20, 1, 0x0⟩
  | .olLinkPeer => ⟨8, 0x104, 8, 0x20, 1, 0x0⟩
  | .olPortState => ⟨8, 0x200, 16, 0x20, 1, 0x0⟩
  | .olPortErr => ⟨8, 0x204, 16, 0x20, 1, 0x0⟩
  | .pxPstat => ⟨9, 0x0, 2, 0x1000, 1, 0x0⟩
  | .pxPctl => ⟨9, 0x4, 2, 0x1000, 1, 0x0⟩
  | .pxHlost => ⟨9, 0x8, 2, 0x1000, 1, 0x0⟩
  | .pxHbeat => ⟨9, 0xc, 2, 0x1000, 1, 0x0⟩
  | .pxHevt => ⟨9, 0x10, 2, 0x1000, 1, 0x0⟩
  | .pxErr => ⟨9, 0x14, 2, 0x1000, 1, 0x0⟩
  | .pxHwBaseLo => ⟨9, 0x100, 2, 0x1000, 16, 0x10⟩
  | .pxHwBaseHi => ⟨9, 0x104, 2, 0x1000, 16, 0x10⟩
  | .pxHwCtl => ⟨9, 0x108, 2, 0x1000, 16, 0x10⟩
  | .pxFnD4baseLo => ⟨9, 0x800, 2, 0x1000, 17, 0x20⟩
  | .pxFnD4baseHi => ⟨9, 0x804, 2, 0x1000, 17, 0x20⟩
  | .pxFnD4len => ⟨9, 0x808, 2, 0x1000, 17, 0x20⟩
  | .pxFnStat => ⟨9, 0x80c, 2, 0x1000, 17, 0x20⟩
  | .xcStatus => ⟨10, 0x0, 776, 0x100, 1, 0x0⟩
  | .xcPend => ⟨10, 0x4, 776, 0x100, 1, 0x0⟩
  | .xcVlvl => ⟨10, 0x8, 776, 0x100, 4, 0x4⟩
  | .xcTslimLo => ⟨10, 0x18, 776, 0x100, 1, 0x0⟩
  | .xcTslimHi => ⟨10, 0x1c, 776, 0x100, 1, 0x0⟩
  | .xcCtrl => ⟨10, 0x20, 776, 0x100, 1, 0x0⟩
  | .xcTcmpLo => ⟨10, 0x24, 776, 0x100, 1, 0x0⟩
  | .xcTcmpHi => ⟨10, 0x28, 776, 0x100, 1, 0x0⟩
  | .xcEsc => ⟨10, 0x2c, 776, 0x100, 1, 0x0⟩
  | .xcTnowLo => ⟨10, 0x80000, 1, 0x0, 1, 0x0⟩
  | .xcTnowHi => ⟨10, 0x80004, 1, 0x0, 1, 0x0⟩
  | .xcSwi => ⟨10, 0x80008, 1, 0x0, 1, 0x0⟩
  | .xcDevroute => ⟨10, 0x80010, 1, 0x0, 8, 0x4⟩
  | .xcLockmap => ⟨10, 0x80040, 1, 0x0, 25, 0x4⟩
  | .trCtrl => ⟨11, 0x0, 776, 0x100, 1, 0x0⟩
  | .trInvvaLo => ⟨11, 0x4, 776, 0x100, 1, 0x0⟩
  | .trInvvaHi => ⟨11, 0x8, 776, 0x100, 1, 0x0⟩
  | .trStatus => ⟨11, 0xc, 776, 0x100, 1, 0x0⟩
  | .cfCtrl => ⟨12, 0x0, 776, 0x100, 1, 0x0⟩
  | .cfStatus => ⟨12, 0x4, 776, 0x100, 1, 0x0⟩
  | .cfRangeLen => ⟨12, 0x10, 776, 0x100, 1, 0x0⟩
  | .cfRangeCtrl => ⟨12, 0x14, 776, 0x100, 1, 0x0⟩
  | .cfParity => ⟨12, 0x18, 776, 0x100, 1, 0x0⟩
  | .cfMiss => ⟨12, 0x1c, 776, 0x100, 1, 0x0⟩
  | .cfRangeLo => ⟨12, 0x8, 776, 0x100, 1, 0x0⟩
  | .cfRangeHi => ⟨12, 0xc, 776, 0x100, 1, 0x0⟩
  | .cfL2ctrl => ⟨12, 0x80000, 1, 0x0, 1, 0x0⟩
  | .cfL2status => ⟨12, 0x80004, 1, 0x0, 1, 0x0⟩
  | .cfL2parity => ⟨12, 0x80008, 1, 0x0, 1, 0x0⟩
  | .spStatus => ⟨13, 0x0, 768, 0x800, 1, 0x0⟩
  | .spEcc => ⟨13, 0x8, 768, 0x800, 1, 0x0⟩
  | .spEccLoc => ⟨13, 0xc, 768, 0x800, 1, 0x0⟩
  | .spTimeout => ⟨13, 0x10, 768, 0x800, 1, 0x0⟩
  | .spFault => ⟨13, 0x14, 768, 0x800, 1, 0x0⟩
  | .spRefuse => ⟨13, 0x18, 768, 0x800, 1, 0x0⟩
  | .spRefuseLast => ⟨13, 0x1c, 768, 0x800, 1, 0x0⟩
  | .spRefuseRow => ⟨13, 0x20, 768, 0x800, 1, 0x0⟩
  | .spRelease => ⟨13, 0x40, 768, 0x800, 1, 0x0⟩
  | .spApRect => ⟨13, 0x200, 768, 0x800, 16, 0x20⟩
  | .spApShape => ⟨13, 0x204, 768, 0x800, 16, 0x20⟩
  | .spApSrc => ⟨13, 0x208, 768, 0x800, 16, 0x20⟩
  | .spApReq => ⟨13, 0x20c, 768, 0x800, 16, 0x20⟩
  | .spApCtrl => ⟨13, 0x210, 768, 0x800, 16, 0x20⟩
  | .spSlotbits => ⟨13, 0x400, 768, 0x800, 128, 0x4⟩
  | .mxStatus => ⟨14, 0x0, 768, 0x100, 1, 0x0⟩
  | .mxCtrl => ⟨14, 0x4, 768, 0x100, 1, 0x0⟩
  | .mxSaveBase => ⟨14, 0x8, 768, 0x100, 1, 0x0⟩
  | .mxFault => ⟨14, 0x30, 768, 0x100, 1, 0x0⟩
  | .mxFaultVaLo => ⟨14, 0x34, 768, 0x100, 1, 0x0⟩
  | .mxFaultVaHi => ⟨14, 0x38, 768, 0x100, 1, 0x0⟩
  | .mxTileUse => ⟨14, 0xc, 768, 0x100, 1, 0x0⟩
  | .mxTshape => ⟨14, 0x10, 768, 0x100, 8, 0x4⟩
  | .mxResidue => ⟨14, 0x3c, 768, 0x100, 1, 0x0⟩
  | .vxStatus => ⟨15, 0x0, 768, 0x100, 1, 0x0⟩
  | .vxCtrl => ⟨15, 0x4, 768, 0x100, 1, 0x0⟩
  | .vxSaveBase => ⟨15, 0x8, 768, 0x100, 1, 0x0⟩
  | .vxFault => ⟨15, 0x30, 768, 0x100, 1, 0x0⟩
  | .vxFaultVaLo => ⟨15, 0x34, 768, 0x100, 1, 0x0⟩
  | .vxFaultVaHi => ⟨15, 0x38, 768, 0x100, 1, 0x0⟩
  | .vxProgress => ⟨15, 0xc, 768, 0x100, 1, 0x0⟩
  | .dmStatus => ⟨16, 0x0, 768, 0x100, 1, 0x0⟩
  | .dmCtrl => ⟨16, 0x4, 768, 0x100, 1, 0x0⟩
  | .dmTimeout => ⟨16, 0x8, 768, 0x100, 1, 0x0⟩
  | .dmChProg => ⟨16, 0x10, 768, 0x100, 2, 0x10⟩
  | .dmChProgx => ⟨16, 0x14, 768, 0x100, 2, 0x10⟩
  | .dmChErr => ⟨16, 0x30, 768, 0x100, 2, 0x10⟩
  | .dmChErraddrLo => ⟨16, 0x34, 768, 0x100, 2, 0x10⟩
  | .dmChErraddrHi => ⟨16, 0x38, 768, 0x100, 2, 0x10⟩

/-- The fields of the registers, highest bits first. Bits that no row covers are reserved (R4). -/
def regFields : RegId → List FieldRow
  | .mgStage => [⟨23, 20, .ro, 0⟩, ⟨19, 16, .ro, 0⟩, ⟨10, 10, .ro, 0⟩, ⟨9, 9, .ro, 0⟩, ⟨8, 8, .ro, 0⟩, ⟨2, 0, .ro, 0⟩]
  | .mgRefuse => [⟨31, 24, .ro, 0⟩, ⟨23, 0, .ro, 0⟩]
  | .mgProofHdr => [⟨31, 31, .ro, 0⟩, ⟨23, 16, .ro, 0⟩, ⟨15, 0, .ro, 0⟩]
  | .mgAlertSrc => [⟨8, 8, .ro, 0⟩, ⟨7, 7, .ro, 0⟩, ⟨6, 6, .ro, 0⟩, ⟨5, 5, .ro, 0⟩, ⟨4, 4, .ro, 0⟩, ⟨3, 3, .ro, 0⟩, ⟨2, 2, .ro, 0⟩, ⟨1, 1, .ro, 0⟩, ⟨0, 0, .ro, 0⟩]
  | .mgAlertEn => [⟨8, 0, .rw, 511⟩]
  | .scStatus => [⟨31, 31, .ro, 0⟩, ⟨30, 27, .ro, 0⟩, ⟨26, 26, .ro, 0⟩, ⟨25, 25, .ro, 0⟩, ⟨24, 24, .ro, 0⟩, ⟨23, 23, .ro, 0⟩, ⟨22, 22, .ro, 0⟩, ⟨21, 21, .ro, 0⟩]
  | .scCmd => [⟨3, 0, .wo, 0⟩]
  | .scOplen => [⟨28, 0, .rw, 0⟩]
  | .scSvn => [⟨31, 16, .ro, 0⟩, ⟨15, 0, .ro, 0⟩]
  | .scOpsrcLo => [⟨31, 0, .rw, 0⟩]
  | .scOpsrcHi => [⟨15, 0, .rw, 0⟩]
  | .scSeq => [⟨31, 0, .ro, 0⟩]
  | .scDbgctr => [⟨31, 0, .ro, 0⟩]
  | .rsStatus => [⟨31, 31, .ro, 0⟩, ⟨30, 30, .ro, 0⟩, ⟨29, 29, .ro, 0⟩, ⟨28, 28, .w1c, 0⟩, ⟨27, 27, .w1c, 0⟩, ⟨26, 26, .w1c, 0⟩, ⟨25, 25, .w1c, 0⟩, ⟨23, 19, .ro, 0⟩, ⟨3, 0, .ro, 0⟩]
  | .rsCmd => [⟨3, 0, .wo, 0⟩]
  | .rsSafelight => [⟨7, 0, .rw, 0⟩]
  | .rsSlcfg => [⟨21, 6, .ro, 0⟩, ⟨5, 0, .ro, 0⟩]
  | .rsRetcfg => [⟨20, 17, .ro, 0⟩, ⟨16, 0, .ro, 0⟩]
  | .rsCount => [⟨31, 0, .ro, 0⟩]
  | .rsUptime => [⟨31, 0, .ro, 0⟩]
  | .rsLockdly => [⟨15, 0, .rw, 100⟩]
  | .rsCtrl => [⟨0, 0, .rw, 0⟩]
  | .pwStatus => [⟨31, 31, .ro, 0⟩, ⟨30, 30, .ro, 0⟩, ⟨29, 29, .ro, 0⟩, ⟨8, 0, .ro, 64⟩]
  | .pwCap => [⟨9, 0, .rw, 600⟩]
  | .pwMargin => [⟨5, 0, .ro, 0⟩]
  | .pwRamp => [⟨14, 0, .ro, 0⟩]
  | .pwPin => [⟨15, 0, .ro, 0⟩]
  | .pwVin => [⟨15, 0, .ro, 0⟩]
  | .pwRailsel => [⟨2, 0, .rw, 0⟩]
  | .pwRail => [⟨31, 16, .ro, 0⟩, ⟨15, 0, .ro, 0⟩]
  | .pwK => [⟨31, 16, .rc, 0⟩, ⟨15, 0, .ro, 4096⟩]
  | .pwEvstat => [⟨20, 16, .ro, 0⟩, ⟨9, 9, .w1c, 0⟩, ⟨8, 8, .w1c, 0⟩, ⟨7, 7, .w1c, 0⟩, ⟨6, 6, .w1c, 0⟩, ⟨5, 5, .w1c, 0⟩, ⟨4, 4, .w1c, 0⟩, ⟨3, 3, .w1c, 0⟩, ⟨2, 2, .w1c, 0⟩, ⟨0, 0, .w1c, 0⟩]
  | .pwDiplog => [⟨31, 16, .rc, 0⟩, ⟨15, 0, .ro, 0⟩]
  | .pwDens => [⟨31, 31, .ro, 0⟩, ⟨30, 30, .wo, 0⟩, ⟨9, 0, .ro, 0⟩]
  | .pwLearn => [⟨31, 20, .ro, 0⟩, ⟨19, 12, .ro, 0⟩, ⟨8, 0, .ro, 0⟩]
  | .pwTherm => [⟨31, 24, .ro, 0⟩, ⟨15, 8, .ro, 0⟩, ⟨7, 0, .ro, 0⟩]
  | .pwPhsel => [⟨12, 8, .rw, 0⟩, ⟨5, 0, .rw, 0⟩]
  | .pwPhase => [⟨31, 24, .ro, 0⟩, ⟨12, 12, .ro, 0⟩, ⟨11, 0, .ro, 0⟩]
  | .pwClClk => [⟨26, 18, .ro, 160⟩, ⟨17, 9, .ro, 340⟩, ⟨8, 0, .ro, 160⟩]
  | .pwClTarget => [⟨31, 31, .ro, 0⟩, ⟨23, 16, .ro, 0⟩, ⟨8, 0, .ro, 0⟩]
  | .pwClEst => [⟨31, 26, .ro, 0⟩, ⟨15, 0, .ro, 0⟩]
  | .pwClTemp => [⟨7, 0, .ro, 0⟩]
  | .cxCfg => [⟨31, 31, .ro, 0⟩, ⟨30, 30, .ro, 0⟩, ⟨8, 0, .ro, 0⟩]
  | .cxGather => [⟨9, 0, .rw, 0⟩]
  | .cxStep => [⟨31, 0, .ro, 0⟩]
  | .cxStatus => [⟨31, 30, .ro, 0⟩, ⟨25, 16, .ro, 0⟩, ⟨12, 0, .ro, 0⟩]
  | .cxEvents => [⟨31, 24, .rc, 0⟩, ⟨23, 16, .rc, 0⟩, ⟨15, 8, .rc, 0⟩, ⟨7, 0, .rc, 0⟩]
  | .cxSync => [⟨25, 16, .ro, 0⟩, ⟨9, 0, .ro, 0⟩]
  | .cxRelinc => [⟨23, 0, .ro, 0⟩]
  | .cxCmd => [⟨31, 28, .wo, 0⟩, ⟨27, 27, .wo, 0⟩, ⟨26, 22, .wo, 0⟩, ⟨11, 0, .wo, 0⟩]
  | .cxRecsel => [⟨11, 0, .rw, 0⟩]
  | .cxMaprt => [⟨15, 0, .rw, 0⟩]
  | .cxMapstat => [⟨31, 16, .rc, 0⟩, ⟨2, 0, .ro, 0⟩]
  | .cxRerr => [⟨31, 24, .rc, 0⟩, ⟨23, 23, .w1c, 0⟩, ⟨22, 22, .ro, 0⟩, ⟨20, 12, .ro, 0⟩, ⟨11, 0, .ro, 0⟩]
  | .cxSlotmapLo => [⟨31, 0, .ro, 0⟩]
  | .cxSlotmapHi => [⟨15, 0, .ro, 0⟩]
  | .cxSlotinLo => [⟨31, 0, .ro, 0⟩]
  | .cxSlotinHi => [⟨15, 0, .ro, 0⟩]
  | .cxSlotoutLo => [⟨31, 0, .ro, 0⟩]
  | .cxSlotoutHi => [⟨15, 0, .ro, 0⟩]
  | .cxRingbaseLo => [⟨31, 0, .ro, 0⟩]
  | .cxRingbaseHi => [⟨15, 0, .ro, 0⟩]
  | .cxFwd => [⟨31, 31, .ro, 0⟩, ⟨15, 0, .ro, 0⟩]
  | .cxRecw => [⟨31, 16, .rw, 0⟩, ⟨15, 0, .rw, 0⟩]
  | .syStatus => [⟨31, 16, .rc, 0⟩, ⟨0, 0, .ro, 0⟩]
  | .syCntSel => [⟨13, 0, .rw, 0⟩]
  | .syCnt => [⟨23, 0, .rw, 0⟩]
  | .syCntAttr => [⟨31, 31, .w1c, 0⟩, ⟨19, 10, .ro, 0⟩, ⟨9, 0, .ro, 0⟩]
  | .syXlatSel => [⟨16, 16, .rw, 0⟩, ⟨15, 0, .rw, 0⟩]
  | .syXlat => [⟨15, 0, .rw, 0⟩]
  | .syBarSel => [⟨12, 8, .rw, 0⟩, ⟨5, 0, .rw, 0⟩]
  | .syBarCfg => [⟨31, 31, .ro, 0⟩, ⟨30, 30, .ro, 0⟩, ⟨23, 14, .ro, 0⟩, ⟨13, 0, .ro, 0⟩]
  | .syBarInc => [⟨23, 0, .ro, 0⟩]
  | .syBarExp => [⟨23, 0, .ro, 0⟩]
  | .syBarRoot => [⟨15, 12, .ro, 0⟩, ⟨11, 8, .ro, 0⟩, ⟨7, 4, .ro, 0⟩, ⟨3, 0, .ro, 0⟩]
  | .syBarBox => [⟨31, 28, .ro, 0⟩, ⟨27, 24, .ro, 0⟩, ⟨23, 20, .ro, 0⟩, ⟨19, 16, .ro, 0⟩, ⟨15, 12, .ro, 0⟩, ⟨11, 8, .ro, 0⟩, ⟨7, 4, .ro, 0⟩, ⟨3, 0, .ro, 0⟩]
  | .syBarTree => [⟨31, 16, .ro, 0⟩, ⟨15, 15, .ro, 0⟩, ⟨3, 0, .ro, 0⟩]
  | .syBarState => [⟨31, 30, .ro, 0⟩, ⟨23, 0, .ro, 0⟩]
  | .msCtrl => [⟨1, 1, .rw, 0⟩, ⟨0, 0, .wo, 0⟩]
  | .msStatus => [⟨20, 16, .ro, 0⟩, ⟨1, 1, .w1c, 0⟩, ⟨0, 0, .ro, 0⟩]
  | .msStallLimit => [⟨19, 0, .rw, 0⟩]
  | .msStallRec => [⟨31, 31, .ro, 0⟩, ⟨30, 30, .ro, 0⟩, ⟨29, 28, .ro, 0⟩, ⟨27, 26, .ro, 0⟩, ⟨25, 25, .ro, 0⟩, ⟨24, 22, .ro, 0⟩, ⟨21, 14, .ro, 0⟩, ⟨9, 0, .ro, 0⟩]
  | .msVoids => [⟨31, 0, .rc, 0⟩]
  | .msRate => [⟨11, 0, .ro, 0⟩]
  | .msPeekSel => [⟨31, 31, .rw, 0⟩, ⟨29, 28, .rw, 0⟩, ⟨25, 25, .rw, 0⟩, ⟨24, 22, .rw, 0⟩, ⟨9, 0, .rw, 0⟩]
  | .msPeek => [⟨31, 24, .ro, 0⟩, ⟨23, 22, .ro, 0⟩, ⟨21, 21, .ro, 0⟩, ⟨20, 20, .ro, 0⟩, ⟨15, 0, .ro, 0⟩]
  | .drSstatus => [⟨31, 31, .ro, 0⟩, ⟨30, 30, .ro, 0⟩, ⟨29, 29, .ro, 0⟩, ⟨28, 28, .ro, 0⟩, ⟨20, 16, .ro, 0⟩, ⟨2, 0, .ro, 0⟩]
  | .drInner => [⟨31, 24, .rc, 0⟩, ⟨23, 16, .rc, 0⟩, ⟨15, 8, .rc, 0⟩, ⟨7, 0, .rc, 0⟩]
  | .drOuter => [⟨31, 16, .rc, 0⟩, ⟨15, 0, .rc, 0⟩]
  | .drEloc => [⟨31, 31, .w1c, 0⟩, ⟨30, 30, .ro, 0⟩, ⟨22, 0, .ro, 0⟩]
  | .drTemp => [⟨31, 24, .ro, 0⟩, ⟨23, 16, .ro, 0⟩, ⟨15, 8, .ro, 0⟩, ⟨7, 0, .ro, 0⟩]
  | .drScrub => [⟨31, 24, .ro, 0⟩, ⟨22, 0, .ro, 0⟩]
  | .drErase => [⟨31, 31, .ro, 0⟩, ⟨24, 16, .ro, 0⟩, ⟨15, 15, .ro, 0⟩, ⟨8, 0, .ro, 0⟩]
  | .drCtrl => [⟨1, 1, .rw, 0⟩, ⟨0, 0, .rw, 0⟩]
  | .drScrubper => [⟨7, 0, .rw, 0⟩]
  | .drLanethr => [⟨15, 0, .rw, 0⟩]
  | .drEvstat => [⟨23, 16, .ro, 0⟩, ⟨5, 5, .w1c, 0⟩, ⟨4, 4, .w1c, 0⟩, ⟨3, 3, .w1c, 0⟩, ⟨2, 2, .w1c, 0⟩, ⟨1, 1, .w1c, 0⟩]
  | .drMapRes => [⟨31, 31, .ro, 1⟩, ⟨28, 21, .ro, 0⟩, ⟨20, 0, .ro, 0⟩]
  | .drMapLo => [⟨31, 0, .rw, 0⟩]
  | .drMapHi => [⟨15, 0, .rw, 0⟩]
  | .olId => [⟨31, 31, .ro, 0⟩, ⟨15, 0, .ro, 0⟩]
  | .olCoord => [⟨15, 12, .ro, 0⟩, ⟨11, 8, .ro, 0⟩, ⟨7, 4, .ro, 0⟩, ⟨3, 0, .ro, 0⟩]
  | .olEpoch => [⟨31, 16, .ro, 0⟩, ⟨15, 15, .ro, 1⟩, ⟨14, 14, .ro, 0⟩, ⟨1, 1, .wo, 0⟩, ⟨0, 0, .wo, 0⟩]
  | .olTimers => [⟨31, 16, .rw, 0⟩, ⟨15, 0, .rw, 0⟩]
  | .olCtrl => [⟨0, 0, .rw, 0⟩]
  | .olEvstat => [⟨27, 24, .ro, 0⟩, ⟨18, 16, .ro, 0⟩, ⟨7, 7, .w1c, 0⟩, ⟨6, 6, .w1c, 0⟩, ⟨5, 5, .w1c, 0⟩, ⟨4, 4, .w1c, 0⟩, ⟨3, 3, .w1c, 0⟩, ⟨2, 2, .w1c, 0⟩, ⟨1, 1, .w1c, 0⟩, ⟨0, 0, .w1c, 0⟩]
  | .olDrops => [⟨31, 24, .rc, 0⟩, ⟨23, 16, .rc, 0⟩, ⟨15, 8, .rc, 0⟩, ⟨7, 0, .rc, 0⟩]
  | .olRtsel => [⟨31, 31, .rw, 0⟩, ⟨15, 0, .rw, 0⟩]
  | .olRt => [⟨7, 0, .rw, 0⟩]
  | .olLinkState => [⟨31, 30, .ro, 0⟩, ⟨29, 28, .ro, 0⟩, ⟨11, 0, .ro, 0⟩]
  | .olLinkPeer => [⟨31, 16, .ro, 0⟩, ⟨15, 0, .ro, 0⟩]
  | .olPortState => [⟨31, 28, .ro, 0⟩, ⟨27, 24, .ro, 0⟩, ⟨23, 16, .ro, 0⟩, ⟨15, 12, .ro, 0⟩, ⟨11, 8, .ro, 0⟩, ⟨0, 0, .wo, 0⟩]
  | .olPortErr => [⟨31, 16, .rc, 0⟩, ⟨15, 0, .rc, 0⟩]
  | .pxPstat => [⟨31, 31, .ro, 0⟩, ⟨30, 30, .ro, 0⟩, ⟨29, 29, .ro, 0⟩, ⟨26, 24, .ro, 0⟩, ⟨20, 16, .ro, 0⟩, ⟨4, 0, .ro, 0⟩]
  | .pxPctl => [⟨31, 31, .rw, 0⟩, ⟨30, 30, .ro, 0⟩, ⟨12, 12, .rw, 0⟩, ⟨10, 0, .rw, 0⟩]
  | .pxHlost => [⟨15, 0, .rw, 0⟩]
  | .pxHbeat => [⟨31, 0, .wo, 0⟩]
  | .pxHevt => [⟨4, 4, .w1c, 0⟩, ⟨3, 3, .w1c, 0⟩, ⟨2, 2, .w1c, 0⟩, ⟨1, 1, .w1c, 0⟩, ⟨0, 0, .w1c, 0⟩]
  | .pxErr => [⟨31, 24, .rc, 0⟩, ⟨23, 16, .rc, 0⟩, ⟨15, 8, .rc, 0⟩, ⟨7, 0, .rc, 0⟩]
  | .pxHwBaseLo => [⟨31, 12, .rw, 0⟩]
  | .pxHwBaseHi => [⟨31, 0, .rw, 0⟩]
  | .pxHwCtl => [⟨31, 31, .rw, 0⟩, ⟨30, 30, .rw, 0⟩, ⟨4, 0, .rw, 0⟩]
  | .pxFnD4baseLo => [⟨31, 16, .rw, 0⟩]
  | .pxFnD4baseHi => [⟨15, 0, .rw, 0⟩]
  | .pxFnD4len => [⟨20, 0, .rw, 0⟩]
  | .pxFnStat => [⟨31, 31, .ro, 0⟩, ⟨30, 30, .ro, 0⟩, ⟨29, 29, .ro, 0⟩, ⟨28, 28, .ro, 0⟩, ⟨27, 27, .ro, 0⟩, ⟨26, 26, .ro, 0⟩, ⟨4, 0, .ro, 16⟩]
  | .xcStatus => [⟨31, 31, .ro, 0⟩, ⟨28, 24, .ro, 0⟩, ⟨23, 16, .ro, 0⟩]
  | .xcPend => [⟨31, 0, .ro, 0⟩]
  | .xcVlvl => [⟨2, 0, .rw, 0⟩, ⟨6, 4, .rw, 0⟩, ⟨10, 8, .rw, 0⟩, ⟨14, 12, .rw, 0⟩, ⟨18, 16, .rw, 0⟩, ⟨22, 20, .rw, 0⟩, ⟨26, 24, .rw, 0⟩, ⟨30, 28, .rw, 0⟩]
  | .xcTslimLo => [⟨31, 6, .rw, 0⟩]
  | .xcTslimHi => [⟨15, 0, .rw, 0⟩]
  | .xcCtrl => [⟨0, 0, .rw, 0⟩]
  | .xcTcmpLo => [⟨31, 0, .rw, 0⟩]
  | .xcTcmpHi => [⟨31, 0, .rw, 0⟩]
  | .xcEsc => [⟨15, 0, .rc, 0⟩]
  | .xcTnowLo => [⟨31, 0, .ro, 0⟩]
  | .xcTnowHi => [⟨31, 0, .ro, 0⟩]
  | .xcSwi => [⟨9, 0, .wo, 0⟩]
  | .xcDevroute => [⟨7, 0, .rw, 0⟩]
  | .xcLockmap => [⟨31, 0, .ro, 0⟩]
  | .trCtrl => [⟨1, 1, .wo, 0⟩, ⟨0, 0, .wo, 0⟩]
  | .trInvvaLo => [⟨31, 0, .rw, 0⟩]
  | .trInvvaHi => [⟨15, 0, .rw, 0⟩]
  | .trStatus => [⟨31, 16, .rc, 0⟩, ⟨15, 0, .rc, 0⟩]
  | .cfCtrl => [⟨1, 1, .rw, 0⟩, ⟨0, 0, .rw, 0⟩]
  | .cfStatus => [⟨31, 31, .ro, 0⟩, ⟨5, 5, .w1c, 0⟩, ⟨4, 4, .w1c, 0⟩, ⟨1, 1, .ro, 1⟩, ⟨0, 0, .ro, 1⟩]
  | .cfRangeLen => [⟨31, 0, .rw, 0⟩]
  | .cfRangeCtrl => [⟨3, 3, .wo, 0⟩, ⟨2, 2, .wo, 0⟩, ⟨1, 1, .wo, 0⟩, ⟨0, 0, .wo, 0⟩]
  | .cfParity => [⟨31, 16, .rc, 0⟩, ⟨15, 0, .rc, 0⟩]
  | .cfMiss => [⟨31, 16, .rc, 0⟩, ⟨15, 0, .rc, 0⟩]
  | .cfRangeLo => [⟨31, 6, .rw, 0⟩]
  | .cfRangeHi => [⟨15, 0, .rw, 0⟩]
  | .cfL2ctrl => [⟨0, 0, .rw, 0⟩]
  | .cfL2status => [⟨4, 4, .w1c, 0⟩, ⟨0, 0, .ro, 1⟩]
  | .cfL2parity => [⟨15, 0, .rc, 0⟩]
  | .spStatus => [⟨12, 8, .ro, 0⟩, ⟨3, 3, .w1c, 0⟩, ⟨2, 2, .w1c, 0⟩, ⟨0, 0, .w1c, 0⟩]
  | .spEcc => [⟨31, 16, .rc, 0⟩, ⟨15, 0, .rc, 0⟩]
  | .spEccLoc => [⟨31, 31, .w1c, 0⟩, ⟨30, 30, .ro, 0⟩, ⟨17, 5, .ro, 0⟩, ⟨4, 0, .ro, 0⟩]
  | .spTimeout => [⟨19, 0, .rw, 0⟩]
  | .spFault => [⟨31, 31, .w1c, 0⟩, ⟨30, 27, .ro, 0⟩, ⟨26, 23, .ro, 0⟩, ⟨22, 15, .ro, 0⟩, ⟨12, 0, .ro, 0⟩]
  | .spRefuse => [⟨15, 0, .rc, 0⟩]
  | .spRefuseLast => [⟨31, 31, .w1c, 0⟩, ⟨30, 27, .ro, 0⟩, ⟨25, 16, .ro, 0⟩, ⟨15, 0, .ro, 0⟩]
  | .spRefuseRow => [⟨20, 8, .ro, 0⟩, ⟨4, 0, .ro, 0⟩]
  | .spRelease => [⟨27, 24, .wo, 0⟩, ⟨23, 16, .wo, 0⟩, ⟨7, 0, .wo, 0⟩]
  | .spApRect => [⟨28, 16, .rw, 0⟩, ⟨12, 0, .rw, 0⟩]
  | .spApShape => [⟨25, 13, .rw, 0⟩, ⟨12, 8, .rw, 0⟩, ⟨4, 0, .rw, 0⟩]
  | .spApSrc => [⟨31, 16, .rw, 0⟩, ⟨15, 0, .rw, 0⟩]
  | .spApReq => [⟨25, 16, .rw, 0⟩, ⟨9, 0, .rw, 0⟩]
  | .spApCtrl => [⟨31, 31, .rw, 0⟩, ⟨30, 29, .ro, 0⟩, ⟨15, 8, .rw, 0⟩, ⟨5, 4, .rw, 0⟩, ⟨3, 2, .rw, 0⟩, ⟨1, 1, .rw, 0⟩, ⟨0, 0, .rw, 0⟩]
  | .spSlotbits => [⟨31, 0, .ro, 0⟩]
  | .mxStatus => [⟨16, 12, .ro, 0⟩, ⟨11, 11, .ro, 0⟩, ⟨10, 10, .ro, 0⟩, ⟨9, 9, .ro, 0⟩, ⟨8, 8, .ro, 0⟩, ⟨7, 4, .ro, 0⟩, ⟨3, 3, .w1c, 0⟩, ⟨2, 2, .w1c, 0⟩, ⟨0, 0, .w1c, 0⟩]
  | .mxCtrl => [⟨2, 2, .wo, 0⟩, ⟨1, 1, .wo, 0⟩, ⟨0, 0, .wo, 0⟩]
  | .mxSaveBase => [⟨12, 0, .rw, 0⟩]
  | .mxFault => [⟨31, 31, .w1c, 0⟩, ⟨30, 27, .ro, 0⟩, ⟨26, 22, .ro, 0⟩, ⟨15, 8, .ro, 0⟩]
  | .mxFaultVaLo => [⟨31, 0, .ro, 0⟩]
  | .mxFaultVaHi => [⟨15, 0, .ro, 0⟩]
  | .mxTileUse => [⟨11, 8, .ro, 0⟩, ⟨7, 0, .ro, 0⟩]
  | .mxTshape => [⟨13, 7, .ro, 64⟩, ⟨6, 0, .ro, 16⟩]
  | .mxResidue => [⟨31, 16, .rc, 0⟩, ⟨15, 0, .rc, 0⟩]
  | .vxStatus => [⟨16, 12, .ro, 0⟩, ⟨11, 11, .ro, 0⟩, ⟨10, 10, .ro, 0⟩, ⟨9, 9, .ro, 0⟩, ⟨8, 8, .ro, 0⟩, ⟨3, 3, .w1c, 0⟩, ⟨2, 2, .w1c, 0⟩, ⟨0, 0, .w1c, 0⟩]
  | .vxCtrl => [⟨2, 2, .wo, 0⟩, ⟨1, 1, .wo, 0⟩, ⟨0, 0, .wo, 0⟩]
  | .vxSaveBase => [⟨12, 0, .rw, 0⟩]
  | .vxFault => [⟨31, 31, .w1c, 0⟩, ⟨30, 27, .ro, 0⟩, ⟨26, 22, .ro, 0⟩, ⟨12, 0, .ro, 0⟩]
  | .vxFaultVaLo => [⟨31, 0, .ro, 0⟩]
  | .vxFaultVaHi => [⟨15, 0, .ro, 0⟩]
  | .vxProgress => [⟨31, 31, .ro, 0⟩, ⟨19, 16, .ro, 0⟩, ⟨11, 0, .ro, 0⟩]
  | .dmStatus => [⟨23, 20, .ro, 0⟩, ⟨19, 16, .ro, 0⟩, ⟨11, 11, .ro, 0⟩, ⟨10, 10, .ro, 0⟩, ⟨9, 9, .ro, 0⟩, ⟨8, 8, .ro, 0⟩, ⟨7, 7, .ro, 0⟩, ⟨3, 3, .w1c, 0⟩, ⟨2, 2, .w1c, 0⟩]
  | .dmCtrl => [⟨3, 3, .wo, 0⟩, ⟨2, 2, .wo, 0⟩, ⟨1, 1, .wo, 0⟩, ⟨0, 0, .wo, 0⟩]
  | .dmTimeout => [⟨19, 0, .rw, 0⟩]
  | .dmChProg => [⟨31, 16, .ro, 0⟩, ⟨15, 8, .ro, 0⟩, ⟨7, 0, .ro, 0⟩]
  | .dmChProgx => [⟨31, 31, .ro, 0⟩, ⟨19, 16, .ro, 0⟩]
  | .dmChErr => [⟨31, 31, .w1c, 0⟩, ⟨30, 27, .ro, 0⟩, ⟨26, 23, .ro, 0⟩, ⟨3, 0, .ro, 0⟩]
  | .dmChErraddrLo => [⟨31, 0, .ro, 0⟩]
  | .dmChErraddrHi => [⟨31, 16, .ro, 0⟩, ⟨15, 0, .ro, 0⟩]

/-- Every register of a block, in the order of the index. -/
def blockRegs : Nat → List RegId
  | 0 => [.mgStage, .mgRefuse, .mgProofHdr, .mgAlertSrc, .mgAlertEn]
  | 1 => [.scStatus, .scCmd, .scOplen, .scSvn, .scOpsrcLo, .scOpsrcHi, .scSeq, .scDbgctr]
  | 2 => [.rsStatus, .rsCmd, .rsSafelight, .rsSlcfg, .rsRetcfg, .rsCount, .rsUptime, .rsLockdly, 
      .rsCtrl]
  | 3 => [.pwStatus, .pwCap, .pwMargin, .pwRamp, .pwPin, .pwVin, .pwRailsel, .pwRail, .pwK, 
      .pwEvstat, .pwDiplog, .pwDens, .pwLearn, .pwTherm, .pwPhsel, .pwPhase, .pwClClk, 
      .pwClTarget, .pwClEst, .pwClTemp]
  | 4 => [.cxCfg, .cxGather, .cxStep, .cxStatus, .cxEvents, .cxSync, .cxRelinc, .cxCmd, 
      .cxRecsel, .cxMaprt, .cxMapstat, .cxRerr, .cxSlotmapLo, .cxSlotmapHi, .cxSlotinLo, 
      .cxSlotinHi, .cxSlotoutLo, .cxSlotoutHi, .cxRingbaseLo, .cxRingbaseHi, .cxFwd, .cxRecw]
  | 5 => [.syStatus, .syCntSel, .syCnt, .syCntAttr, .syXlatSel, .syXlat, .syBarSel, .syBarCfg, 
      .syBarInc, .syBarExp, .syBarRoot, .syBarBox, .syBarTree, .syBarState]
  | 6 => [.msCtrl, .msStatus, .msStallLimit, .msStallRec, .msVoids, .msRate, .msPeekSel, 
      .msPeek]
  | 7 => [.drSstatus, .drInner, .drOuter, .drEloc, .drTemp, .drScrub, .drErase, .drCtrl, 
      .drScrubper, .drLanethr, .drEvstat, .drMapRes, .drMapLo, .drMapHi]
  | 8 => [.olId, .olCoord, .olEpoch, .olTimers, .olCtrl, .olEvstat, .olDrops, .olRtsel, .olRt, 
      .olLinkState, .olLinkPeer, .olPortState, .olPortErr]
  | 9 => [.pxPstat, .pxPctl, .pxHlost, .pxHbeat, .pxHevt, .pxErr, .pxHwBaseLo, .pxHwBaseHi, 
      .pxHwCtl, .pxFnD4baseLo, .pxFnD4baseHi, .pxFnD4len, .pxFnStat]
  | 10 => [.xcStatus, .xcPend, .xcVlvl, .xcTslimLo, .xcTslimHi, .xcCtrl, .xcTcmpLo, .xcTcmpHi, 
      .xcEsc, .xcTnowLo, .xcTnowHi, .xcSwi, .xcDevroute, .xcLockmap]
  | 11 => [.trCtrl, .trInvvaLo, .trInvvaHi, .trStatus]
  | 12 => [.cfCtrl, .cfStatus, .cfRangeLen, .cfRangeCtrl, .cfParity, .cfMiss, .cfRangeLo, 
      .cfRangeHi, .cfL2ctrl, .cfL2status, .cfL2parity]
  | 13 => [.spStatus, .spEcc, .spEccLoc, .spTimeout, .spFault, .spRefuse, .spRefuseLast, 
      .spRefuseRow, .spRelease, .spApRect, .spApShape, .spApSrc, .spApReq, .spApCtrl, 
      .spSlotbits]
  | 14 => [.mxStatus, .mxCtrl, .mxSaveBase, .mxFault, .mxFaultVaLo, .mxFaultVaHi, .mxTileUse, 
      .mxTshape, .mxResidue]
  | 15 => [.vxStatus, .vxCtrl, .vxSaveBase, .vxFault, .vxFaultVaLo, .vxFaultVaHi, .vxProgress]
  | 16 => [.dmStatus, .dmCtrl, .dmTimeout, .dmChProg, .dmChProgx, .dmChErr, .dmChErraddrLo, 
      .dmChErraddrHi]
  | _ => []

/-! The fields by name: REGISTER_FIELD. -/

def fMG_STAGE_REFUSE1 : Field := ⟨.mgStage, 23, 20⟩
def fMG_STAGE_REFUSE0 : Field := ⟨.mgStage, 19, 16⟩
def fMG_STAGE_FALLBACK : Field := ⟨.mgStage, 10, 10⟩
def fMG_STAGE_BANK : Field := ⟨.mgStage, 9, 9⟩
def fMG_STAGE_UNCONF : Field := ⟨.mgStage, 8, 8⟩
def fMG_STAGE_LEVEL : Field := ⟨.mgStage, 2, 0⟩
def fMG_REFUSE_TYPE : Field := ⟨.mgRefuse, 31, 24⟩
def fMG_REFUSE_ITEM : Field := ⟨.mgRefuse, 23, 0⟩
def fMG_PROOF_HDR_OVF : Field := ⟨.mgProofHdr, 31, 31⟩
def fMG_PROOF_HDR_KEPT : Field := ⟨.mgProofHdr, 23, 16⟩
def fMG_PROOF_HDR_TOTAL : Field := ⟨.mgProofHdr, 15, 0⟩
def fMG_ALERT_SRC_PXLOST : Field := ⟨.mgAlertSrc, 8, 8⟩
def fMG_ALERT_SRC_UNCONF : Field := ⟨.mgAlertSrc, 7, 7⟩
def fMG_ALERT_SRC_RETIRED : Field := ⟨.mgAlertSrc, 6, 6⟩
def fMG_ALERT_SRC_STALL : Field := ⟨.mgAlertSrc, 5, 5⟩
def fMG_ALERT_SRC_LOCKUP : Field := ⟨.mgAlertSrc, 4, 4⟩
def fMG_ALERT_SRC_SLWARN : Field := ⟨.mgAlertSrc, 3, 3⟩
def fMG_ALERT_SRC_OL : Field := ⟨.mgAlertSrc, 2, 2⟩
def fMG_ALERT_SRC_DR : Field := ⟨.mgAlertSrc, 1, 1⟩
def fMG_ALERT_SRC_PW : Field := ⟨.mgAlertSrc, 0, 0⟩
def fMG_ALERT_EN_EN : Field := ⟨.mgAlertEn, 8, 0⟩
def fSC_STATUS_BUSY : Field := ⟨.scStatus, 31, 31⟩
def fSC_STATUS_RESULT : Field := ⟨.scStatus, 30, 27⟩
def fSC_STATUS_IDOK : Field := ⟨.scStatus, 26, 26⟩
def fSC_STATUS_OWNED : Field := ⟨.scStatus, 25, 25⟩
def fSC_STATUS_PENDING : Field := ⟨.scStatus, 24, 24⟩
def fSC_STATUS_DEBUG : Field := ⟨.scStatus, 23, 23⟩
def fSC_STATUS_WRITING : Field := ⟨.scStatus, 22, 22⟩
def fSC_STATUS_WBANK : Field := ⟨.scStatus, 21, 21⟩
def fSC_CMD_CODE : Field := ⟨.scCmd, 3, 0⟩
def fSC_OPLEN_LEN : Field := ⟨.scOplen, 28, 0⟩
def fSC_SVN_FLOOR : Field := ⟨.scSvn, 31, 16⟩
def fSC_SVN_IMAGE : Field := ⟨.scSvn, 15, 0⟩
def fSC_OPSRC_LO_ADDR_LO : Field := ⟨.scOpsrcLo, 31, 0⟩
def fSC_OPSRC_HI_ADDR_HI : Field := ⟨.scOpsrcHi, 15, 0⟩
def fSC_SEQ_SEQ : Field := ⟨.scSeq, 31, 0⟩
def fSC_DBGCTR_CTR : Field := ⟨.scDbgctr, 31, 0⟩
def fRS_STATUS_RETIRED : Field := ⟨.rsStatus, 31, 31⟩
def fRS_STATUS_STANDBY : Field := ⟨.rsStatus, 30, 30⟩
def fRS_STATUS_ARMED : Field := ⟨.rsStatus, 29, 29⟩
def fRS_STATUS_SLWARN : Field := ⟨.rsStatus, 28, 28⟩
def fRS_STATUS_BADSTROKE : Field := ⟨.rsStatus, 27, 27⟩
def fRS_STATUS_CNTFAIL : Field := ⟨.rsStatus, 26, 26⟩
def fRS_STATUS_CMDERR : Field := ⟨.rsStatus, 25, 25⟩
def fRS_STATUS_INWIN : Field := ⟨.rsStatus, 23, 19⟩
def fRS_STATUS_LAST : Field := ⟨.rsStatus, 3, 0⟩
def fRS_CMD_CODE : Field := ⟨.rsCmd, 3, 0⟩
def fRS_SAFELIGHT_SEQ : Field := ⟨.rsSafelight, 7, 0⟩
def fRS_SLCFG_LEFTMS : Field := ⟨.rsSlcfg, 21, 6⟩
def fRS_SLCFG_TIMEOUT : Field := ⟨.rsSlcfg, 5, 0⟩
def fRS_RETCFG_N : Field := ⟨.rsRetcfg, 20, 17⟩
def fRS_RETCFG_W : Field := ⟨.rsRetcfg, 16, 0⟩
def fRS_COUNT_COUNT : Field := ⟨.rsCount, 31, 0⟩
def fRS_UPTIME_S : Field := ⟨.rsUptime, 31, 0⟩
def fRS_LOCKDLY_MS : Field := ⟨.rsLockdly, 15, 0⟩
def fRS_CTRL_CLOCKRST : Field := ⟨.rsCtrl, 0, 0⟩
def fPW_STATUS_DIPHOLD : Field := ⟨.pwStatus, 31, 31⟩
def fPW_STATUS_THOLD : Field := ⟨.pwStatus, 30, 30⟩
def fPW_STATUS_CAPMISS : Field := ⟨.pwStatus, 29, 29⟩
def fPW_STATUS_ACT : Field := ⟨.pwStatus, 8, 0⟩
def fPW_CAP_W : Field := ⟨.pwCap, 9, 0⟩
def fPW_MARGIN_W : Field := ⟨.pwMargin, 5, 0⟩
def fPW_RAMP_CYCLES : Field := ⟨.pwRamp, 14, 0⟩
def fPW_PIN_P : Field := ⟨.pwPin, 15, 0⟩
def fPW_VIN_V : Field := ⟨.pwVin, 15, 0⟩
def fPW_RAILSEL_RAIL : Field := ⟨.pwRailsel, 2, 0⟩
def fPW_RAIL_MV : Field := ⟨.pwRail, 31, 16⟩
def fPW_RAIL_P : Field := ⟨.pwRail, 15, 0⟩
def fPW_K_STRIPS : Field := ⟨.pwK, 31, 16⟩
def fPW_K_K : Field := ⟨.pwK, 15, 0⟩
def fPW_EVSTAT_CLUSTER : Field := ⟨.pwEvstat, 20, 16⟩
def fPW_EVSTAT_TRIP : Field := ⟨.pwEvstat, 9, 9⟩
def fPW_EVSTAT_STOREFAIL : Field := ⟨.pwEvstat, 8, 8⟩
def fPW_EVSTAT_DEGRADED : Field := ⟨.pwEvstat, 7, 7⟩
def fPW_EVSTAT_AGED : Field := ⟨.pwEvstat, 6, 6⟩
def fPW_EVSTAT_CALREJ : Field := ⟨.pwEvstat, 5, 5⟩
def fPW_EVSTAT_CAPMISS : Field := ⟨.pwEvstat, 4, 4⟩
def fPW_EVSTAT_THOLD : Field := ⟨.pwEvstat, 3, 3⟩
def fPW_EVSTAT_THROTTLE : Field := ⟨.pwEvstat, 2, 2⟩
def fPW_EVSTAT_DIP : Field := ⟨.pwEvstat, 0, 0⟩
def fPW_DIPLOG_COUNT : Field := ⟨.pwDiplog, 31, 16⟩
def fPW_DIPLOG_MINV : Field := ⟨.pwDiplog, 15, 0⟩
def fPW_DENS_BUSY : Field := ⟨.pwDens, 31, 31⟩
def fPW_DENS_RUN : Field := ⟨.pwDens, 30, 30⟩
def fPW_DENS_PERIODH : Field := ⟨.pwDens, 9, 0⟩
def fPW_LEARN_LDEF : Field := ⟨.pwLearn, 31, 20⟩
def fPW_LEARN_LEARNN : Field := ⟨.pwLearn, 19, 12⟩
def fPW_LEARN_DEFCAP5 : Field := ⟨.pwLearn, 8, 0⟩
def fPW_THERM_TJT : Field := ⟨.pwTherm, 31, 24⟩
def fPW_THERM_JMAX : Field := ⟨.pwTherm, 15, 8⟩
def fPW_THERM_DMAX : Field := ⟨.pwTherm, 7, 0⟩
def fPW_PHSEL_CLUSTER : Field := ⟨.pwPhsel, 12, 8⟩
def fPW_PHSEL_PHASE : Field := ⟨.pwPhsel, 5, 0⟩
def fPW_PHASE_N : Field := ⟨.pwPhase, 31, 24⟩
def fPW_PHASE_HINT : Field := ⟨.pwPhase, 12, 12⟩
def fPW_PHASE_L : Field := ⟨.pwPhase, 11, 0⟩
def fPW_CL_CLK_PLAN5 : Field := ⟨.pwClClk, 26, 18⟩
def fPW_CL_CLK_THERM5 : Field := ⟨.pwClClk, 17, 9⟩
def fPW_CL_CLK_CEIL5 : Field := ⟨.pwClClk, 8, 0⟩
def fPW_CL_TARGET_DEGRADED : Field := ⟨.pwClTarget, 31, 31⟩
def fPW_CL_TARGET_SLACK : Field := ⟨.pwClTarget, 23, 16⟩
def fPW_CL_TARGET_TARGET5 : Field := ⟨.pwClTarget, 8, 0⟩
def fPW_CL_EST_PHASE : Field := ⟨.pwClEst, 31, 26⟩
def fPW_CL_EST_EST : Field := ⟨.pwClEst, 15, 0⟩
def fPW_CL_TEMP_TJ : Field := ⟨.pwClTemp, 7, 0⟩
def fCX_CFG_ROLE : Field := ⟨.cxCfg, 31, 31⟩
def fCX_CFG_PEERCLAIM : Field := ⟨.cxCfg, 30, 30⟩
def fCX_CFG_SM1 : Field := ⟨.cxCfg, 8, 0⟩
def fCX_GATHER_US : Field := ⟨.cxGather, 9, 0⟩
def fCX_STEP_STEP : Field := ⟨.cxStep, 31, 0⟩
def fCX_STATUS_PHASE : Field := ⟨.cxStatus, 31, 30⟩
def fCX_STATUS_OCC : Field := ⟨.cxStatus, 25, 16⟩
def fCX_STATUS_READY : Field := ⟨.cxStatus, 12, 0⟩
def fCX_EVENTS_BADDB : Field := ⟨.cxEvents, 31, 24⟩
def fCX_EVENTS_CMDERR : Field := ⟨.cxEvents, 23, 16⟩
def fCX_EVENTS_MISMATCH : Field := ⟨.cxEvents, 15, 8⟩
def fCX_EVENTS_TOKSAT : Field := ⟨.cxEvents, 7, 0⟩
def fCX_SYNC_RELID : Field := ⟨.cxSync, 25, 16⟩
def fCX_SYNC_DONEID : Field := ⟨.cxSync, 9, 0⟩
def fCX_RELINC_INC : Field := ⟨.cxRelinc, 23, 0⟩
def fCX_CMD_CODE : Field := ⟨.cxCmd, 31, 28⟩
def fCX_CMD_PORT : Field := ⟨.cxCmd, 27, 27⟩
def fCX_CMD_FUNC : Field := ⟨.cxCmd, 26, 22⟩
def fCX_CMD_CTX : Field := ⟨.cxCmd, 11, 0⟩
def fCX_RECSEL_CTX : Field := ⟨.cxRecsel, 11, 0⟩
def fCX_MAPRT_US : Field := ⟨.cxMaprt, 15, 0⟩
def fCX_MAPSTAT_RESENDS : Field := ⟨.cxMapstat, 31, 16⟩
def fCX_MAPSTAT_OUTSTANDING : Field := ⟨.cxMapstat, 2, 0⟩
def fCX_RERR_COUNT : Field := ⟨.cxRerr, 31, 24⟩
def fCX_RERR_VALID : Field := ⟨.cxRerr, 23, 23⟩
def fCX_RERR_KIND : Field := ⟨.cxRerr, 22, 22⟩
def fCX_RERR_SLOT : Field := ⟨.cxRerr, 20, 12⟩
def fCX_RERR_CTX : Field := ⟨.cxRerr, 11, 0⟩
def fCX_SLOTMAP_LO_ADDR_LO : Field := ⟨.cxSlotmapLo, 31, 0⟩
def fCX_SLOTMAP_HI_ADDR_HI : Field := ⟨.cxSlotmapHi, 15, 0⟩
def fCX_SLOTIN_LO_ADDR_LO : Field := ⟨.cxSlotinLo, 31, 0⟩
def fCX_SLOTIN_HI_ADDR_HI : Field := ⟨.cxSlotinHi, 15, 0⟩
def fCX_SLOTOUT_LO_ADDR_LO : Field := ⟨.cxSlotoutLo, 31, 0⟩
def fCX_SLOTOUT_HI_ADDR_HI : Field := ⟨.cxSlotoutHi, 15, 0⟩
def fCX_RINGBASE_LO_ADDR_LO : Field := ⟨.cxRingbaseLo, 31, 0⟩
def fCX_RINGBASE_HI_ADDR_HI : Field := ⟨.cxRingbaseHi, 15, 0⟩
def fCX_FWD_VALID : Field := ⟨.cxFwd, 31, 31⟩
def fCX_FWD_DEV : Field := ⟨.cxFwd, 15, 0⟩
def fCX_RECW_HIWORD : Field := ⟨.cxRecw, 31, 16⟩
def fCX_RECW_LOWORD : Field := ⟨.cxRecw, 15, 0⟩
def fSY_STATUS_LOSTRND : Field := ⟨.syStatus, 31, 16⟩
def fSY_STATUS_XBUSY : Field := ⟨.syStatus, 0, 0⟩
def fSY_CNT_SEL_CNT : Field := ⟨.syCntSel, 13, 0⟩
def fSY_CNT_VALUE : Field := ⟨.syCnt, 23, 0⟩
def fSY_CNT_ATTR_LOST : Field := ⟨.syCntAttr, 31, 31⟩
def fSY_CNT_ATTR_WAITERS : Field := ⟨.syCntAttr, 19, 10⟩
def fSY_CNT_ATTR_HOME : Field := ⟨.syCntAttr, 9, 0⟩
def fSY_XLAT_SEL_GLB : Field := ⟨.syXlatSel, 16, 16⟩
def fSY_XLAT_SEL_ENTRY : Field := ⟨.syXlatSel, 15, 0⟩
def fSY_XLAT_ENTRY : Field := ⟨.syXlat, 15, 0⟩
def fSY_BAR_SEL_NODE : Field := ⟨.syBarSel, 12, 8⟩
def fSY_BAR_SEL_BAR : Field := ⟨.syBarSel, 5, 0⟩
def fSY_BAR_CFG_VALID : Field := ⟨.syBarCfg, 31, 31⟩
def fSY_BAR_CFG_TORUS : Field := ⟨.syBarCfg, 30, 30⟩
def fSY_BAR_CFG_HOME : Field := ⟨.syBarCfg, 23, 14⟩
def fSY_BAR_CFG_EXIT : Field := ⟨.syBarCfg, 13, 0⟩
def fSY_BAR_INC_EXITINC : Field := ⟨.syBarInc, 23, 0⟩
def fSY_BAR_EXP_EXP : Field := ⟨.syBarExp, 23, 0⟩
def fSY_BAR_ROOT_A : Field := ⟨.syBarRoot, 15, 12⟩
def fSY_BAR_ROOT_B : Field := ⟨.syBarRoot, 11, 8⟩
def fSY_BAR_ROOT_C : Field := ⟨.syBarRoot, 7, 4⟩
def fSY_BAR_ROOT_D : Field := ⟨.syBarRoot, 3, 0⟩
def fSY_BAR_BOX_ALO : Field := ⟨.syBarBox, 31, 28⟩
def fSY_BAR_BOX_ACNTM1 : Field := ⟨.syBarBox, 27, 24⟩
def fSY_BAR_BOX_BLO : Field := ⟨.syBarBox, 23, 20⟩
def fSY_BAR_BOX_BCNTM1 : Field := ⟨.syBarBox, 19, 16⟩
def fSY_BAR_BOX_CLO : Field := ⟨.syBarBox, 15, 12⟩
def fSY_BAR_BOX_CCNTM1 : Field := ⟨.syBarBox, 11, 8⟩
def fSY_BAR_BOX_DLO : Field := ⟨.syBarBox, 7, 4⟩
def fSY_BAR_BOX_DCNTM1 : Field := ⟨.syBarBox, 3, 0⟩
def fSY_BAR_TREE_PARENT : Field := ⟨.syBarTree, 31, 16⟩
def fSY_BAR_TREE_ROOT : Field := ⟨.syBarTree, 15, 15⟩
def fSY_BAR_TREE_NCHILD : Field := ⟨.syBarTree, 3, 0⟩
def fSY_BAR_STATE_LAST : Field := ⟨.syBarState, 31, 30⟩
def fSY_BAR_STATE_ROUNDS : Field := ⟨.syBarState, 23, 0⟩
def fMS_CTRL_SIE : Field := ⟨.msCtrl, 1, 1⟩
def fMS_CTRL_POP : Field := ⟨.msCtrl, 0, 0⟩
def fMS_STATUS_LOGCOUNT : Field := ⟨.msStatus, 20, 16⟩
def fMS_STATUS_LOGOVF : Field := ⟨.msStatus, 1, 1⟩
def fMS_STATUS_STALLED : Field := ⟨.msStatus, 0, 0⟩
def fMS_STALL_LIMIT_US : Field := ⟨.msStallLimit, 19, 0⟩
def fMS_STALL_REC_VALID : Field := ⟨.msStallRec, 31, 31⟩
def fMS_STALL_REC_SLICE : Field := ⟨.msStallRec, 30, 30⟩
def fMS_STALL_REC_PLANE : Field := ⟨.msStallRec, 29, 28⟩
def fMS_STALL_REC_CAUSE : Field := ⟨.msStallRec, 27, 26⟩
def fMS_STALL_REC_DIR : Field := ⟨.msStallRec, 25, 25⟩
def fMS_STALL_REC_PORT : Field := ⟨.msStallRec, 24, 22⟩
def fMS_STALL_REC_ENTRY : Field := ⟨.msStallRec, 21, 14⟩
def fMS_STALL_REC_UNIT : Field := ⟨.msStallRec, 9, 0⟩
def fMS_VOIDS_COUNT : Field := ⟨.msVoids, 31, 0⟩
def fMS_RATE_MBEATS : Field := ⟨.msRate, 11, 0⟩
def fMS_PEEK_SEL_SLICE : Field := ⟨.msPeekSel, 31, 31⟩
def fMS_PEEK_SEL_PLANE : Field := ⟨.msPeekSel, 29, 28⟩
def fMS_PEEK_SEL_DIR : Field := ⟨.msPeekSel, 25, 25⟩
def fMS_PEEK_SEL_PORT : Field := ⟨.msPeekSel, 24, 22⟩
def fMS_PEEK_SEL_UNIT : Field := ⟨.msPeekSel, 9, 0⟩
def fMS_PEEK_ENTRY : Field := ⟨.msPeek, 31, 24⟩
def fMS_PEEK_WAIT : Field := ⟨.msPeek, 23, 22⟩
def fMS_PEEK_IDLE : Field := ⟨.msPeek, 21, 21⟩
def fMS_PEEK_MOVING : Field := ⟨.msPeek, 20, 20⟩
def fMS_PEEK_DONE : Field := ⟨.msPeek, 15, 0⟩
def fDR_SSTATUS_TRAINED : Field := ⟨.drSstatus, 31, 31⟩
def fDR_SSTATUS_TRFAIL : Field := ⟨.drSstatus, 30, 30⟩
def fDR_SSTATUS_HOT : Field := ⟨.drSstatus, 29, 29⟩
def fDR_SSTATUS_SELFREF : Field := ⟨.drSstatus, 28, 28⟩
def fDR_SSTATUS_DEBT : Field := ⟨.drSstatus, 20, 16⟩
def fDR_SSTATUS_NERASE : Field := ⟨.drSstatus, 2, 0⟩
def fDR_INNER_L3 : Field := ⟨.drInner, 31, 24⟩
def fDR_INNER_L2 : Field := ⟨.drInner, 23, 16⟩
def fDR_INNER_L1 : Field := ⟨.drInner, 15, 8⟩
def fDR_INNER_L0 : Field := ⟨.drInner, 7, 0⟩
def fDR_OUTER_UNITS : Field := ⟨.drOuter, 31, 16⟩
def fDR_OUTER_UNCORR : Field := ⟨.drOuter, 15, 0⟩
def fDR_ELOC_VALID : Field := ⟨.drEloc, 31, 31⟩
def fDR_ELOC_UNC : Field := ⟨.drEloc, 30, 30⟩
def fDR_ELOC_UNIT : Field := ⟨.drEloc, 22, 0⟩
def fDR_TEMP_T3 : Field := ⟨.drTemp, 31, 24⟩
def fDR_TEMP_T2 : Field := ⟨.drTemp, 23, 16⟩
def fDR_TEMP_T1 : Field := ⟨.drTemp, 15, 8⟩
def fDR_TEMP_T0 : Field := ⟨.drTemp, 7, 0⟩
def fDR_SCRUB_PASSES : Field := ⟨.drScrub, 31, 24⟩
def fDR_SCRUB_NEXT : Field := ⟨.drScrub, 22, 0⟩
def fDR_ERASE_V1 : Field := ⟨.drErase, 31, 31⟩
def fDR_ERASE_LANE1 : Field := ⟨.drErase, 24, 16⟩
def fDR_ERASE_V0 : Field := ⟨.drErase, 15, 15⟩
def fDR_ERASE_LANE0 : Field := ⟨.drErase, 8, 0⟩
def fDR_CTRL_LANEAUTO : Field := ⟨.drCtrl, 1, 1⟩
def fDR_CTRL_SCRUBEN : Field := ⟨.drCtrl, 0, 0⟩
def fDR_SCRUBPER_HOURS : Field := ⟨.drScrubper, 7, 0⟩
def fDR_LANETHR_COUNT : Field := ⟨.drLanethr, 15, 0⟩
def fDR_EVSTAT_SLICE : Field := ⟨.drEvstat, 23, 16⟩
def fDR_EVSTAT_TEMP95 : Field := ⟨.drEvstat, 5, 5⟩
def fDR_EVSTAT_DEBT : Field := ⟨.drEvstat, 4, 4⟩
def fDR_EVSTAT_LANEADD : Field := ⟨.drEvstat, 3, 3⟩
def fDR_EVSTAT_TRFAIL : Field := ⟨.drEvstat, 2, 2⟩
def fDR_EVSTAT_UNCORR : Field := ⟨.drEvstat, 1, 1⟩
def fDR_MAP_RES_VALID : Field := ⟨.drMapRes, 31, 31⟩
def fDR_MAP_RES_SLICE : Field := ⟨.drMapRes, 28, 21⟩
def fDR_MAP_RES_STRIPE : Field := ⟨.drMapRes, 20, 0⟩
def fDR_MAP_LO_ADDR_LO : Field := ⟨.drMapLo, 31, 0⟩
def fDR_MAP_HI_ADDR_HI : Field := ⟨.drMapHi, 15, 0⟩
def fOL_ID_MAPPED : Field := ⟨.olId, 31, 31⟩
def fOL_ID_DEVID : Field := ⟨.olId, 15, 0⟩
def fOL_COORD_A : Field := ⟨.olCoord, 15, 12⟩
def fOL_COORD_B : Field := ⟨.olCoord, 11, 8⟩
def fOL_COORD_C : Field := ⟨.olCoord, 7, 4⟩
def fOL_COORD_D : Field := ⟨.olCoord, 3, 0⟩
def fOL_EPOCH_CURRENT : Field := ⟨.olEpoch, 31, 16⟩
def fOL_EPOCH_ARMED : Field := ⟨.olEpoch, 15, 15⟩
def fOL_EPOCH_DRAINING : Field := ⟨.olEpoch, 14, 14⟩
def fOL_EPOCH_ARM : Field := ⟨.olEpoch, 1, 1⟩
def fOL_EPOCH_GO : Field := ⟨.olEpoch, 0, 0⟩
def fOL_TIMERS_DRAINUS : Field := ⟨.olTimers, 31, 16⟩
def fOL_TIMERS_LOSTUS : Field := ⟨.olTimers, 15, 0⟩
def fOL_CTRL_AUTORETRAIN : Field := ⟨.olCtrl, 0, 0⟩
def fOL_EVSTAT_PORT : Field := ⟨.olEvstat, 27, 24⟩
def fOL_EVSTAT_LINK : Field := ⟨.olEvstat, 18, 16⟩
def fOL_EVSTAT_EPOCHSKIP : Field := ⟨.olEvstat, 7, 7⟩
def fOL_EVSTAT_UNARMED : Field := ⟨.olEvstat, 6, 6⟩
def fOL_EVSTAT_SWITCHED : Field := ⟨.olEvstat, 5, 5⟩
def fOL_EVSTAT_LINKLOST : Field := ⟨.olEvstat, 4, 4⟩
def fOL_EVSTAT_PORTREADY : Field := ⟨.olEvstat, 3, 3⟩
def fOL_EVSTAT_PORTDOWN : Field := ⟨.olEvstat, 2, 2⟩
def fOL_EVSTAT_ATTFAIL : Field := ⟨.olEvstat, 1, 1⟩
def fOL_EVSTAT_NARROW : Field := ⟨.olEvstat, 0, 0⟩
def fOL_DROPS_NOROUTE : Field := ⟨.olDrops, 31, 24⟩
def fOL_DROPS_LOSTLINK : Field := ⟨.olDrops, 23, 16⟩
def fOL_DROPS_STALE : Field := ⟨.olDrops, 15, 8⟩
def fOL_DROPS_XBREAD : Field := ⟨.olDrops, 7, 0⟩
def fOL_RTSEL_CUR : Field := ⟨.olRtsel, 31, 31⟩
def fOL_RTSEL_DEV : Field := ⟨.olRtsel, 15, 0⟩
def fOL_RT_ENTRY : Field := ⟨.olRt, 7, 0⟩
def fOL_LINK_STATE_ROLE : Field := ⟨.olLinkState, 31, 30⟩
def fOL_LINK_STATE_STATE : Field := ⟨.olLinkState, 29, 28⟩
def fOL_LINK_STATE_OUTSTANDING : Field := ⟨.olLinkState, 11, 0⟩
def fOL_LINK_PEER_COORD : Field := ⟨.olLinkPeer, 31, 16⟩
def fOL_LINK_PEER_DEV : Field := ⟨.olLinkPeer, 15, 0⟩
def fOL_PORT_STATE_STATE : Field := ⟨.olPortState, 31, 28⟩
def fOL_PORT_STATE_WIDTH : Field := ⟨.olPortState, 27, 24⟩
def fOL_PORT_STATE_WAVES : Field := ⟨.olPortState, 23, 16⟩
def fOL_PORT_STATE_DOWNCAUSE : Field := ⟨.olPortState, 15, 12⟩
def fOL_PORT_STATE_ATTCAUSE : Field := ⟨.olPortState, 11, 8⟩
def fOL_PORT_STATE_RETRAIN : Field := ⟨.olPortState, 0, 0⟩
def fOL_PORT_ERR_CORR : Field := ⟨.olPortErr, 31, 16⟩
def fOL_PORT_ERR_UNCORR : Field := ⟨.olPortErr, 15, 0⟩
def fPX_PSTAT_LINKUP : Field := ⟨.pxPstat, 31, 31⟩
def fPX_PSTAT_LOST : Field := ⟨.pxPstat, 30, 30⟩
def fPX_PSTAT_PERST : Field := ⟨.pxPstat, 29, 29⟩
def fPX_PSTAT_SPEED : Field := ⟨.pxPstat, 26, 24⟩
def fPX_PSTAT_WIDTH : Field := ⟨.pxPstat, 20, 16⟩
def fPX_PSTAT_NUMVF : Field := ⟨.pxPstat, 4, 0⟩
def fPX_PCTL_HBEN : Field := ⟨.pxPctl, 31, 31⟩
def fPX_PCTL_HOSTMAP : Field := ⟨.pxPctl, 30, 30⟩
def fPX_PCTL_EVEN : Field := ⟨.pxPctl, 12, 12⟩
def fPX_PCTL_EVVEC : Field := ⟨.pxPctl, 10, 0⟩
def fPX_HLOST_MS : Field := ⟨.pxHlost, 15, 0⟩
def fPX_HBEAT_BEAT : Field := ⟨.pxHbeat, 31, 0⟩
def fPX_HEVT_WARM : Field := ⟨.pxHevt, 4, 4⟩
def fPX_HEVT_OTHERLOST : Field := ⟨.pxHevt, 3, 3⟩
def fPX_HEVT_THERMAL : Field := ⟨.pxHevt, 2, 2⟩
def fPX_HEVT_SUPPLY : Field := ⟨.pxHevt, 1, 1⟩
def fPX_HEVT_STAGE : Field := ⟨.pxHevt, 0, 0⟩
def fPX_ERR_BADREQ : Field := ⟨.pxErr, 31, 24⟩
def fPX_ERR_POISON : Field := ⟨.pxErr, 23, 16⟩
def fPX_ERR_HOSTERR : Field := ⟨.pxErr, 15, 8⟩
def fPX_ERR_DROPW : Field := ⟨.pxErr, 7, 0⟩
def fPX_HW_BASE_LO_BASE_LO : Field := ⟨.pxHwBaseLo, 31, 12⟩
def fPX_HW_BASE_HI_BASE_HI : Field := ⟨.pxHwBaseHi, 31, 0⟩
def fPX_HW_CTL_VALID : Field := ⟨.pxHwCtl, 31, 31⟩
def fPX_HW_CTL_RO : Field := ⟨.pxHwCtl, 30, 30⟩
def fPX_HW_CTL_FUNC : Field := ⟨.pxHwCtl, 4, 0⟩
def fPX_FN_D4BASE_LO_ADDR_LO : Field := ⟨.pxFnD4baseLo, 31, 16⟩
def fPX_FN_D4BASE_HI_ADDR_HI : Field := ⟨.pxFnD4baseHi, 15, 0⟩
def fPX_FN_D4LEN_LEN64K : Field := ⟨.pxFnD4len, 20, 0⟩
def fPX_FN_STAT_PRESENT : Field := ⟨.pxFnStat, 31, 31⟩
def fPX_FN_STAT_FLR : Field := ⟨.pxFnStat, 30, 30⟩
def fPX_FN_STAT_MSE : Field := ⟨.pxFnStat, 29, 29⟩
def fPX_FN_STAT_BME : Field := ⟨.pxFnStat, 28, 28⟩
def fPX_FN_STAT_MSIXEN : Field := ⟨.pxFnStat, 27, 27⟩
def fPX_FN_STAT_FMASK : Field := ⟨.pxFnStat, 26, 26⟩
def fPX_FN_STAT_BAR4SZ : Field := ⟨.pxFnStat, 4, 0⟩
def fXC_STATUS_LOCKUP : Field := ⟨.xcStatus, 31, 31⟩
def fXC_STATUS_LOCKOVEC : Field := ⟨.xcStatus, 28, 24⟩
def fXC_STATUS_LOCKCAUSE : Field := ⟨.xcStatus, 23, 16⟩
def fXC_PEND_PEND : Field := ⟨.xcPend, 31, 0⟩
def fXC_VLVL_LVL0 : Field := ⟨.xcVlvl, 2, 0⟩
def fXC_VLVL_LVL1 : Field := ⟨.xcVlvl, 6, 4⟩
def fXC_VLVL_LVL2 : Field := ⟨.xcVlvl, 10, 8⟩
def fXC_VLVL_LVL3 : Field := ⟨.xcVlvl, 14, 12⟩
def fXC_VLVL_LVL4 : Field := ⟨.xcVlvl, 18, 16⟩
def fXC_VLVL_LVL5 : Field := ⟨.xcVlvl, 22, 20⟩
def fXC_VLVL_LVL6 : Field := ⟨.xcVlvl, 26, 24⟩
def fXC_VLVL_LVL7 : Field := ⟨.xcVlvl, 30, 28⟩
def fXC_TSLIM_LO_LIM_LO : Field := ⟨.xcTslimLo, 31, 6⟩
def fXC_TSLIM_HI_LIM_HI : Field := ⟨.xcTslimHi, 15, 0⟩
def fXC_CTRL_TEN : Field := ⟨.xcCtrl, 0, 0⟩
def fXC_TCMP_LO_TCMP_LO : Field := ⟨.xcTcmpLo, 31, 0⟩
def fXC_TCMP_HI_TCMP_HI : Field := ⟨.xcTcmpHi, 31, 0⟩
def fXC_ESC_COUNT : Field := ⟨.xcEsc, 15, 0⟩
def fXC_TNOW_LO_TNOW_LO : Field := ⟨.xcTnowLo, 31, 0⟩
def fXC_TNOW_HI_TNOW_HI : Field := ⟨.xcTnowHi, 31, 0⟩
def fXC_SWI_TARGET : Field := ⟨.xcSwi, 9, 0⟩
def fXC_DEVROUTE_CORES : Field := ⟨.xcDevroute, 7, 0⟩
def fXC_LOCKMAP_LOCKED : Field := ⟨.xcLockmap, 31, 0⟩
def fTR_CTRL_INVPAGE : Field := ⟨.trCtrl, 1, 1⟩
def fTR_CTRL_INVALL : Field := ⟨.trCtrl, 0, 0⟩
def fTR_INVVA_LO_VA_LO : Field := ⟨.trInvvaLo, 31, 0⟩
def fTR_INVVA_HI_VA_HI : Field := ⟨.trInvvaHi, 15, 0⟩
def fTR_STATUS_FAULTS : Field := ⟨.trStatus, 31, 16⟩
def fTR_STATUS_WALKS : Field := ⟨.trStatus, 15, 0⟩
def fCF_CTRL_DEN : Field := ⟨.cfCtrl, 1, 1⟩
def fCF_CTRL_IEN : Field := ⟨.cfCtrl, 0, 0⟩
def fCF_STATUS_BUSY : Field := ⟨.cfStatus, 31, 31⟩
def fCF_STATUS_RERR : Field := ⟨.cfStatus, 5, 5⟩
def fCF_STATUS_ENREF : Field := ⟨.cfStatus, 4, 4⟩
def fCF_STATUS_DCLEAN : Field := ⟨.cfStatus, 1, 1⟩
def fCF_STATUS_ICLEAN : Field := ⟨.cfStatus, 0, 0⟩
def fCF_RANGE_LEN_LINESM1 : Field := ⟨.cfRangeLen, 31, 0⟩
def fCF_RANGE_CTRL_ALL : Field := ⟨.cfRangeCtrl, 3, 3⟩
def fCF_RANGE_CTRL_L2 : Field := ⟨.cfRangeCtrl, 2, 2⟩
def fCF_RANGE_CTRL_D : Field := ⟨.cfRangeCtrl, 1, 1⟩
def fCF_RANGE_CTRL_I : Field := ⟨.cfRangeCtrl, 0, 0⟩
def fCF_PARITY_DERR : Field := ⟨.cfParity, 31, 16⟩
def fCF_PARITY_IERR : Field := ⟨.cfParity, 15, 0⟩
def fCF_MISS_DMISS : Field := ⟨.cfMiss, 31, 16⟩
def fCF_MISS_IMISS : Field := ⟨.cfMiss, 15, 0⟩
def fCF_RANGE_LO_ADDR_LO : Field := ⟨.cfRangeLo, 31, 6⟩
def fCF_RANGE_HI_ADDR_HI : Field := ⟨.cfRangeHi, 15, 0⟩
def fCF_L2CTRL_EN : Field := ⟨.cfL2ctrl, 0, 0⟩
def fCF_L2STATUS_ENREF : Field := ⟨.cfL2status, 4, 4⟩
def fCF_L2STATUS_CLEAN : Field := ⟨.cfL2status, 0, 0⟩
def fCF_L2PARITY_ERR : Field := ⟨.cfL2parity, 15, 0⟩
def fSP_STATUS_SBUSED : Field := ⟨.spStatus, 12, 8⟩
def fSP_STATUS_RELERR : Field := ⟨.spStatus, 3, 3⟩
def fSP_STATUS_APERR : Field := ⟨.spStatus, 2, 2⟩
def fSP_STATUS_SAT : Field := ⟨.spStatus, 0, 0⟩
def fSP_ECC_CORR : Field := ⟨.spEcc, 31, 16⟩
def fSP_ECC_UNCORR : Field := ⟨.spEcc, 15, 0⟩
def fSP_ECC_LOC_VALID : Field := ⟨.spEccLoc, 31, 31⟩
def fSP_ECC_LOC_UNC : Field := ⟨.spEccLoc, 30, 30⟩
def fSP_ECC_LOC_ROW : Field := ⟨.spEccLoc, 17, 5⟩
def fSP_ECC_LOC_GRAN : Field := ⟨.spEccLoc, 4, 0⟩
def fSP_TIMEOUT_US : Field := ⟨.spTimeout, 19, 0⟩
def fSP_FAULT_VALID : Field := ⟨.spFault, 31, 31⟩
def fSP_FAULT_CAUSE : Field := ⟨.spFault, 30, 27⟩
def fSP_FAULT_AP : Field := ⟨.spFault, 26, 23⟩
def fSP_FAULT_SLOT : Field := ⟨.spFault, 22, 15⟩
def fSP_FAULT_ROW : Field := ⟨.spFault, 12, 0⟩
def fSP_REFUSE_COUNT : Field := ⟨.spRefuse, 15, 0⟩
def fSP_REFUSE_LAST_VALID : Field := ⟨.spRefuseLast, 31, 31⟩
def fSP_REFUSE_LAST_REASON : Field := ⟨.spRefuseLast, 30, 27⟩
def fSP_REFUSE_LAST_REQ : Field := ⟨.spRefuseLast, 25, 16⟩
def fSP_REFUSE_LAST_DEV : Field := ⟨.spRefuseLast, 15, 0⟩
def fSP_REFUSE_ROW_ROW : Field := ⟨.spRefuseRow, 20, 8⟩
def fSP_REFUSE_ROW_GRAN : Field := ⟨.spRefuseRow, 4, 0⟩
def fSP_RELEASE_AP : Field := ⟨.spRelease, 27, 24⟩
def fSP_RELEASE_SLOT : Field := ⟨.spRelease, 23, 16⟩
def fSP_RELEASE_COUNTM1 : Field := ⟨.spRelease, 7, 0⟩
def fSP_AP_RECT_NROWSM1 : Field := ⟨.spApRect, 28, 16⟩
def fSP_AP_RECT_ROW0 : Field := ⟨.spApRect, 12, 0⟩
def fSP_AP_SHAPE_SLOTROWSM1 : Field := ⟨.spApShape, 25, 13⟩
def fSP_AP_SHAPE_NGM1 : Field := ⟨.spApShape, 12, 8⟩
def fSP_AP_SHAPE_G0 : Field := ⟨.spApShape, 4, 0⟩
def fSP_AP_SRC_DEVMASK : Field := ⟨.spApSrc, 31, 16⟩
def fSP_AP_SRC_DEVBASE : Field := ⟨.spApSrc, 15, 0⟩
def fSP_AP_REQ_REQHI : Field := ⟨.spApReq, 25, 16⟩
def fSP_AP_REQ_REQLO : Field := ⟨.spApReq, 9, 0⟩
def fSP_AP_CTRL_OPEN : Field := ⟨.spApCtrl, 31, 31⟩
def fSP_AP_CTRL_STATE : Field := ⟨.spApCtrl, 30, 29⟩
def fSP_AP_CTRL_GEN : Field := ⟨.spApCtrl, 15, 8⟩
def fSP_AP_CTRL_MODE : Field := ⟨.spApCtrl, 5, 4⟩
def fSP_AP_CTRL_OP : Field := ⟨.spApCtrl, 3, 2⟩
def fSP_AP_CTRL_RREAD : Field := ⟨.spApCtrl, 1, 1⟩
def fSP_AP_CTRL_REL3 : Field := ⟨.spApCtrl, 0, 0⟩
def fSP_SLOTBITS_FULL : Field := ⟨.spSlotbits, 31, 0⟩
def fMX_STATUS_QCOUNT : Field := ⟨.mxStatus, 16, 12⟩
def fMX_STATUS_HELD : Field := ⟨.mxStatus, 11, 11⟩
def fMX_STATUS_ARRAY_BUSY : Field := ⟨.mxStatus, 10, 10⟩
def fMX_STATUS_XFER_BUSY : Field := ⟨.mxStatus, 9, 9⟩
def fMX_STATUS_SAVEBUSY : Field := ⟨.mxStatus, 8, 8⟩
def fMX_STATUS_RESIDENT : Field := ⟨.mxStatus, 7, 4⟩
def fMX_STATUS_SRERR : Field := ⟨.mxStatus, 3, 3⟩
def fMX_STATUS_QREFUSED : Field := ⟨.mxStatus, 2, 2⟩
def fMX_STATUS_SAT : Field := ⟨.mxStatus, 0, 0⟩
def fMX_CTRL_RESTORE : Field := ⟨.mxCtrl, 2, 2⟩
def fMX_CTRL_SAVE : Field := ⟨.mxCtrl, 1, 1⟩
def fMX_CTRL_ABANDON : Field := ⟨.mxCtrl, 0, 0⟩
def fMX_SAVE_BASE_ROW : Field := ⟨.mxSaveBase, 12, 0⟩
def fMX_FAULT_VALID : Field := ⟨.mxFault, 31, 31⟩
def fMX_FAULT_CAUSE : Field := ⟨.mxFault, 30, 27⟩
def fMX_FAULT_OPCODE : Field := ⟨.mxFault, 26, 22⟩
def fMX_FAULT_DONE : Field := ⟨.mxFault, 15, 8⟩
def fMX_FAULT_VA_LO_VA_LO : Field := ⟨.mxFaultVaLo, 31, 0⟩
def fMX_FAULT_VA_HI_VA_HI : Field := ⟨.mxFaultVaHi, 15, 0⟩
def fMX_TILE_USE_CUSE : Field := ⟨.mxTileUse, 11, 8⟩
def fMX_TILE_USE_TUSE : Field := ⟨.mxTileUse, 7, 0⟩
def fMX_TSHAPE_RLEN4 : Field := ⟨.mxTshape, 13, 7⟩
def fMX_TSHAPE_ROWS : Field := ⟨.mxTshape, 6, 0⟩
def fMX_RESIDUE_FAULTS : Field := ⟨.mxResidue, 31, 16⟩
def fMX_RESIDUE_RETRIES : Field := ⟨.mxResidue, 15, 0⟩
def fVX_STATUS_QCOUNT : Field := ⟨.vxStatus, 16, 12⟩
def fVX_STATUS_HELD : Field := ⟨.vxStatus, 11, 11⟩
def fVX_STATUS_BUSY : Field := ⟨.vxStatus, 10, 10⟩
def fVX_STATUS_LONG : Field := ⟨.vxStatus, 9, 9⟩
def fVX_STATUS_SAVEBUSY : Field := ⟨.vxStatus, 8, 8⟩
def fVX_STATUS_SRERR : Field := ⟨.vxStatus, 3, 3⟩
def fVX_STATUS_QREFUSED : Field := ⟨.vxStatus, 2, 2⟩
def fVX_STATUS_SAT : Field := ⟨.vxStatus, 0, 0⟩
def fVX_CTRL_RESTORE : Field := ⟨.vxCtrl, 2, 2⟩
def fVX_CTRL_SAVE : Field := ⟨.vxCtrl, 1, 1⟩
def fVX_CTRL_ABANDON : Field := ⟨.vxCtrl, 0, 0⟩
def fVX_SAVE_BASE_ROW : Field := ⟨.vxSaveBase, 12, 0⟩
def fVX_FAULT_VALID : Field := ⟨.vxFault, 31, 31⟩
def fVX_FAULT_CAUSE : Field := ⟨.vxFault, 30, 27⟩
def fVX_FAULT_OPCODE : Field := ⟨.vxFault, 26, 22⟩
def fVX_FAULT_DONE : Field := ⟨.vxFault, 12, 0⟩
def fVX_FAULT_VA_LO_VA_LO : Field := ⟨.vxFaultVaLo, 31, 0⟩
def fVX_FAULT_VA_HI_VA_HI : Field := ⟨.vxFaultVaHi, 15, 0⟩
def fVX_PROGRESS_VALID : Field := ⟨.vxProgress, 31, 31⟩
def fVX_PROGRESS_PIDX : Field := ⟨.vxProgress, 19, 16⟩
def fVX_PROGRESS_CHUNK : Field := ⟨.vxProgress, 11, 0⟩
def fDM_STATUS_QCOUNT1 : Field := ⟨.dmStatus, 23, 20⟩
def fDM_STATUS_QCOUNT0 : Field := ⟨.dmStatus, 19, 16⟩
def fDM_STATUS_HELD : Field := ⟨.dmStatus, 11, 11⟩
def fDM_STATUS_HALT1 : Field := ⟨.dmStatus, 10, 10⟩
def fDM_STATUS_HALT0 : Field := ⟨.dmStatus, 9, 9⟩
def fDM_STATUS_BUSY1 : Field := ⟨.dmStatus, 8, 8⟩
def fDM_STATUS_BUSY0 : Field := ⟨.dmStatus, 7, 7⟩
def fDM_STATUS_KVZERO : Field := ⟨.dmStatus, 3, 3⟩
def fDM_STATUS_QREFUSED : Field := ⟨.dmStatus, 2, 2⟩
def fDM_CTRL_RESUME1 : Field := ⟨.dmCtrl, 3, 3⟩
def fDM_CTRL_RESUME0 : Field := ⟨.dmCtrl, 2, 2⟩
def fDM_CTRL_ABANDON1 : Field := ⟨.dmCtrl, 1, 1⟩
def fDM_CTRL_ABANDON0 : Field := ⟨.dmCtrl, 0, 0⟩
def fDM_TIMEOUT_US : Field := ⟨.dmTimeout, 19, 0⟩
def fDM_CH_PROG_XOFF : Field := ⟨.dmChProg, 31, 16⟩
def fDM_CH_PROG_Y : Field := ⟨.dmChProg, 15, 8⟩
def fDM_CH_PROG_Z : Field := ⟨.dmChProg, 7, 0⟩
def fDM_CH_PROGX_VALID : Field := ⟨.dmChProgx, 31, 31⟩
def fDM_CH_PROGX_DIDX : Field := ⟨.dmChProgx, 19, 16⟩
def fDM_CH_ERR_VALID : Field := ⟨.dmChErr, 31, 31⟩
def fDM_CH_ERR_CAUSE : Field := ⟨.dmChErr, 30, 27⟩
def fDM_CH_ERR_DIDX : Field := ⟨.dmChErr, 26, 23⟩
def fDM_CH_ERR_REASON : Field := ⟨.dmChErr, 3, 0⟩
def fDM_CH_ERRADDR_LO_ADDR_LO : Field := ⟨.dmChErraddrLo, 31, 0⟩
def fDM_CH_ERRADDR_HI_DEV : Field := ⟨.dmChErraddrHi, 31, 16⟩
def fDM_CH_ERRADDR_HI_ADDR_HI : Field := ⟨.dmChErraddrHi, 15, 0⟩

end Sys2Proof.Machine
end

