-- ==== Sys2Proof/Machine/RegFile.lean ====
section
/-! DEFINITION. Reading and writing the stored bits of registers, and the accessors of the units.
What software sees and does is in Machine/RegAccess.lean; these are the hardware's own accesses. -/

namespace Sys2Proof.Machine

/-- The byte offset in the register region of copy n of a register of unit u (R460). -/
def regKey (r : RegId) (u n : Nat) : Nat :=
  let p := regPlace r
  p.blk * 0x1000000 + p.base + u * p.uStep + n * p.nStep

/-- Registers with a field whose After reset column reads N: its value is loaded from the negative (R6). -/
def RegId.fromNegative (r : RegId) : Bool :=
  match r with
  | .rsSlcfg | .rsRetcfg | .pwMargin | .pwRamp | .pwDens | .pwLearn | .pwTherm | .cxCfg | .cxGather | .cxSync
  | .cxRelinc | .cxMaprt | .cxSlotmapLo | .cxSlotmapHi | .cxSlotinLo | .cxSlotinHi | .cxSlotoutLo | .cxSlotoutHi
  | .cxRingbaseLo | .cxRingbaseHi | .cxFwd | .syCntAttr | .syXlat | .syBarCfg | .syBarInc | .syBarExp | .syBarRoot
  | .syBarBox | .msCtrl | .msStallLimit | .drCtrl | .drScrubper | .drLanethr | .olId | .olCoord | .olTimers | .olCtrl
  | .olRt | .olLinkState | .olLinkPeer | .pxPctl | .pxHlost | .pxFnD4baseLo | .pxFnD4baseHi | .pxFnD4len | .xcVlvl
  | .xcTslimLo | .xcTslimHi | .xcDevroute | .spTimeout | .spApRect | .spApShape | .spApSrc | .spApReq | .spApCtrl
  | .dmTimeout => true
  | _ => false

/-- The value after reset (R6). -/
def regReset (r : RegId) : Nat := (regFields r).foldl (fun x f => setBits x f.hi f.lo f.rst) 0

/-- The stored value of a register. -/
def State.reg (s : State) (r : RegId) (u n : Nat) : Nat :=
  (get (BitVec.ofNat 32 (regReset r)) s.regs (regKey r u n)).toNat

/-- Stores a value into a register. -/
def State.setReg (s : State) (r : RegId) (u n v : Nat) : State :=
  { s with regs := put (BitVec.ofNat 32 (regReset r)) s.regs (regKey r u n) (BitVec.ofNat 32 v) }

/-- The stored value of a field. -/
def State.fld (s : State) (f : Field) (u : Nat := 0) (n : Nat := 0) : Nat :=
  bits (s.reg f.reg u n) f.hi f.lo

/-- Whether a one-bit field is set. -/
def State.flag (s : State) (f : Field) (u : Nat := 0) (n : Nat := 0) : Bool := s.fld f u n = 1

/-- Stores a value into a field. -/
def State.setFld (s : State) (f : Field) (v : Nat) (u : Nat := 0) (n : Nat := 0) : State :=
  s.setReg f.reg u n (setBits (s.reg f.reg u n) f.hi f.lo v)

/-- Sets a one-bit field. -/
def State.setFlag (s : State) (f : Field) (v : Bool) (u : Nat := 0) (n : Nat := 0) : State :=
  s.setFld f (if v then 1 else 0) u n

/-- Counts in a field, which stops at its largest value. -/
def State.count (s : State) (f : Field) (u : Nat := 0) (n : Nat := 0) (d : Nat := 1) : State :=
  s.setFld f (satAdd (f.hi + 1 - f.lo) (s.fld f u n) d) u n

/-- An address held in a pair of registers, low part first. -/
def State.pairAddr (s : State) (lo hi : RegId) (u : Nat := 0) (n : Nat := 0) : Nat :=
  s.reg lo u n + s.reg hi u n % 0x10000 * 0x100000000

/-! ### The units -/

def State.core (s : State) (c : Nat) : Core := get {} s.cores c
def State.setCore (s : State) (c : Nat) (v : Core) : State := { s with cores := put {} s.cores c v }
def State.modCore (s : State) (c : Nat) (f : Core → Core) : State := s.setCore c (f (s.core c))

def State.mxOf (s : State) (k : Nat) : Mx := get {} s.mx k
def State.setMx (s : State) (k : Nat) (v : Mx) : State := { s with mx := put {} s.mx k v }
def State.modMx (s : State) (k : Nat) (f : Mx → Mx) : State := s.setMx k (f (s.mxOf k))

def State.vxOf (s : State) (k : Nat) : Vx := get {} s.vx k
def State.setVx (s : State) (k : Nat) (v : Vx) : State := { s with vx := put {} s.vx k v }
def State.modVx (s : State) (k : Nat) (f : Vx → Vx) : State := s.setVx k (f (s.vxOf k))

def State.spOf (s : State) (k : Nat) : Sp := get {} s.sp k
def State.setSp (s : State) (k : Nat) (v : Sp) : State := { s with sp := put {} s.sp k v }
def State.modSp (s : State) (k : Nat) (f : Sp → Sp) : State := s.setSp k (f (s.spOf k))

def State.dmOf (s : State) (k : Nat) : Dm := get {} s.dm k
def State.setDm (s : State) (k : Nat) (v : Dm) : State := { s with dm := put {} s.dm k v }
def State.modDm (s : State) (k : Nat) (f : Dm → Dm) : State := s.setDm k (f (s.dmOf k))

def State.chan (s : State) (k ch : Nat) : Chan := get {} (s.dmOf k).chans ch
def State.setChan (s : State) (k ch : Nat) (v : Chan) : State :=
  s.modDm k fun d => { d with chans := put {} d.chans ch v }
def State.modChan (s : State) (k ch : Nat) (f : Chan → Chan) : State := s.setChan k ch (f (s.chan k ch))

def State.ap (s : State) (k n : Nat) : Aperture := get {} (s.spOf k).aps n
def State.setAp (s : State) (k n : Nat) (v : Aperture) : State :=
  s.modSp k fun p => { p with aps := put {} p.aps n v }

def State.slice (s : State) (n : Nat) : Slice := get {} s.slices n
def State.setSlice (s : State) (n : Nat) (v : Slice) : State := { s with slices := put {} s.slices n v }
def State.modSlice (s : State) (n : Nat) (f : Slice → Slice) : State := s.setSlice n (f (s.slice n))

def State.ctxRec (s : State) (x : Nat) : CtxRec := get {} s.ctx x
def State.setRec (s : State) (x : Nat) (v : CtxRec) : State := { s with ctx := put {} s.ctx x v }
def State.modRec (s : State) (x : Nat) (f : CtxRec → CtxRec) : State := s.setRec x (f (s.ctxRec x))

def State.ctr (s : State) (p : Nat) : Counter := get {} s.sync.counters p
def State.setCtr (s : State) (p : Nat) (v : Counter) : State :=
  { s with sync := { s.sync with counters := put {} s.sync.counters p v } }

def State.bar (s : State) (b : Nat) : Barrier := get {} s.sync.bars b
def State.setBar (s : State) (b : Nat) (v : Barrier) : State :=
  { s with sync := { s.sync with bars := put {} s.sync.bars b v } }

def State.port (s : State) (m : Nat) : OPort := get {} s.ol.ports m
def State.setPort (s : State) (m : Nat) (v : OPort) : State :=
  { s with ol := { s.ol with ports := put {} s.ol.ports m v } }
def State.modPort (s : State) (m : Nat) (f : OPort → OPort) : State := s.setPort m (f (s.port m))

def State.link (s : State) (k : Nat) : OLink := get {} s.ol.links k
def State.setLink (s : State) (k : Nat) (v : OLink) : State :=
  { s with ol := { s.ol with links := put {} s.ol.links k v } }
def State.modLink (s : State) (k : Nat) (f : OLink → OLink) : State := s.setLink k (f (s.link k))

/-- A host port by number: A is 0, B is 1. -/
def portNum : HostPort → Nat
  | .A => 0
  | .B => 1

def State.pxOf (s : State) (p : Nat) : PxPort := get {} s.px p
def State.setPx (s : State) (p : Nat) (v : PxPort) : State := { s with px := put {} s.px p v }
def State.modPx (s : State) (p : Nat) (f : PxPort → PxPort) : State := s.setPx p (f (s.pxOf p))

/-- What the block sends out. -/
def State.emit (s : State) (e : Emission) : State := { s with out := e :: s.out }

end Sys2Proof.Machine
end

