-- ==== Sys2Proof/Machine/Operands.lean ====
section
/-! DEFINITION. The operand forms of Jexvik-16: general registers, pairs, quads, address registers, LK and the
special registers (R214–R216, R222). -/

namespace Sys2Proof.Machine

/-! ### General registers, pairs and quads (R216) -/

/-- General register n. -/
def Core.gr (x : Core) (n : Nat) : Nat := (get 0 x.g n).toNat

/-- Sets general register n. -/
def Core.setGr (x : Core) (n v : Nat) : Core := { x with g := put 0 x.g n (BitVec.ofNat 16 v) }

/-- The value in w words from general register n, least significant first: a pair for 2, a quad for 4. -/
def Core.grs (x : Core) : Nat → Nat → Nat
  | _, 0 => 0
  | n, w + 1 => x.gr n + 0x10000 * x.grs (n + 1) w

/-- Sets w words from general register n. -/
def Core.setGrs (x : Core) : Nat → Nat → Nat → Core
  | _, 0, _ => x
  | n, w + 1, v => (x.setGr n (v % 0x10000)).setGrs (n + 1) w (v / 0x10000)

/-- The n words from general register g, as command words. -/
def Core.grWords (x : Core) (g n : Nat) : List Half := (span g n).map fun i => get 0 x.g i

/-! ### Address registers (R214) -/

/-- Address register n. -/
def Core.ar (x : Core) (n : Nat) : Addr := get 0 x.a n

/-- Sets address register n. -/
def Core.setAr (x : Core) (n : Nat) (v : Addr) : Core := { x with a := put 0 x.a n v }

/-- The register that D names with SIZE 3: a0–a7, or LK for 8 (R226). -/
def Core.arOrLk (x : Core) (d : Nat) : Addr := if d = 8 then x.lk else x.ar d

/-- Sets the register that D names with SIZE 3. -/
def Core.setArOrLk (x : Core) (d : Nat) (v : Addr) : Core := if d = 8 then { x with lk := v } else x.setAr d v

/-! ### ST, PC -/

/-- The flags of a core. -/
def Core.flags (x : Core) : Nzcv := Nzcv.of x.st

/-- Sets the flags of a core. -/
def Core.setFlags (x : Core) (f : Nzcv) : Core := { x with st := f.into x.st }

/-- Advances PC past an instruction of n words. -/
def Core.next (x : Core) (n : Nat) : Core := { x with pc := x.pc + BitVec.ofNat 48 n }

/-- A sign-extended number as a 48-bit address. -/
def sext (n x : Nat) : Addr := BitVec.ofInt 48 (signedOf n x)

/-- An ST word with its RING and MASK replaced. -/
def stWith (st : Half) (ring mask : Nat) : Half := BitVec.ofNat 16 (ring % 4 * 0x4000 + mask % 8 * 0x800 + st.toNat % 16)

/-! ### Special registers (R215, R222) -/

/-- The special registers. -/
inductive Spr where
  | st | lk | pc | wres | coreid | devid | vbase | tsr | gtbase | ttbase | syncctx
  deriving DecidableEq, Repr

/-- The special register of an SPR number; none when it is unassigned. -/
def sprOf (n : Nat) : Option Spr :=
  match n with
  | 0x00 => some .st
  | 0x01 => some .lk
  | 0x02 => some .pc
  | 0x03 => some .wres
  | 0x04 => some .coreid
  | 0x05 => some .devid
  | 0x08 => some .vbase
  | 0x09 => some .tsr
  | 0x0A => some .gtbase
  | 0x0B => some .ttbase
  | 0x0C => some .syncctx
  | _ => none

/-- Whether a special register is 48 bits wide. -/
def Spr.wide : Spr → Bool
  | .lk => true | .pc => true | .vbase => true | .tsr => true | .gtbase => true | .ttbase => true
  | .st => false | .wres => false | .coreid => false | .devid => false | .syncctx => false

/-- Whether only ring 0 reaches it. -/
def Spr.ring0 : Spr → Bool
  | .vbase => true | .tsr => true | .gtbase => true | .ttbase => true | .syncctx => true
  | .st => false | .lk => false | .pc => false | .wres => false | .coreid => false | .devid => false

/-- Whether no MTS may write it. -/
def Spr.readOnly : Spr → Bool
  | .pc => true | .wres => true | .coreid => true | .devid => true
  | .st => false | .lk => false | .vbase => false | .tsr => false | .gtbase => false | .ttbase => false
  | .syncctx => false

/-- What MFS reads of a special register of core c on a device. -/
def Core.readSpr (x : Core) (c : Nat) (dev : Half) : Spr → Nat
  | .st => x.st.toNat
  | .lk => x.lk.toNat
  | .pc => x.pc.toNat
  | .wres => x.wres.toNat
  | .coreid => c
  | .devid => dev.toNat
  | .vbase => x.vbase.toNat
  | .tsr => x.tsr.toNat
  | .gtbase => x.gtbase.toNat
  | .ttbase => x.ttbase.toNat
  | .syncctx => x.syncctx.toNat

/-- An address whose low n bits read 0. -/
def clearLow (n v : Nat) : Addr := BitVec.ofNat 48 (v / 2 ^ n * 2 ^ n)

/-- What MTS writes: ST under R215, the low bits that R242, R246 and R253 fix, and the TLB at a write of TTBASE
(R257). -/
def Core.writeSpr (x : Core) (v : Nat) : Spr → Core
  | .st =>
    let mask := if bits x.st.toNat 15 14 = 0 then bits v 13 11 else bits x.st.toNat 13 11
    { x with st := stWith (BitVec.ofNat 16 v) (bits x.st.toNat 15 14) mask }
  | .lk => { x with lk := BitVec.ofNat 48 v }
  | .vbase => { x with vbase := clearLow 8 v }
  | .tsr => { x with tsr := clearLow 6 v }
  | .gtbase => { x with gtbase := BitVec.ofNat 48 v }
  | .ttbase => { x with ttbase := clearLow 15 v, tlb := [] }
  | .syncctx => { x with syncctx := BitVec.ofNat 16 v &&& 0x8FFF }
  | .pc => x
  | .wres => x
  | .coreid => x
  | .devid => x

end Sys2Proof.Machine
end

