-- ==== Sys2Proof/Config.lean ====
section
/-! DEFINITION. What the spec leaves open, as constants without a body: free values, drawn with the
counter State.freeCount, and what the device holds that the spec does not name. No proof can see their values
(notes/assumptions/6.md, 7.md). -/

namespace Sys2Proof.Config

/-- A free 16-bit word. -/
opaque freeHalf : Nat → Half
/-- A free byte. -/
opaque freeByte : Nat → Byte
/-- A free address. -/
opaque freeAddr : Nat → Addr
/-- A free choice. -/
opaque freeBool : Nat → Bool
/-- A free number. -/
opaque freeNat : Nat → Nat

/-- The key digest of the vendor root key in die ROM (R380). -/
opaque vendorRoot : List Byte

/-- The order in which the words of the inner code take the stored bits of a pair of units (R311). -/
opaque innerOrder : Nat → Nat

/-- Ifesen's PCI-SIG vendor identifier (R361, R423). -/
opaque vendorId : Nat
/-- The version entries that Get MCTP Version Support returns (R422, DSP0236). -/
opaque mctpVersions : List Nat

/-- The payload of a control flit that names a width and a block boundary, and what a received payload names: the spec
gives a control flit no layout (R327, notes/assumptions/121.md). -/
opaque controlPayload : Nat → Nat → List Byte
opaque controlNames : List Byte → Option (Nat × Nat)

/-- An effect that a reserved opcode may have: one that some instruction of its ring could have, or at ring 0 a
change of a register of its own core (R219). -/
inductive ReservedEffect where
  | general (n : BitVec 4) (v : Half)
  | address (n : BitVec 3) (v : Addr)
  | link (v : Addr)
  | flags (v : BitVec 4)
  | waitResult (v : Half)
  | special (spr : BitVec 8) (v : Addr)
  | store (va : Addr) (words : List Half)
  | push (eng : Engine) (words : List Half)
  | signal (glb : Bool) (ident : BitVec 10) (amount : BitVec 24)
  deriving DecidableEq, Repr

/-- The effects of the executions of reserved opcodes, whose results R219 leaves undefined (notes/assumptions/8.md). -/
opaque reservedEffects : Nat → List ReservedEffect

end Sys2Proof.Config
end

