-- ==== Sys2Proof/Machine/Codes.lean ====
section
/-! DEFINITION. Reed–Solomon codes over the fields GF(2^m): the outer code of a DRAM unit (R310) and the code of an
optical block (R326). Symbols are numbers below 2^m; a code word is a list, its highest power first. -/

namespace Sys2Proof.Machine

/-! ### Fields -/

/-- A field GF(2^m), whose primitive element is 2: the width of a symbol and the field polynomial. -/
structure GField where
  m    : Nat
  poly : Nat
  deriving DecidableEq, Repr

/-- A symbol times the primitive element. -/
def GField.twice (f : GField) (a : Nat) : Nat := 2 * a ^^^ f.poly * (2 * a / 2 ^ f.m)

/-- The product of two symbols: the second one's bits, the highest first. -/
def GField.mul (f : GField) (a b : Nat) : Nat :=
  f.m.rec 0 fun k v => f.twice v ^^^ b / 2 ^ (f.m - 1 - k) % 2 * a

/-- A symbol to a power. -/
def GField.pow (f : GField) (a n : Nat) : Nat := n.rec 1 fun _ v => f.mul v a

/-- The inverse of a symbol other than 0: its power 2^m − 2, square by square. -/
def GField.inv (f : GField) (a : Nat) : Nat :=
  let v := (List.range (f.m - 1)).foldl (fun v _ => f.mul (f.mul v v) a) 1
  f.mul v v

/-- The powers of the primitive element from the 0th on. -/
def GField.powers (f : GField) (n : Nat) : List Nat :=
  ((List.range n).foldl (fun (p : List Nat × Nat) _ => (p.1 ++ [p.2], f.twice p.2)) ([], 1)).1

/-! ### Polynomials, lowest power first -/

/-- The sum of two polynomials. -/
def polyAdd : List Nat → List Nat → List Nat
  | [], b => b
  | a, [] => a
  | x :: a, y :: b => (x ^^^ y) :: polyAdd a b

/-- A polynomial times a symbol. -/
def GField.scale (f : GField) (c : Nat) (a : List Nat) : List Nat := a.map (f.mul c)

/-- The product of two polynomials. -/
def GField.polyMul (f : GField) (a b : List Nat) : List Nat :=
  a.foldr (fun c r => polyAdd (f.scale c b) (0 :: r)) []

/-- The value of a polynomial at a symbol. -/
def GField.eval (f : GField) (a : List Nat) (x : Nat) : Nat := a.foldr (fun c v => f.mul v x ^^^ c) 0

/-- A polynomial without its highest zeros. -/
def polyTrim (a : List Nat) : List Nat := (a.reverse.dropWhile (· == 0)).reverse

/-- The odd coefficients of a polynomial at their places less one: its formal derivative. -/
def polyDeriv : List Nat → List Nat
  | _ :: b :: rest => b :: 0 :: polyDeriv rest
  | _ => []

/-- Remainder and quotient of a division by a polynomial without highest zeros, other than the zero one. -/
def GField.divMod (f : GField) (b : List Nat) : Nat → List Nat → List Nat → List Nat × List Nat
  | 0, a, q => (a, q)
  | n + 1, a, q =>
    let a := polyTrim a
    if a.length < b.length then (a, q)
    else
      let c := f.mul (a.getLastD 0) (f.inv (b.getLastD 1))
      let shift (p : List Nat) : List Nat := List.replicate (a.length - b.length) 0 ++ p
      GField.divMod f b n (polyAdd a (shift (f.scale c b))) (polyAdd q (shift [c]))

/-! ### The code with nk check symbols and the roots α⁰ to α^(nk − 1) -/

/-- The generator, its highest power first and that coefficient left out. -/
def GField.generator (f : GField) (nk : Nat) : List Nat :=
  (((f.powers nk).foldl (fun g a => polyAdd (g ++ [0]) (0 :: f.scale a g)) [1])).tail

/-- The check symbols of a message: the remainder of its polynomial times x^nk. -/
def GField.check (f : GField) (nk : Nat) (msg : List Nat) : List Nat :=
  let g := f.generator nk
  msg.foldl (fun r d => polyAdd (r.tail ++ [0]) (f.scale (d ^^^ r.headD 0) g)) (List.replicate nk 0)

/-- The syndromes of a word: its values at the roots. -/
def GField.syndromes (f : GField) (nk : Nat) (word : List Nat) : List Nat :=
  (f.powers nk).map (f.eval word.reverse)

/-- The locator polynomial of places whose locators are given. -/
def GField.locator (f : GField) (l : List Nat) : List Nat := l.foldl (fun g a => polyAdd g (0 :: f.scale a g)) [1]

/-- Euclid's steps from (r0, v0) and (r1, v1) down to a remainder of fewer than k coefficients. -/
def GField.euclid (f : GField) (k : Nat) : Nat → List Nat → List Nat → List Nat → List Nat → List Nat × List Nat
  | 0, _, r1, _, v1 => (r1, v1)
  | n + 1, r0, r1, v0, v1 =>
    let r1 := polyTrim r1
    if r1.length ≤ k then (r1, v1)
    else
      let (r, q) := f.divMod r1 (r0.length + 1) r0 []
      GField.euclid f k n r1 r v1 (polyAdd v0 (f.polyMul q v1))

/-- The errors that the decoder finds in a word of n symbols, by place, for known erasures: of every pattern of e errors
and f erasures with 2e + f ≤ nk the one with these syndromes, or none. -/
def GField.errorsOf (f : GField) (nk n : Nat) (syn : List Nat) (erased : List Nat) : Option (List (Nat × Nat)) :=
  let powers := f.powers n
  let locOf (p : Nat) : Nat := powers.getD (n - 1 - p) 0
  let gamma := f.locator (erased.map locOf)
  let xi := polyTrim ((f.polyMul syn gamma).take nk)
  let (omega, v) := f.euclid ((nk + erased.length) / 2) (nk + 1) (List.replicate nk 0 ++ [1]) xi [] [1]
  let lambda := polyTrim (f.polyMul v gamma)
  let slope := polyDeriv lambda
  let found := (List.range n).filterMap fun p =>
    let x := locOf p
    let y := f.inv x
    if f.eval lambda y = 0 then some (p, f.mul x (f.mul (f.eval omega y) (f.inv (f.eval slope y)))) else none
  let errors := (found.filter fun q => !erased.contains q.1).length
  let back := (f.powers nk).map fun a =>
    found.foldl (fun t q => t ^^^ f.mul q.2 (f.pow a (n - 1 - q.1))) 0
  if found.length + 1 = lambda.length ∧ 2 * errors + erased.length ≤ nk ∧ back = syn then
    some (found.filter (·.2 != 0))
  else none

/-- A word as the decoder corrects it, and how many symbols it corrected; none when it cannot. -/
def GField.decode (f : GField) (nk : Nat) (word erased : List Nat) : Option (List Nat × Nat) :=
  let syn := f.syndromes nk word
  if syn.all (· == 0) then some (word, 0)
  else (f.errorsOf nk word.length syn erased).map fun l =>
    (l.foldl (fun w q => w.set q.1 (w.getD q.1 0 ^^^ q.2)) word, l.length)

/-- The field of the outer code (R310): x⁸ + x⁴ + x³ + x² + 1. -/
def outerField : GField := ⟨8, 0x11D⟩

/-- The field of an optical block's code (R326): x¹⁰ + x³ + 1. -/
def blockField : GField := ⟨10, 0x409⟩

end Sys2Proof.Machine
end

