-- ==== Sys2Proof/Machine/Base.lean ====
section
/-! DEFINITION. Events of cores, free values, and the homes of DRAM and supervisor SRAM. -/

namespace Sys2Proof.Machine

/-- What a home answers: a value, an access error with its cause (R252), or a wait. -/
inductive Reply (α : Type) where
  | ok (v : α)
  | err (cause : Nat)
  | wait
  deriving DecidableEq, Repr

/-! ### Free values -/

/-- A free byte, and the counter advanced. -/
def State.drawByte (s : State) : Byte × State :=
  (Config.freeByte s.freeCount, { s with freeCount := s.freeCount + 1 })

/-- n free bytes. -/
def State.drawBytes (s : State) (n : Nat) : List Byte × State :=
  ((span s.freeCount n).map Config.freeByte, { s with freeCount := s.freeCount + n })

/-- A free number. -/
def State.drawNat (s : State) : Nat × State :=
  (Config.freeNat s.freeCount, { s with freeCount := s.freeCount + 1 })

/-! ### Events -/

/-- Adds an asynchronous event to a core; one of the same vector and source merges into the earlier
one (R243, R252). -/
def State.raise (s : State) (c vec src cause : Nat) (fa : Addr := 0) : State :=
  s.modCore c fun x =>
    if x.pend.any fun e => e.vec == vec && e.src == src then x
    else { x with pend := x.pend ++ [⟨vec, src, cause, fa⟩] }

/-- Raises device event k on every supervisor core that XC_DEVROUTEk names (R258). -/
def State.deviceEvent (s : State) (k : Nat) : State :=
  (List.range 8).foldl (fun t j =>
    if bit (s.reg .xcDevroute 0 k) j then t.raise (768 + j) (16 + k) 9 k else t) s

/-- Puts a transaction of this device into the hub, with the parity of the epoch it is sent in (R333, R354). -/
def State.toHub (s : State) (m : Msg) : State :=
  { s with ol := { s.ol with hub := s.ol.hub ++ [{ m with ep := s.ol.epoch % 2 == 1, xb := false, from_ := 8, hop := 0 }] } }

/-- The level of a vector (R243). -/
def State.level_ (s : State) (c v : Nat) : Nat :=
  bits (s.reg .xcVlvl c (v / 8)) (4 * (v % 8) + 2) (4 * (v % 8))

/-- The number of a requester (R113): cores by number; others have none and read 1,023. -/
def reqNum : Requester → Nat
  | .core c => c
  | .device _ r => r.toNat
  | _ => 1023

/-- The ring of a core (R215). -/
def Core.ring (x : Core) : Nat := bits x.st.toNat 15 14

/-- The mask level of a core (R215). -/
def Core.mask (x : Core) : Nat := bits x.st.toNat 13 11

/-! ### Stacked DRAM -/

/-- The xor of the 6-bit fields of a number (R307), for numbers below 2^42. -/
def fold6 (h : Nat) : Nat := (List.range 7).foldl (fun f i => f ^^^ (h / 64 ^ i % 64)) 0

/-- The slice and the slice-local byte of a DRAM address (dram_place, R307). -/
def dramPlace (a : Nat) : Nat × Nat :=
  let st := a / 256
  let hi := st / 64
  (64 * (hi % 3) + (st % 64 ^^^ fold6 hi), hi / 3 * 256 + a % 256)

/-- The DRAM address of the first byte of a unit of a slice: dram_place turned round (R307). -/
def dramAddress (sl u : Nat) : Nat :=
  let hi := 64 * u / 256 * 3 + sl / 64
  (hi * 64 + (sl % 64 ^^^ fold6 hi)) * 256 + 64 * u % 256

/-- Bytes of the DRAM (R10, R306). -/
def dramSize : Nat := 0x1800000000

/-- Units of a slice (R307, R308). -/
def unitsPerSlice : Nat := 0x800000

/-- Where slice-local byte b lies (R308): its layer, bank, column stripe and row. -/
def byteLayer (b : Nat) : Nat := bits b 9 8
def byteBank (b : Nat) : Nat := bits b 13 10
def byteStripe (b : Nat) : Nat := bits b 18 14
def byteRow (b : Nat) : Nat := bits b 28 19

/-- The outer-code symbol that a lane carries in a transfer (R309): 0 to 63 are data bytes, 64 to 71 check bytes. -/
def laneSymbol (lane t : Nat) : Nat :=
  if lane < 256 then lane / 8 + 32 * t else 64 + (lane - 256) / 8 + 4 * t

/-- The lane that carries a bit of a symbol (R309). -/
def symbolLane (c i : Nat) : Nat := if c < 64 then 8 * (c % 32) + i else 256 + 8 * (c % 4) + i

/-- The lanes recorded as erasures of a slice (R315). -/
def State.erasedLanes (s : State) (sl : Nat) : List Nat :=
  (List.range 4).filterMap fun i =>
    let w := s.reg .drErase sl (i / 2)
    let h := if i % 2 = 0 then bits w 15 0 else bits w 31 16
    if bit h 15 then some (h % 512) else none

/-- Counts an outer correction on a lane, and records the lane when LANEAUTO asks for it: more than COUNT of them
within one second (R315). -/
def State.countLane (s : State) (sl lane : Nat) : State :=
  let x := s.slice sl
  let times := ((get [] x.laneHits lane).filter fun t => decide (s.clock < t + 1000000)) ++ [s.clock]
  let s := s.setSlice sl { x with laneHits := put [] x.laneHits lane times }
  let used := (s.erasedLanes sl).length
  if s.flag fDR_CTRL_LANEAUTO ∧ used < 4 ∧ s.fld fDR_LANETHR_COUNT < times.length
      ∧ lane ∉ s.erasedLanes sl then
    let w := s.reg .drErase sl (used / 2)
    let w' := if used % 2 = 0 then setBits w 15 0 (0x8000 + lane) else setBits w 31 16 (0x8000 + lane)
    let s := s.setReg .drErase sl (used / 2) w'
    let s := s.setFld fDR_SSTATUS_NERASE (used + 1) sl
    let s := s.setFld fDR_EVSTAT_SLICE sl
    (s.setFlag fDR_EVSTAT_LANEADD true).deviceEvent 1
  else s

/-- How a read of a unit ends (R312): what the returned bytes differ in from those last written, by data byte, or none
when it is uncorrectable; and whether an inner and an outer correction was made. -/
structure UnitRead where
  off   : Option (List (Nat × Nat))
  inner : Bool
  outer : Bool
  deriving DecidableEq, Repr

/-- The place of a stored bit of a pair of units in the order in which the inner code takes them (R311). -/
def innerRank (b : Nat) : Nat :=
  ((List.range 1152).filter fun c => decide (Config.innerOrder c < Config.innerOrder b) ||
    (Config.innerOrder c == Config.innerOrder b && decide (c < b))).length

/-- The word of the inner code that a stored bit of a unit belongs to: its pair of units is 9 words of 128 bits each
(R311). -/
def innerWord (u b : Nat) : Nat := innerRank (u % 2 * 576 + b) / 128

/-- The wrong stored bits of a unit that its layer corrects: those alone in their word of the pair (R311). -/
def State.innerFixed (s : State) (sl u : Nat) : List Nat :=
  let err (v : Nat) : List Nat := (get {} (s.slice sl).err v).cells
  let words := (err u).map (innerWord u) ++ (err (u ^^^ 1)).map (innerWord (u ^^^ 1))
  (err u).filter fun b => words.count (innerWord u b) == 1

/-- The errors of the symbols that reach the slice controller, by symbol (R309). -/
def symbolErrors (cells : List Nat) (lanes : List (Nat × Nat)) : List (Nat × Nat) :=
  let wrong := cells.map (fun b => (b / 8, b % 8)) ++ lanes.map fun l => (laneSymbol l.1 l.2, l.1 % 8)
  if wrong.isEmpty then [] else (List.range 72).filterMap fun c =>
    let v := (wrong.filter (·.1 == c)).foldl (fun v w => v ^^^ 2 ^ w.2) 0
    if v = 0 then none else some (c, v)

/-- What the outer code's decoder makes of the errors of a unit (R310): the corrections it makes, by symbol. -/
def outerDecode (errs : List (Nat × Nat)) (erased : List Nat) : Option (List (Nat × Nat)) :=
  if errs = [] then some []
  else
    let word := (List.range 72).map fun c => ((errs.find? (·.1 == c)).map (·.2)).getD 0
    outerField.errorsOf 8 72 (outerField.syndromes 8 word) erased

/-- The bits that a slice's faulty lanes carry wrongly in one unit: a fault touches every unit, and which of the lane's two
bits it turns is free (R309). -/
def State.laneErrors (s : State) (sl : Nat) : List (Nat × Nat) × State :=
  (s.slice sl).badLanes.foldl (fun acc l =>
    let n := acc.2.freeCount
    (acc.1 ++ (if Config.freeBool n then [(l, 0)] else []) ++ (if Config.freeBool (n + 1) then [(l, 1)] else []),
      { acc.2 with freeCount := n + 2 })) ([], s)

/-- Reads one unit of a slice: the inner code, the outer code, and what is counted (R309–R312). -/
def State.readUnit (s : State) (sl u : Nat) : UnitRead × State :=
  let x := s.slice sl
  let (bad, s) := s.laneErrors sl
  let e := get {} x.err u
  let fixed := s.innerFixed sl u
  let known := ((s.erasedLanes sl).flatMap fun l => [laneSymbol l 0, laneSymbol l 1]).eraseDups
  let errs := symbolErrors (e.cells.filter (!fixed.contains ·))
    (e.lanes.filter (fun l => !x.badLanes.contains l.1) ++ bad)
  let layer := [fDR_INNER_L0, fDR_INNER_L1, fDR_INNER_L2, fDR_INNER_L3].getD (byteLayer (64 * u)) fDR_INNER_L0
  let s := if fixed = [] then s else s.count layer sl 0 fixed.length
  match (if get false x.poisoned u then none else outerDecode errs known) with
  | none =>
    let s := s.count fDR_OUTER_UNCORR sl
    let s := s.setReg .drEloc sl 0 (0xC0000000 + u)
    let s := s.setFld fDR_EVSTAT_SLICE sl
    (⟨none, !fixed.isEmpty, false⟩, (s.setFlag fDR_EVSTAT_UNCORR true).deviceEvent 1)
  | some made =>
    let new := made.filter fun q => !known.contains q.1
    let off := (symbolErrors (errs.flatMap bitsOf ++ made.flatMap bitsOf) []).filter (·.1 < 64)
    if new = [] then (⟨some off, !fixed.isEmpty, false⟩, s)
    else
      let s := s.count fDR_OUTER_UNITS sl
      let s := s.setReg .drEloc sl 0 (0x80000000 + u)
      let lanes := new.flatMap fun q => ((List.range 8).filter (bit q.2)).map (symbolLane q.1)
      (⟨some off, !fixed.isEmpty, true⟩, lanes.eraseDups.foldl (fun t l => t.countLane sl l) s)
where
  /-- The bits of a symbol that an error changes. -/
  bitsOf (q : Nat × Nat) : List Nat := ((List.range 8).filter (bit q.2)).map (8 * q.1 + ·)

/-- The units that the bytes from a reach: the address of the first byte of each. -/
def unitsOf (a n : Nat) : List Nat :=
  if n = 0 then [] else (List.range ((a + n - 1) / 64 - a / 64 + 1)).map fun i => (a / 64 + i) * 64

/-- Puts what a read of the unit at address u returns in place of its bytes: a pattern beyond the code may decode to
wrong data (R312). -/
def State.dramMiscorrect (s : State) (u : Nat) (off : List (Nat × Nat)) : State :=
  off.foldl (fun t q =>
    { t with dram := putBytes 0 t.dram (u + q.1) [get 0 t.dram (u + q.1) ^^^ BitVec.ofNat 8 q.2] }) s

/-- Reads n bytes of DRAM, unit by unit; before level 2 an access waits at its slice (R247, R312, R395). -/
def State.dramRead (s : State) (a n : Nat) : Reply (List Byte) × State :=
  if s.level < 2 then (.wait, s)
  else
    let (got, s) := (unitsOf a n).foldl (fun (acc : Option (SMap Byte) × State) u =>
      let (sl, loc) := dramPlace u
      let (r, t) := acc.2.readUnit sl (loc / 64)
      (acc.1.bind fun m => r.off.map fun off => (({ t with dram := m }).dramMiscorrect u off).dram, t)) (some s.dram, s)
    (match got with | some m => .ok (getBytes 0 m a n) | none => .err 3, s)

/-- Marks a unit good: a whole-unit write, or a write of corrected data. -/
def State.cleanUnit (s : State) (sl u : Nat) : State :=
  s.modSlice sl fun x => { x with err := put {} x.err u {}, poisoned := put false x.poisoned u false }

/-- Marks a unit poisoned (R313). -/
def State.poisonUnit (s : State) (sl u : Nat) : State :=
  s.modSlice sl fun x => { x with err := put {} x.err u {}, poisoned := put false x.poisoned u true }

/-- A write that reaches a unit ends its merge window (R142). -/
def State.endWindow (s : State) (sl u : Nat) : State :=
  s.modSlice sl fun x => { x with merging := x.merging.filter (·.unit != u) }

/-- Writes the enabled bytes from a into DRAM, unit by unit (R142, R313). -/
def State.dramWrite (s : State) (a : Nat) (data : List Byte) (be : List Bool) : Reply Unit × State :=
  if s.level < 2 then (.wait, s)
  else
    let n := data.length
    let (bad, s) := (unitsOf a n).foldl (fun (acc : Bool × State) u =>
      let (sl, loc) := dramPlace u
      let whole := decide (a ≤ u ∧ u + 64 ≤ a + n) &&
        (List.range 64).all fun i => be.getD (u - a + i) false
      let touched := (List.range 64).any fun i => decide (a ≤ u + i) && be.getD (u + i - a) false
      let w := acc.2.endWindow sl (loc / 64)
      if !touched then (acc.1, w)
      else if whole then (acc.1, w.cleanUnit sl (loc / 64))
      else
        match w.readUnit sl (loc / 64) with
        | (⟨some off, _, _⟩, t) => (acc.1, (t.dramMiscorrect u off).cleanUnit sl (loc / 64))
        | (⟨none, _, _⟩, t) => (true, t.poisonUnit sl (loc / 64)))
      (false, s)
    let s := { s with dram := putEnabled 0 s.dram a data be }
    (if bad then .err 3 else .ok (), s)

/-! ### Supervisor SRAM -/

/-- Bytes of the supervisor SRAM (R237). -/
def sramSize : Nat := 0x800000

/-- Reads n bytes of SRAM (R237). -/
def State.sramRead (s : State) (o n : Nat) : Reply (List Byte) :=
  if (span o n).any fun i => get false s.sramBad (i / 4) then .err 3 else .ok (getBytes 0 s.sram o n)

/-- Writes the enabled bytes from o into SRAM, granule by granule (R237). -/
def State.sramWrite (s : State) (o : Nat) (data : List Byte) (be : List Bool) : Reply Unit × State :=
  let n := data.length
  let grans := if n = 0 then [] else span (o / 4) ((o + n - 1) / 4 - o / 4 + 1)
  let on (i : Nat) : Bool := decide (o ≤ i) && be.getD (i - o) false
  let (bad, s) := grans.foldl (fun (acc : Bool × State) g =>
    let t := acc.2
    let whole := (List.range 4).all fun i => on (4 * g + i)
    if !((List.range 4).any fun i => on (4 * g + i)) then acc
    else if !whole && get false t.sramBad g then (true, t)
    else
      let old := getBytes 0 t.sram (4 * g) 4
      let new := (List.range 4).map fun i => data.getD (4 * g + i - o) 0
      let mem := putBytes 0 t.sram (4 * g) (mergeBytes old new ((List.range 4).map fun i => on (4 * g + i)))
      (acc.1, { t with sram := mem, sramBad := put false t.sramBad g false })) (false, s)
  (if bad then .err 3 else .ok (), s)

end Sys2Proof.Machine
end

