-- ==== Sys2Proof/Machine/Numerics.lean ====
section
/-! DEFINITION. Number formats, the group dot product and the conversions (02_numerics.md). Values are
exact: a sign, an unbounded natural number and a power of two. Rounding happens in one function. -/

namespace Sys2Proof.Machine

/-- The number formats (R16). -/
inductive Fmt where
  | e4m3 | e5m2 | f16 | bf16 | f32 | i8 | i16 | i32 | i4 | f4
  deriving DecidableEq, Repr

/-- The classes of a value (R25). -/
inductive Cls where
  | zero | finite | inf | nan
  deriving DecidableEq, Repr

/-- A value: (−1)^s · n · 2^x when finite. -/
structure Num where
  cls : Cls
  neg : Bool := false
  n   : Nat := 0
  x   : Int := 0
  deriving DecidableEq, Repr

/-- Rounding modes, in code order (R32). -/
inductive Rounding where
  | nearest | towardZero | up | down
  deriving DecidableEq, Repr

/-- The format of a code; none for a reserved code (R16). -/
def fmtOfCode : Nat → Option Fmt
  | 0 => some .e4m3 | 1 => some .e5m2 | 2 => some .f16 | 3 => some .bf16 | 4 => some .f32
  | 5 => some .i8 | 6 => some .i16 | 7 => some .i32 | 8 => some .i4 | 9 => some .f4
  | _ => none

/-- The code of a format (R16). -/
def fmtCode : Fmt → Nat
  | .e4m3 => 0 | .e5m2 => 1 | .f16 => 2 | .bf16 => 3 | .f32 => 4
  | .i8 => 5 | .i16 => 6 | .i32 => 7 | .i4 => 8 | .f4 => 9

/-- Bits of an element (R16). -/
def fmtBits : Fmt → Nat
  | .e4m3 | .e5m2 | .i8 => 8
  | .f16 | .bf16 | .i16 => 16
  | .f32 | .i32 => 32
  | .i4 | .f4 => 4

/-- The integer formats. -/
def isInt : Fmt → Bool
  | .i8 | .i16 | .i32 | .i4 => true
  | _ => false

/-- Exponent width, fraction width and bias (R16, R25). -/
def fmtParams : Fmt → Nat × Nat × Nat
  | .e4m3 => (4, 3, 7)
  | .e5m2 => (5, 2, 15)
  | .f16 => (5, 10, 15)
  | .bf16 => (8, 7, 127)
  | .f4 => (2, 1, 1)
  | _ => (8, 23, 127)

def roundingOf : Nat → Rounding
  | 0 => .nearest
  | 1 => .towardZero
  | 2 => .up
  | _ => .down

/-- Bits in a number: 0 for 0. -/
def bitLength (n : Nat) : Nat := if n = 0 then 0 else Nat.log2 n + 1

/-- A significand of at most 11 bits brought to 1,024…2,047 (normalise of R25). -/
def normalise (neg : Bool) (v : Nat) (x : Int) : Num :=
  let k := 11 - bitLength v
  { cls := .finite, neg := neg, n := v * 2 ^ k, x := x - k }

/-- The exact value of a floating code, its significand as stored (R17). -/
def decodeExact (f : Fmt) (code : Nat) : Num :=
  let (ew, fw, bias) := fmtParams f
  let neg := code.testBit (ew + fw)
  let ef := bits code (ew + fw - 1) fw
  let fr := code % 2 ^ fw
  if f ≠ .f4 ∧ ef = 2 ^ ew - 1 then
    if fr = 0 then { cls := .inf, neg := neg } else { cls := .nan, neg := neg }
  else if ef = 0 then
    if fr = 0 then { cls := .zero, neg := neg }
    else { cls := .finite, neg := neg, n := fr, x := 1 - (bias : Int) - fw }
  else { cls := .finite, neg := neg, n := fr + 2 ^ fw, x := (ef : Int) - bias - fw }

/-- The exact value of an integer. -/
def numOfInt (v : Int) : Num :=
  if v = 0 then { cls := .zero } else { cls := .finite, neg := v < 0, n := v.natAbs, x := 0 }

/-- A matrix operand in the common internal form (R25). -/
def decodeOperand (f : Fmt) (code : Nat) : Num :=
  let v := if isInt f then numOfInt (signedOf (fmtBits f) code) else decodeExact f code
  if v.cls = .finite then normalise v.neg v.n v.x else v

/-! ### Rounding -/

/-- Precision, least and greatest exponent of a floating destination (R28). -/
def roundParams : Fmt → Nat × Int × Int
  | .f16 => (11, -14, 15)
  | .bf16 => (8, -126, 127)
  | .e4m3 => (4, -6, 7)
  | .e5m2 => (3, -14, 15)
  | _ => (24, -126, 127)

/-- The canonical NaN of a format (R21). -/
def canonNan : Fmt → Nat
  | .f16 => 0x7E00
  | .bf16 => 0x7FC0
  | .e4m3 => 0x7C
  | .e5m2 => 0x7E
  | _ => 0x7FC00000

/-- The sign bit of a code. -/
def signBit (f : Fmt) (neg : Bool) : Nat := if neg then 2 ^ (fmtBits f - 1) else 0

/-- An infinity of a format (R17). -/
def infCode (f : Fmt) (neg : Bool) : Nat :=
  let (ew, fw, _) := fmtParams f
  signBit f neg + (2 ^ ew - 1) * 2 ^ fw

/-- The largest finite value of a format (R16). -/
def maxCode (f : Fmt) (neg : Bool) : Nat :=
  let (ew, fw, _) := fmtParams f
  signBit f neg + (2 ^ ew - 1) * 2 ^ fw - 1

/-- The result of an overflow (R33). -/
def overflowCode (f : Fmt) (neg : Bool) : Rounding → Nat
  | .nearest => infCode f neg
  | .towardZero => maxCode f neg
  | .up => if neg then maxCode f neg else infCode f neg
  | .down => if neg then infCode f neg else maxCode f neg

/-- The integer part of n · 2^x in units of 2^q, rounded by the mode (the body of round_to_format). -/
def roundUnits (neg : Bool) (n : Nat) (x q : Int) (mode : Rounding) : Nat :=
  if q ≤ x then n * 2 ^ (x - q).toNat
  else
    let d := (q - x).toNat
    let r := n / 2 ^ d
    let rest := n % 2 ^ d
    let half := 2 ^ (d - 1)
    let inc := decide (0 < rest) &&
      ((mode == .nearest && (decide (half < rest) || (rest == half && r % 2 == 1)))
        || (mode == .up && !neg) || (mode == .down && neg))
    if inc then r + 1 else r

/-- Rounds an exact non-zero value into a floating format and encodes it (round_to_format of R28). -/
def roundCode (f : Fmt) (mode : Rounding) (neg : Bool) (n : Nat) (x : Int) : Nat :=
  let (p, emin, emax) := roundParams f
  let (_, fw, bias) := fmtParams f
  let e := x + bitLength n - 1
  let q0 := max e emin - (p - 1)
  let r0 := roundUnits neg n x q0 mode
  let carry := r0 = 2 ^ p
  let r := if carry then 2 ^ (p - 1) else r0
  let q := if carry then q0 + 1 else q0
  if r = 0 then signBit f neg
  else if emax < q + p - 1 then overflowCode f neg mode
  else if r < 2 ^ (p - 1) then signBit f neg + r
  else signBit f neg + (q + p - 1 + bias).toNat * 2 ^ fw + (r - 2 ^ (p - 1))

/-- The code of an exact value in a floating format (R21, R28). -/
def encodeNum (f : Fmt) (mode : Rounding) (v : Num) : Nat :=
  match v.cls with
  | .nan => canonNan f
  | .inf => infCode f v.neg
  | .zero => signBit f v.neg
  | .finite => roundCode f mode v.neg v.n v.x

/-! ### Exact arithmetic -/

/-- The signed integer of a finite value in units of 2^x0, x0 at most its exponent. -/
def unitsAt (v : Num) (x0 : Int) : Int :=
  let m : Int := v.n * 2 ^ (v.x - x0).toNat
  if v.neg then -m else m

/-- The exact sum of two finite or zero values, not both zero (exact_sum of R28). -/
def exactSum (a b : Num) : Num :=
  if a.cls = .zero then b
  else if b.cls = .zero then a
  else
    let x0 := min a.x b.x
    let t := unitsAt a x0 + unitsAt b x0
    if t = 0 then { cls := .zero } else { cls := .finite, neg := t < 0, n := t.natAbs, x := x0 }

/-- The sum of two values before rounding, by IEEE 754 (R24, and accumulate_f32 of R28). -/
def sumNum (a b : Num) : Num :=
  match a.cls, b.cls with
  | .nan, _ => { cls := .nan }
  | _, .nan => { cls := .nan }
  | .inf, .inf => if a.neg = b.neg then a else { cls := .nan }
  | .inf, _ => a
  | _, .inf => b
  | .zero, .zero => { cls := .zero, neg := a.neg && b.neg }
  | _, _ => exactSum a b

/-- The product of two values (product of R28). -/
def mulNum (a b : Num) : Num :=
  let neg := a.neg != b.neg
  match a.cls, b.cls with
  | .nan, _ => { cls := .nan }
  | _, .nan => { cls := .nan }
  | .inf, .zero => { cls := .nan }
  | .zero, .inf => { cls := .nan }
  | .inf, _ => { cls := .inf, neg := neg }
  | _, .inf => { cls := .inf, neg := neg }
  | .zero, _ => { cls := .zero, neg := neg }
  | _, .zero => { cls := .zero, neg := neg }
  | .finite, .finite => { cls := .finite, neg := neg, n := a.n * b.n, x := a.x + b.x }

/-- The value with its sign turned. -/
def negNum (a : Num) : Num := { a with neg := !a.neg }

/-! ### The group dot product -/

/-- The place of a product's leading bit (R28). -/
def leadingBit (p : Num) : Int := p.x + bitLength p.n - 1

/-- A product aligned to the window below big, its lower bits cut off (R28). -/
def windowUnits (big : Int) (p : Num) : Int :=
  let k := p.x - (big - 50)
  let mag : Nat := if 0 ≤ k then p.n * 2 ^ k.toNat else p.n / 2 ^ (-k).toNat
  if p.neg then -mag else mag

/-- The value of a group from its products and the two scale codes (group_value of R28). -/
def groupValue (prods : List Num) (sa sb : Nat) : Num :=
  if sa = 0xFF ∨ sb = 0xFF then { cls := .nan }
  else if prods.any (·.cls == .nan) then { cls := .nan }
  else
    let infs := prods.filter (·.cls == .inf)
    if infs.any (·.neg) && infs.any (!·.neg) then { cls := .nan }
    else match infs with
    | p :: _ => { cls := .inf, neg := p.neg }
    | [] =>
      match prods.filter (·.cls == .finite) with
      | [] => { cls := .zero, neg := prods.all (·.neg) }
      | p :: rest =>
        let big := rest.foldl (fun m q => max m (leadingBit q)) (leadingBit p)
        let sum := (p :: rest).foldl (fun t q => t + windowUnits big q) 0
        if sum = 0 then { cls := .zero }
        else { cls := .finite, neg := sum < 0, n := sum.natAbs,
               x := big - 50 + ((sa : Int) - 127) + ((sb : Int) - 127) }

/-- Adds a group to an F32 accumulator with one rounding to nearest (accumulate_f32 of R28). -/
def accumulateF32 (acc : Nat) (g : Num) : Nat :=
  encodeNum .f32 .nearest (sumNum (decodeExact .f32 acc) g)

/-- One floating group of a dot product (R28). -/
def dotGroupF32 (fa fb : Fmt) (acc : Nat) (as bs : List Nat) (sa sb : Nat) : Nat :=
  accumulateF32 acc
    (groupValue (List.zipWith (fun a b => mulNum (decodeOperand fa a) (decodeOperand fb b)) as bs) sa sb)

/-- Adds to an I32 accumulator with saturation (R30); answers whether it saturated. -/
def accumulateI32 (acc : Nat) (d : Int) : Nat × Bool :=
  let t := signedOf 32 acc + d
  let c := clampInt (-2147483648) 2147483647 t
  (wrapTo 32 c, c != t)

/-- One integer group of a dot product (R30). -/
def dotGroupI32 (fa fb : Fmt) (acc : Nat) (as bs : List Nat) : Nat × Bool :=
  accumulateI32 acc
    ((List.zipWith (fun a b => signedOf (fmtBits fa) a * signedOf (fmtBits fb) b) as bs).foldl (· + ·) 0)

/-! ### Conversions -/

/-- Least and greatest value of an integer format. -/
def intRange (f : Fmt) : Int × Int := (-(2 ^ (fmtBits f - 1) : Nat), (2 ^ (fmtBits f - 1) : Nat) - 1)

/-- Saturates an integer into an integer format; answers the code and whether it saturated. -/
def saturate (f : Fmt) (v : Int) : Nat × Bool :=
  let (lo, hi) := intRange f
  let c := clampInt lo hi v
  (wrapTo (fmtBits f) c, c != v)

/-- A value rounded to an integer by a mode. -/
def toInteger (mode : Rounding) (v : Num) : Int :=
  match v.cls with
  | .finite =>
    let r : Int := roundUnits v.neg v.n v.x 0 mode
    if v.neg then -r else r
  | _ => 0

/-- Converts an element between formats (R32–R34); answers the code and whether it saturated. -/
def convert (src dst : Fmt) (mode : Rounding) (code : Nat) : Nat × Bool :=
  if isInt src then
    let v := signedOf (fmtBits src) code
    if isInt dst then saturate dst v else (encodeNum dst .nearest (numOfInt v), false)
  else
    let v := decodeExact src code
    if isInt dst then
      match v.cls with
      | .nan => (0, true)
      | .inf =>
        let (lo, hi) := intRange dst
        (wrapTo (fmtBits dst) (if v.neg then lo else hi), true)
      | _ => saturate dst (toInteger mode v)
    else (encodeNum dst mode v, false)

/-! ### Order of values -/

/-- Whether a floating code is a NaN. -/
def isNan (f : Fmt) (code : Nat) : Bool := (decodeExact f code).cls == .nan

/-- The rank of R23 for a code of a floating format that is no NaN, with −0 below +0. -/
def floatRank (f : Fmt) (code : Nat) : Int :=
  let mag := code % 2 ^ (fmtBits f - 1)
  if code.testBit (fmtBits f - 1) then -(mag : Int) - 1 else mag

/-- The rank of R23 with every NaN above all others. -/
def selectRank (f : Fmt) (code : Nat) : Int :=
  if isInt f then signedOf (fmtBits f) code
  else if isNan f code then 2 ^ fmtBits f else floatRank f code

/-- The quiet comparison less-than (R23). -/
def numLess (f : Fmt) (a b : Nat) : Bool :=
  if isInt f then signedOf (fmtBits f) a < signedOf (fmtBits f) b
  else
    let va := decodeExact f a
    let vb := decodeExact f b
    va.cls != .nan && vb.cls != .nan && !(va.cls == .zero && vb.cls == .zero) &&
      decide (floatRank f a < floatRank f b)

/-- The quiet comparison equal (R23). -/
def numEqual (f : Fmt) (a b : Nat) : Bool :=
  if isInt f then a == b
  else
    let va := decodeExact f a
    let vb := decodeExact f b
    va.cls != .nan && vb.cls != .nan && ((va.cls == .zero && vb.cls == .zero) || a == b)

/-- Minimum with NaN propagation (R23). -/
def numMin (f : Fmt) (a b : Nat) : Nat :=
  if !isInt f && (isNan f a || isNan f b) then canonNan f
  else if selectRank f b < selectRank f a then b else a

/-- Maximum with NaN propagation (R23). -/
def numMax (f : Fmt) (a b : Nat) : Nat :=
  if !isInt f && (isNan f a || isNan f b) then canonNan f
  else if selectRank f a < selectRank f b then b else a

/-! ### The enlarger -/

/-- A 4-bit element of a packed row: element n of the bytes (R19). -/
def nibbleAt (bs : List Nat) (n : Nat) : Nat :=
  let b := bs.getD (n / 2) 0
  if n % 2 = 0 then b % 16 else b / 16

/-- An F4 code widened to E4M3 (R37): exact, by value. -/
def f4ToE4m3 (code : Nat) : Nat := encodeNum .e4m3 .nearest (decodeExact .f4 code)

/-- A 4-bit element widened to its 8-bit format (R37). -/
def widen4 : Fmt → Nat → Nat
  | .f4, c => f4ToE4m3 c
  | _, c => wrapTo 8 (signedOf 4 c)

/-- The format the array sees for a format of streamed B (R37). -/
def widenedFmt : Fmt → Fmt
  | .i4 => .i8
  | .f4 => .e4m3
  | f => f

/-- The forms that a format admits (R35). -/
def formAdmits : Nat → Fmt → Bool
  | 0, .e4m3 | 0, .e5m2 | 0, .i8 | 0, .f16 | 0, .bf16 => true
  | 1, .i4 | 1, .f4 => true
  | 2, .e4m3 | 2, .e5m2 | 2, .i8 => true
  | 3, .i4 | 3, .f4 => true
  | _, _ => false

/-- Data bytes of a block (R35). -/
def blockBytes (form : Nat) (f : Fmt) : Nat :=
  match form with
  | 0 => if fmtBits f = 16 then 4096 else 2048
  | 1 => 1024
  | 2 => 1280
  | _ => 768

/-- Scratchpad rows of a block (R35, R36). -/
def blockRows (form : Nat) (f : Fmt) (scaled : Bool) : Nat :=
  blockBytes form f / 128 + (if scaled then 1 else 0)

/-- Element (r, n) of a block's data, reduction row r and column n, widened (R36–R38). -/
def blockElem (form : Nat) (f : Fmt) (data : List Nat) (r n : Nat) : Nat :=
  match form with
  | 0 =>
    if fmtBits f = 16 then
      data.getD (128 * r + 2 * n) 0 + 256 * data.getD (128 * r + 2 * n + 1) 0
    else data.getD (64 * r + n) 0
  | 1 => widen4 f (nibbleAt (data.drop (32 * r)) n)
  | _ =>
    let q := r / 4
    let narrow := form = 3
    let nib := nibbleAt (data.drop ((if narrow then 512 else 1024) + 32 * q)) n
    let value (j : Nat) : Nat :=
      if narrow then widen4 f (nibbleAt (data.drop (32 * j)) n) else data.getD (64 * j + n) 0
    if r % 4 = nib / 4 then value (2 * q + 1)
    else if r % 4 = nib % 4 then value (2 * q)
    else 0

end Sys2Proof.Machine
end

