-- ==== Sys2Proof/Machine/Scratchpad.lean ====
section
/-! DEFINITION. The scratchpad (05_scratchpad.md): granule code, accumulate-on-write, the scoreboard,
apertures and slots. -/

namespace Sys2Proof.Machine

/-- The bank of granule g of row r (R100). Banks affect timing only. -/
def bankOf (r g : Nat) : Nat :=
  let u := r / 32
  (g + r + (u % 32 ^^^ u / 32)) % 32

/-! ### Granules -/

/-- The code state of a granule, by its number row × 32 + granule (R105). -/
def State.codeOf (s : State) (k g : Nat) : GranuleCode := get .good (s.spOf k).code g

/-- Sets the code state of a granule. -/
def State.setCode (s : State) (k g : Nat) (c : GranuleCode) : State :=
  s.modSp k fun p => { p with code := put .good p.code g c }

/-- Records a corrected read (R106). -/
def State.noteCorrected (s : State) (k g : Nat) : State :=
  let s := s.count fSP_ECC_CORR k
  s.setReg .spEccLoc k 0 (0x80000000 + (g / 32) * 32 + g % 32)

/-- Records an uncorrectable detection (R107). -/
def State.noteUncorrectable (s : State) (k g : Nat) : State :=
  let s := s.count fSP_ECC_UNCORR k
  s.setReg .spEccLoc k 0 (0xC0000000 + (g / 32) * 32 + g % 32)

/-- Writes SP_FAULT (R126); it is overwritten by each event (R75). -/
def State.spFault (s : State) (k cause ap slot row : Nat) : State :=
  s.setReg .spFault k 0
    (0x80000000 + cause * 0x8000000 + ap * 0x800000 + slot * 0x8000 + row)

/-- Granules that the bytes from offset o touch. -/
def granulesOf (o n : Nat) : List Nat := if n = 0 then [] else span (o / 4) ((o + n - 1) / 4 - o / 4 + 1)

/-- Reads n bytes of a scratchpad. Corrected granules wait for their write-back (R106). Answers the
bytes and the first poisoned granule, if any (R107). An access that meets several poisoned granules detects and counts
each of them, and SP_ECC_LOC keeps the last (DESIGN CHOICE, notes/assumptions/103.md). -/
def State.spRead (s : State) (k o n : Nat) : List Byte × Option Nat × State :=
  let (bad, s) := (granulesOf o n).foldl (fun (acc : Option Nat × State) g =>
    match acc.2.codeOf k g with
    | .good => acc
    | .single =>
      let t := acc.2.noteCorrected k g
      (acc.1, t.modSp k fun p =>
        if p.corrected.contains g then p else { p with corrected := p.corrected ++ [g] })
    | .poisoned => (acc.1.orElse fun _ => some g, acc.2.noteUncorrectable k g)) (none, s)
  (getBytes 0 (s.spOf k).mem o n, bad, s)

/-- A part-granule or accumulating write onto a poisoned granule (R107). -/
def State.poisonHit (s : State) (k g : Nat) : State :=
  let s := s.noteUncorrectable k g
  let s := s.spFault k 4 0 0 (g / 32)
  s.raise k 9 5 4

/-- Writes one granule with byte enables (R105, R107). -/
def State.spWriteGranule (s : State) (k g : Nat) (new : List Byte) (be : List Bool) : State :=
  if be.all (· == false) then s
  else
    let whole := be.all (· == true)
    let store (t : State) : State :=
      t.modSp k fun p => { p with
        mem := putBytes 0 p.mem (4 * g) (mergeBytes (getBytes 0 p.mem (4 * g) 4) new be)
        code := put .good p.code g .good
        corrected := p.corrected.filter (· != g) }
    if whole then store s
    else match s.codeOf k g with
      | .poisoned => s.poisonHit k g
      | .single => store (s.noteCorrected k g)
      | .good => store s

/-- Writes the enabled bytes from offset o. -/
def State.spWrite (s : State) (k o : Nat) (data : List Byte) (be : List Bool) : State :=
  let on (i : Nat) : Bool := decide (o ≤ i) && be.getD (i - o) false
  (granulesOf o data.length).foldl (fun t g =>
    t.spWriteGranule k g ((List.range 4).map fun i => data.getD (4 * g + i - o) 0)
      ((List.range 4).map fun i => on (4 * g + i))) s

/-- Writes whole bytes from offset o. -/
def State.spStore (s : State) (k o : Nat) (data : List Byte) : State :=
  s.spWrite k o data (data.map fun _ => true)

/-- Writes a granule in the poisoned code pattern: a poisoned read response lands (R313). -/
def State.spPoison (s : State) (k o n : Nat) : State :=
  (granulesOf o n).foldl (fun t g => t.setCode k g .poisoned) s

/-- The combination of R108 on 32-bit patterns; answers the result and whether it saturated. -/
def accumulateOp (op : Nat) (old new : Nat) : Nat × Bool :=
  match op with
  | 0 => (encodeNum .f32 .nearest (sumNum (decodeExact .f32 old) (decodeExact .f32 new)), false)
  | 1 => accumulateI32 old (signedOf 32 new)
  | _ =>
    if isNan .f32 old || isNan .f32 new then (canonNan .f32, false)
    else if floatRank .f32 old < floatRank .f32 new then (new, false) else (old, false)

/-- Accumulates whole granules from offset o (R108). The read of the old value counts a single-bit error (R106;
notes/assumptions/24.md). -/
def State.spAccumulate (s : State) (k o : Nat) (data : List Byte) (op : Nat) : State :=
  (granulesOf o data.length).foldl (fun t g =>
    match t.codeOf k g with
    | .poisoned => t.poisonHit k g
    | c =>
      let t := if c = .single then t.noteCorrected k g else t
      let old := leNat (getBytes 0 (t.spOf k).mem (4 * g) 4)
      let new := leNat ((data.drop (4 * g - o)).take 4)
      let (r, sat) := accumulateOp op old new
      let t := t.modSp k fun p => { p with
        mem := putBytes 0 p.mem (4 * g) (leBytes 4 r)
        code := put .good p.code g .good
        corrected := p.corrected.filter (· != g) }
      if sat then t.setFlag fSP_STATUS_SAT true k else t) s

/-! ### The scoreboard -/

/-- Whether two rectangles overlap (R110). -/
def Rect.overlaps (a b : Rect) : Bool :=
  decide (a.row0 ≤ b.row1 ∧ b.row0 ≤ a.row1 ∧ a.g0 ≤ b.g1 ∧ b.g0 ≤ a.g1)

/-- Whether a command with these rectangles may issue (R110, R111). -/
def State.sbAdmits (s : State) (k : Nat) (reads : List Rect) (write : Option Rect) : Bool :=
  let sb := (s.spOf k).scoreboard
  decide (sb.length < 16) && sb.all fun e =>
    (match write with
      | none => true
      | some w => e.reads.all (fun r => !w.overlaps r) &&
          (match e.write with | none => true | some v => !w.overlaps v)) &&
    (match e.write with
      | none => true
      | some v => reads.all fun r => !r.overlaps v)

/-- Declares the rectangles of a command in flight. -/
def State.sbAdd (s : State) (k : Nat) (e : SbEntry) : State :=
  s.modSp k fun p => { p with scoreboard := p.scoreboard ++ [e] }

/-- Releases the oldest entry of an owner. -/
def State.sbRelease (s : State) (k : Nat) (o : SbOwner) : State :=
  s.modSp k fun p => { p with scoreboard := p.scoreboard.eraseP (·.owner == o) }

/-! ### Apertures -/

/-- An aperture descriptor as its registers hold it (R113). -/
structure ApDesc where
  row0 : Nat
  nrows : Nat
  g0 : Nat
  ng : Nat
  slotRows : Nat
  devMask : Nat
  devBase : Nat
  reqHi : Nat
  reqLo : Nat
  gen : Nat
  mode : Nat
  op : Nat
  rread : Bool
  rel3 : Bool
  deriving DecidableEq, Repr

/-- Reads a descriptor. -/
def State.apDesc (s : State) (k n : Nat) : ApDesc :=
  { row0 := s.fld fSP_AP_RECT_ROW0 k n, nrows := s.fld fSP_AP_RECT_NROWSM1 k n + 1
    g0 := s.fld fSP_AP_SHAPE_G0 k n, ng := s.fld fSP_AP_SHAPE_NGM1 k n + 1
    slotRows := s.fld fSP_AP_SHAPE_SLOTROWSM1 k n + 1
    devMask := s.fld fSP_AP_SRC_DEVMASK k n, devBase := s.fld fSP_AP_SRC_DEVBASE k n
    reqHi := s.fld fSP_AP_REQ_REQHI k n, reqLo := s.fld fSP_AP_REQ_REQLO k n
    gen := s.fld fSP_AP_CTRL_GEN k n, mode := s.fld fSP_AP_CTRL_MODE k n
    op := s.fld fSP_AP_CTRL_OP k n, rread := s.flag fSP_AP_CTRL_RREAD k n
    rel3 := s.flag fSP_AP_CTRL_REL3 k n }

/-- The rectangle of a descriptor. -/
def ApDesc.rect (d : ApDesc) : Rect :=
  ⟨d.row0, d.row0 + d.nrows - 1, d.g0, d.g0 + d.ng - 1⟩

/-- Slots of a slotted aperture (R117). -/
def ApDesc.slotCount (d : ApDesc) : Nat := d.nrows / d.slotRows

/-- Whether a descriptor may open (R114); its overlap with others is checked apart. -/
def ApDesc.valid (d : ApDesc) : Bool :=
  decide (d.row0 + d.nrows ≤ 8192) && decide (d.g0 + d.ng ≤ 32) && d.mode != 3 &&
    !(d.mode == 1 && d.op == 3) &&
    (d.mode != 2 || (d.nrows % d.slotRows == 0 && decide (d.nrows / d.slotRows ≤ 256)))

/-- Whether aperture n may open now (R114). -/
def State.apCanOpen (s : State) (k n : Nat) : Bool :=
  let d := s.apDesc k n
  d.valid && (List.range 16).all fun m =>
    m == n || (s.ap k m).state == .closed || !d.rect.overlaps (s.apDesc k m).rect

/-- Opens a closed aperture or sets APERR; answers whether it opened (R114). -/
def State.apOpen (s : State) (k n : Nat) : Bool × State :=
  if s.apCanOpen k n then
    (true, (s.setAp k n { state := .opened }).setFlag fSP_AP_CTRL_OPEN true k n)
  else (false, s.setFlag fSP_STATUS_APERR true k)

/-- Whether a descriptor admits a sender (R113). -/
def ApDesc.admits (d : ApDesc) (dev req : Nat) : Bool :=
  (dev &&& d.devMask) == (d.devBase &&& d.devMask) && decide (d.reqLo ≤ req ∧ req ≤ d.reqHi)

/-- The open aperture that covers a granule of a row, if any. -/
def State.apCovering (s : State) (k row g : Nat) : Option Nat :=
  (List.range 16).find? fun n =>
    (s.ap k n).state == .opened && (s.apDesc k n).rect.overlaps ⟨row, row, g, g⟩

/-- What the aperture does with an arrival. -/
inductive Arrive where
  | done
  | refused (reason : Nat)
  | held (ap slot : Nat)
  deriving DecidableEq, Repr

/-- Records a refused arrival (R115). -/
def State.noteRefused (s : State) (k o reason dev req : Nat) : State :=
  let s := s.count fSP_REFUSE_COUNT k
  let s := s.setReg .spRefuseLast k 0
    (0x80000000 + reason * 0x8000000 + (req % 1024) * 0x10000 + dev % 0x10000)
  s.setReg .spRefuseRow k 0 ((o / 128) * 256 + o % 128 / 4)

/-- The reason an arriving write is refused for, if any, and the aperture it meets (R115). -/
def State.writeTest (s : State) (k o : Nat) (m : Msg) : Nat × Nat :=
  match s.apCovering k (o / 128) (o % 128 / 4) with
  | none => (1, 0)
  | some n =>
    let d := s.apDesc k n
    let last := o + m.data.length - 1
    let whole := o % 4 = 0 ∧ m.data.length % 4 = 0 ∧ m.be.all (· == true)
    if last / 128 ≠ o / 128 ∨ d.g0 + d.ng ≤ last % 128 / 4 then (2, n)
    else if !d.admits m.sdev.toNat m.req then (3, n)
    else if m.gen.toNat ≠ d.gen then (4, n)
    else if d.mode ≠ 0 ∧ ¬ whole then (5, n)
    else (0, n)

/-- The slot that a row lies in (R117). -/
def ApDesc.slotOf (d : ApDesc) (row : Nat) : Nat := (row - d.row0) / d.slotRows

/-- Puts what an accepted write carries into the scratchpad: its bytes, or poison of a read response (R313). -/
def State.landWrite (s : State) (k o : Nat) (m : Msg) : State :=
  if m.poison then s.spPoison k o m.data.length else s.spWrite k o m.data m.be

/-- Carries out an accepted write (R108, R117). -/
def State.acceptWrite (s : State) (k o n : Nat) (m : Msg) : State :=
  let d := s.apDesc k n
  match d.mode with
  | 0 => s.landWrite k o m
  | 1 => if m.poison then s.landWrite k o m else s.spAccumulate k o m.data d.op
  | _ =>
    let s := s.landWrite k o m
    let a := s.ap k n
    let sl := d.slotOf (o / 128)
    let v := get {} a.slots sl
    let fill := v.fill + m.data.length / 4
    let v' : Slot := if d.slotRows * d.ng ≤ fill then { full := true, fill := 0 } else { v with fill := fill }
    s.setAp k n { a with slots := put {} a.slots sl v' }

/-- An arriving write at offset o of core k's scratchpad (R115, R117, R121). -/
def State.arriveWrite (s : State) (k o : Nat) (m : Msg) : Arrive × State :=
  if m.data = [] then (.done, s)
  else
    let (reason, n) := s.writeTest k o m
    if reason ≠ 0 then (.refused reason, s.noteRefused k o reason m.sdev.toNat m.req)
    else
      let d := s.apDesc k n
      let sl := d.slotOf (o / 128)
      if d.mode = 2 ∧ (get {} (s.ap k n).slots sl).full then (.held n sl, s)
      else (.done, s.acceptWrite k o n m)

/-- An arriving remote read (R115): its bytes, or the reason of its refusal. -/
def State.arriveRead (s : State) (k o len dev req : Nat) : Nat × List Byte × State :=
  let last := o + len - 1
  let (reason, s) : Nat × State :=
    match s.apCovering k (o / 128) (o % 128 / 4) with
    | none => (1, s)
    | some n =>
      let d := s.apDesc k n
      if last / 128 ≠ o / 128 ∨ d.g0 + d.ng ≤ last % 128 / 4 then (2, s)
      else if !d.admits dev req then (3, s)
      else if d.mode ≠ 0 ∨ !d.rread then (8, s)
      else
        let (_, bad, t) := s.spRead k o len
        (if bad.isSome then 9 else 0, t)
  if reason = 0 then (0, getBytes 0 (s.spOf k).mem o len, s)
  else (reason, [], s.noteRefused k o reason dev req)

/-! ### Slots: gating, release, closing -/

/-- The first slot that gates a command reading a rectangle: aperture and slot (R119). -/
def State.slotGate (s : State) (k : Nat) (r : Rect) : Option (Nat × Nat) :=
  (List.range 16).findSome? fun n =>
    let d := s.apDesc k n
    let a := s.ap k n
    if a.state = .opened ∧ d.mode = 2 ∧ d.rect.overlaps r then
      let lo := d.slotOf (max r.row0 d.row0)
      let hi := d.slotOf (min r.row1 (d.row0 + d.nrows - 1))
      ((span lo (hi - lo + 1)).find? fun sl => !(get {} a.slots sl).full).map fun sl => (n, sl)
    else none

/-- Whether the slots that a list of read rectangles touches are all full. -/
def State.slotsFull (s : State) (k : Nat) (rs : List Rect) : Bool :=
  rs.all fun r => (s.slotGate k r).isNone

/-- The rectangle of a slot (R117). -/
def ApDesc.slotRect (d : ApDesc) (sl : Nat) : Rect :=
  ⟨d.row0 + sl * d.slotRows, d.row0 + (sl + 1) * d.slotRows - 1, d.g0, d.g0 + d.ng - 1⟩

/-- A write held at a full slot whose slot is now empty proceeds; answers those that proceeded (R118). -/
def State.drainHeld (s : State) (k : Nat) : List HeldWrite × State :=
  (s.spOf k).held.foldl (fun (acc : List HeldWrite × State) h =>
    let t := acc.2
    let v := get {} (t.ap k h.ap).slots h.slot
    if v.full then acc
    else
      let t := t.acceptWrite k (h.msg.addr % 0x100000) h.ap h.msg
      (acc.1 ++ [h], t.modSp k fun p => { p with held := p.held.erase h })) ([], s)

/-- A slot release takes effect on one slot (R118). -/
def State.releaseSlot (s : State) (k n sl : Nat) : State :=
  let a := s.ap k n
  if (s.apDesc k n).slotCount ≤ sl then s
  else if (get {} a.slots sl).full then s.setAp k n { a with slots := put {} a.slots sl {} }
  else s.setFlag fSP_STATUS_RELERR true k

/-- Whether a release may take effect now: no in-flight read touches its slots (R118). -/
def State.releaseReady (s : State) (k : Nat) (q : ReleaseReq) : Bool :=
  let d := s.apDesc k q.ap
  (span q.slot q.count).all fun sl =>
    decide (d.slotCount ≤ sl) ||
      (s.spOf k).scoreboard.all fun e => e.reads.all fun r => !r.overlaps (d.slotRect sl)

/-- Carries out one release: the slots that were full empty, and their held writes proceed in the
order in which they were held (R118). -/
def State.applyRelease (s : State) (k : Nat) (q : ReleaseReq) : List HeldWrite × State :=
  let s := (span q.slot q.count).foldl (fun t sl => t.releaseSlot k q.ap sl) s
  s.drainHeld k

/-- A write of SP_RELEASE that passed its permission test (R118): the release waits its turn. -/
def State.askRelease (s : State) (k v : Nat) : State :=
  let n := bits v 27 24
  let d := s.apDesc k n
  if (s.ap k n).state = .opened ∧ d.mode = 2 then
    s.modSp k fun p => { p with releases := p.releases ++ [⟨n, bits v 23 16, bits v 7 0 + 1⟩] }
  else s.setFlag fSP_STATUS_RELERR true k

/-- The aperture's answer to a write of its CTRL register (R114, R116). Fields other than OPEN of a
descriptor that is open or closing are ignored. -/
def State.writeApCtrl (s : State) (k n v : Nat) : State :=
  let stored := v &&& 0x0000FF3F
  match (s.ap k n).state with
  | .closed =>
    let s := s.setReg .spApCtrl k n stored
    if bit v 31 then (s.apOpen k n).2 else s
  | .opened =>
    if bit v 31 then s
    else (s.setFlag fSP_AP_CTRL_OPEN false k n).setAp k n { s.ap k n with state := .closing }
  | .closing => s

/-- A write held at a full slot holds its plane (R121). -/
def State.planeHeld (s : State) (k plane : Nat) : Bool := (s.spOf k).held.any (·.plane == plane)

/-- Beats of a packet: 1 or 2 (R156). -/
def packetBeats (m : Msg) : Nat := if 128 < m.data.length then 2 else 1

/-- The beats in the arrival buffer of a plane, a write that is held at a full slot included (R102, R121). -/
def State.arrived (s : State) (k plane : Nat) : Nat :=
  (((get [] (s.spOf k).arrivals plane) ++ ((s.spOf k).held.filter (·.plane == plane)).map (·.msg)).map packetBeats).sum

/-- Whether the exit crossing of a plane has room for n more of its 4 beats (R155). -/
def State.exitRoom (s : State) (k plane : Nat) (n : Nat := 1) : Bool := decide (s.arrived k plane + n ≤ 4)

/-- Whether a closing aperture has nothing more to refuse (R116). -/
def State.apDrained (s : State) (k n : Nat) : Bool := !(s.spOf k).held.any (·.ap == n)

end Sys2Proof.Machine
end

