-- ==== Sys2Proof/Machine/Translate.lean ====
section
/-! DEFINITION. Translation of virtual word addresses: the page-table walk and the TLB (R253–R257). -/

namespace Sys2Proof.Machine

/-- The first byte address of scratchpad n (R10). -/
def spBase (n : Nat) : Nat := 0x400000000000 + n * 0x100000

/-- The core whose scratchpad holds a local address, and the offset. -/
def spPlace (a : Nat) : Option (Nat × Nat) :=
  if 0x400000000000 ≤ a ∧ a < 0x400030000000 then
    some ((a - 0x400000000000) / 0x100000, a % 0x100000)
  else none

/-- The offset in the supervisor SRAM of a local address. -/
def sramPlace (a : Nat) : Option Nat :=
  if 0x500000000000 ≤ a ∧ a < 0x500000800000 then some (a - 0x500000000000) else none

/-- The access error cause of a refused remote read (R104, R252): a poisoned granule is uncorrectable
data, every other reason is a refusal by an aperture. -/
def readRefusalCause (reason : Nat) : Nat := if reason = 9 then 3 else 4

/-- Reads n bytes of one row, one unit or one SRAM span for a core at their home. Registers and host
windows answer an access error here: page-table walks reach memory only. -/
def State.memRead (s : State) (c a n : Nat) : Reply (List Byte) × State :=
  match spPlace a with
  | some (k, o) =>
    if k = c then
      let (data, bad, t) := s.spRead k o n
      (if bad.isSome then .err 3 else .ok data, t)
    else if s.planeHeld k 3 then (.wait, s)
    else
      let (reason, data, t) := s.arriveRead k o n s.ol.devId.toNat c
      (if reason = 0 then .ok data else .err (readRefusalCause reason), t)
  | none =>
    match sramPlace a with
    | some o => (s.sramRead o n, s)
    | none => if a + n ≤ dramSize then s.dramRead a n else (.err 2, s)

/-! ### The walk -/

/-- The number of an access kind's permission fault (R256). -/
def kindCause : AccessKind → Nat
  | .read => 3
  | .write => 4
  | .fetch => 5

/-- Whether an entry's bit for an access kind is set (R255). -/
def TlbEntry.allows (e : TlbEntry) : AccessKind → Bool
  | .read => e.r
  | .write => e.w
  | .fetch => e.x

/-- The fault of an access through an entry, if any: 0 for none (R255, R256). -/
def TlbEntry.check (e : TlbEntry) (kind : AccessKind) (ring : Nat) : Nat :=
  if e.ring.toNat < ring then 6 else if e.allows kind then 0 else kindCause kind

/-- A level-1 entry: the level-2 table, when valid (R254). -/
def level1 (e : Nat) : Option Nat :=
  if bit e 63 && bits e 62 47 == 0 && bits e 14 0 == 0 then some (bits e 46 15 * 0x8000) else none

/-- A level-2 entry, when valid (R254). -/
def level2 (page e : Nat) : Option TlbEntry :=
  if bit e 63 && bits e 62 47 == 0 && bits e 15 8 == 0 && bits e 2 0 == 0 then
    some { page := page, frame := bits e 46 16 * 0x10000, ring := BitVec.ofNat 2 (bits e 7 6)
           x := bit e 5, w := bit e 4, r := bit e 3 }
  else none

/-- Reads the two table entries of a page (R253, R256): the entry, or the cause of the fault. -/
def State.walkEntries (s : State) (c page : Nat) : Reply TlbEntry × State :=
  match s.memRead c ((s.core c).ttbase.toNat + 8 * (page / 0x1000)) 8 with
  | (.wait, t) => (.wait, t)
  | (.err _, t) => (.err 8, t)
  | (.ok b1, t) =>
    match level1 (leNat b1) with
    | none => (.err 1, t)
    | some next =>
      match t.memRead c (next + 8 * (page % 0x1000)) 8 with
      | (.wait, u) => (.wait, u)
      | (.err _, u) => (.err 8, u)
      | (.ok b2, u) =>
        match level2 page (leNat b2) with
        | none => (.err 2, u)
        | some e => (.ok e, u)

/-- A walk for one access: a walk that ends in a fault of any cause enters nothing (R257). Before level
2 a walk whose tables lie in DRAM waits, and the state is as before. -/
def State.walk (s : State) (c page : Nat) (kind : AccessKind) (ring : Nat) : Reply TlbEntry × State :=
  match s.walkEntries c page with
  | (.wait, _) => (.wait, s)
  | (.err cause, t) => (.err cause, (t.count fTR_STATUS_WALKS c).count fTR_STATUS_FAULTS c)
  | (.ok e, t) =>
    let t := t.count fTR_STATUS_WALKS c
    let f := e.check kind ring
    if f ≠ 0 then (.err f, t.count fTR_STATUS_FAULTS c)
    else (.ok e, t.modCore c fun x => { x with tlb := (e :: x.tlb).take 64 })

/-- Translates a virtual word address (R253–R257): the local byte address, or a page fault's cause. -/
def State.translate (s : State) (c : Nat) (va : Addr) (kind : AccessKind) (ring : Nat) :
    Reply Nat × State :=
  if 2 ^ 39 ≤ va.toNat then (.err 7, s)
  else
    let v := 2 * va.toNat
    let page := v / 0x10000
    match (s.core c).tlb.find? (·.page == page) with
    | some e =>
      let f := e.check kind ring
      let s := s.modCore c fun x => { x with tlb := e :: x.tlb.filter (·.page != page) }
      (if f ≠ 0 then .err f else .ok (e.frame + v % 0x10000), s)
    | none =>
      match s.walk c page kind ring with
      | (.ok e, t) => (.ok (e.frame + v % 0x10000), t)
      | (.err f, t) => (.err f, t)
      | (.wait, t) => (.wait, t)

/-- The word addresses from va on, within 48 bits. -/
def wordsFrom (va : Addr) (n : Nat) : List Addr := (List.range n).map fun i => va + BitVec.ofNat 48 i

/-- Translates every word of an access before any is reached (R217): the local address of each, or the
first fault with its word. -/
def State.translateAll (s : State) (c : Nat) (vas : List Addr) (kind : AccessKind) (ring : Nat) :
    Reply (List Nat) × Addr × State :=
  vas.foldl (fun (acc : Reply (List Nat) × Addr × State) va =>
    match acc.1 with
    | .ok las =>
      match acc.2.2.translate c va kind ring with
      | (.ok la, t) => (.ok (las ++ [la]), acc.2.1, t)
      | (.err f, t) => (.err f, va, t)
      | (.wait, t) => (.wait, va, t)
    | _ => acc) (.ok [], 0, s)

/-- INVALL and an MTS to TTBASE (R257). -/
def State.flushTlb (s : State) (c : Nat) : State := s.modCore c fun x => { x with tlb := [] }

/-- INVPAGE (R257). -/
def State.flushPage (s : State) (c page : Nat) : State :=
  s.modCore c fun x => { x with tlb := x.tlb.filter (·.page != page) }

end Sys2Proof.Machine
end

