-- ==== Sys2Proof/Machine/Engine.lean ====
section
/-! DEFINITION. What the matrix and vector engines share: spans and their pages, reads and writes of the
core's own scratchpad by virtual byte, holding, and save images (R49–R51, R62, R68–R71, R88). -/

namespace Sys2Proof.Machine

/-- What a page of a span is (R49). -/
inductive PageIs where
  | own (offset : Nat)
  | outside
  | absent (cause : Nat)
  deriving DecidableEq, Repr

/-- How trying to issue the head of a queue ends. -/
inductive Issue where
  | wait
  | done (s : State)
  | fault (s : State)

/-- The state after a try: a head that waits changes nothing. -/
def Issue.state (s : State) : Issue → State
  | .wait => s
  | .done t => t
  | .fault t => t

/-- Virtual bytes wrap at 2^49: 48-bit word addresses. -/
def vbyte (v : Nat) : Nat := v % 2 ^ 49

/-- What page p of the virtual space is for core k (R49); none while its walk waits. -/
def State.pageIs (s : State) (k p : Nat) (kind : AccessKind) (ring : Nat) : Option PageIs × State :=
  match s.translate k (BitVec.ofNat 48 (p * 0x8000)) kind ring with
  | (.wait, _) => (none, s)
  | (.err c, t) => (some (.absent c), t)
  | (.ok la, t) =>
    (some (match spPlace la with
      | some (n, o) => if n = k then .own o else .outside
      | none => .outside), t)

/-- Translates the pages of a span at issue (R49, R88). -/
def State.pageTable (s : State) (k : Nat) (pages : List Nat) (kind : AccessKind) (ring : Nat) :
    Option (List (Nat × PageIs)) × State :=
  pages.foldl (fun (acc : Option (List (Nat × PageIs)) × State) p =>
    match acc.1 with
    | none => acc
    | some l =>
      match acc.2.pageIs k p kind ring with
      | (none, t) => (none, t)
      | (some i, t) => (some (l ++ [(p, i)]), t)) (some [], s)

/-- The pages from the lowest to the highest byte of a list of pieces (first byte, length). -/
def spanPages (ps : List (Nat × Nat)) : List Nat :=
  match ps with
  | [] => []
  | (a, n) :: r =>
    let lo := r.foldl (fun m p => min m p.1) a
    let hi := r.foldl (fun m p => max m (p.1 + p.2 - 1)) (a + n - 1)
    span (lo / 0x10000) (hi / 0x10000 - lo / 0x10000 + 1)

/-- The place of a virtual byte under a page list. -/
def placeByte (pt : List (Nat × PageIs)) (v : Nat) : PageIs :=
  match pt.find? (·.1 == v / 0x10000) with
  | some (_, .own o) => .own (o + v % 0x10000)
  | some (_, i) => i
  | none => .outside

/-- A piece cut at page ends. -/
def cutPages (v n : Nat) : List (Nat × Nat) :=
  let first := min n (0x10000 - v % 0x10000)
  if first = n then [(v, n)] else [(v, first), (v + first, n - first)]

/-- A span, from the first to the last byte of its pieces, cut at page ends (R49). -/
def spanPieces (ps : List (Nat × Nat)) : List (Nat × Nat) :=
  match ps with
  | [] => []
  | (a, n) :: r =>
    let lo := r.foldl (fun m p => min m p.1) a
    let hi := r.foldl (fun m p => max m (p.1 + p.2)) (a + n)
    (spanPages ps).map fun p => (max lo (p * 0x10000), min hi ((p + 1) * 0x10000) - max lo (p * 0x10000))

/-- The first byte that a span touches in a page outside the core's own scratchpad window; the first byte of such a
page that it only passes over (R49). -/
def outsideByte (pt : List (Nat × PageIs)) (ps : List (Nat × Nat)) : Option Nat :=
  (pt.find? (·.2 == .outside)).map fun p =>
    match (ps.flatMap fun q => cutPages q.1 q.2).filter fun q => q.1 / 0x10000 == p.1 with
    | [] => p.1 * 0x10000
    | q :: r => r.foldl (fun m q => min m q.1) q.1

/-- What a read or a write of an engine met. -/
inductive Met where
  | fine
  | fault (cause : Nat) (v : Nat)
  | poison (granule : Nat) (v : Nat)
  deriving DecidableEq, Repr

/-- Reads n ≤ 64 KiB virtual bytes of the own scratchpad. -/
def State.readSpan (s : State) (k : Nat) (pt : List (Nat × PageIs)) (v n : Nat) :
    List Byte × Met × State :=
  (cutPages v n).foldl (fun (acc : List Byte × Met × State) p =>
    match acc.2.1 with
    | .fine =>
      match placeByte pt p.1 with
      | .own o =>
        let (d, bad, t) := acc.2.2.spRead k o p.2
        (acc.1 ++ d, (match bad with | none => .fine | some g => .poison g (p.1 + (4 * g - o))), t)
      | .absent c => (acc.1, .fault c p.1, acc.2.2)
      | .outside => (acc.1, .fault 0 p.1, acc.2.2)
    | _ => acc) ([], .fine, s)

/-- Writes virtual bytes of the own scratchpad, up to the first byte of an absent page. -/
def State.writeSpan (s : State) (k : Nat) (pt : List (Nat × PageIs)) (v : Nat) (data : List Byte) :
    Met × State :=
  (cutPages v data.length).foldl (fun (acc : Met × State) p =>
    match acc.1 with
    | .fine =>
      match placeByte pt p.1 with
      | .own o => (.fine, acc.2.spStore k o ((data.drop (p.1 - v)).take p.2))
      | .absent c => (.fault c p.1, acc.2)
      | .outside => (.fault 0 p.1, acc.2)
    | _ => acc) (.fine, s)

/-- Writes virtual bytes of the own scratchpad, or none of them when one lies in an absent page (R95). -/
def State.writeWhole (s : State) (k : Nat) (pt : List (Nat × PageIs)) (v : Nat) (data : List Byte) :
    Met × State :=
  match s.writeSpan k pt v data with
  | (.fine, t) => (.fine, t)
  | (e, _) => (e, s)

/-- The rectangle of R51: all granules of every row from the lowest to the highest row reached. -/
def rowsRect (pt : List (Nat × PageIs)) (ps : List (Nat × Nat)) : Option Rect :=
  let rows := (ps.flatMap fun p => cutPages p.1 p.2).flatMap fun p =>
    match placeByte pt p.1 with
    | .own o => [o / 128, (o + p.2 - 1) / 128]
    | _ => []
  match rows with
  | [] => none
  | r :: rest => some ⟨rest.foldl min r, rest.foldl max r, 0, 31⟩

/-! ### Holding -/

/-- An engine's record of the TSR at an entry (R250): one that is not held holds and records it; one that held itself
records it at the next entry. -/
def heldNow (held : Bool) (old : Option Addr) (tsr : Addr) : Option Addr := if held && old.isSome then old else some tsr

/-- A word address that covers a virtual byte. -/
def wordOfByte (v : Nat) : Addr := BitVec.ofNat 48 (v / 2)

/-- An engine's scratchpad fault on the core: a poisoned granule or a slot timeout (R107, R120). -/
def State.engineSpFault (s : State) (k src cause ap slot row : Nat) (fa : Addr) : State :=
  (s.spFault k cause ap slot row).raise k 8 src cause fa

/-! ### Queue words and save images -/

/-- Bit 10 of word 0: 8 words. -/
def cmdWords (ws : List Half) : Nat := if bit (wordAt ws 0) 10 then 8 else 4

/-- The 16 bytes of a queue entry in a save image (R68). -/
def queueImage (c : EngineCmd) : List Byte := halfBytes ((c.words.take 8) ++ List.replicate (8 - c.words.length) 0)

/-- Pads a list of bytes with zeros. -/
def padTo (n : Nat) (l : List Byte) : List Byte := l ++ List.replicate (n - l.length) 0

/-- The word n of a list of bytes. -/
def byteWord (l : List Byte) (n : Nat) : Nat := leNat ((l.drop (2 * n)).take 2)

end Sys2Proof.Machine
end

