-- ==== Sys2Proof/Machine/Msix.lean ====
section
/-! DEFINITION. MSI-X vectors and host events (R367, R368). -/

namespace Sys2Proof.Machine

/-- The configuration of a function of a port. -/
def State.fnCfg (s : State) (p f : Nat) : FnCfg := get {} (s.pxOf p).fns f

/-- The BAR4 size code in force for a function: a VF has the one of the PF's SR-IOV capability (R362). -/
def State.bar4Code (s : State) (p f : Nat) : Nat := if f = 0 then (s.fnCfg p 0).bar4sz else (s.pxOf p).vfBar4sz

/-- Whether a function is present: the PF, or a VF while VF Enable is set (R361). -/
def State.fnPresent (s : State) (p f : Nat) : Bool :=
  f == 0 || ((s.pxOf p).vfEnable && decide (f ≤ (s.pxOf p).numVfs))

/-- A DW of a function's MSI-X table. The mask bit of every entry is set after reset. -/
def State.msixDw (s : State) (p f i : Nat) : Nat :=
  (get 0 (s.pxOf p).msix (f * 8192 + i)).toNat ^^^ (if i % 4 = 3 then 1 else 0)

/-- Writes a DW of a function's MSI-X table. -/
def State.setMsixDw (s : State) (p f i v : Nat) : State :=
  s.modPx p fun x => { x with
    msix := put 0 x.msix (f * 8192 + i) (BitVec.ofNat 32 (v ^^^ (if i % 4 = 3 then 1 else 0))) }

/-- Sends the message of a vector, after every write the port has accepted (R373). -/
def State.sendVector (s : State) (p f vec : Nat) : State :=
  let a := s.msixDw p f (4 * vec) + s.msixDw p f (4 * vec + 1) * 0x100000000
  s.modPx p fun x => { x with
    tx := x.tx ++ [⟨f, a, leBytes 4 (s.msixDw p f (4 * vec + 2)), false, some vec⟩]
    pba := put false x.pba (f * 2048 + vec) false }

/-- Raises a vector of a function (R367). -/
def State.raiseVector (s : State) (p f vec : Nat) : State :=
  let c := s.fnCfg p f
  if !s.fnPresent p f || !c.msixEn || !c.bme || c.d3 || !(s.pxOf p).linkUp || decide (2047 < vec) then s
  else if c.fmask || bit (s.msixDw p f (4 * vec + 3)) 0 then
    s.modPx p fun x => { x with pba := put false x.pba (f * 2048 + vec) true }
  else s.sendVector p f vec

/-- Sends the pending vectors of a function whose masks have cleared (R367). -/
def State.sendPending (s : State) (p f : Nat) : State :=
  let c := s.fnCfg p f
  if !c.msixEn || !c.bme || c.d3 || !(s.pxOf p).linkUp || c.fmask then s
  else (((s.pxOf p).pba.filter fun e => e.1 / 2048 == f).map (·.1 % 2048)).foldl (fun t vec =>
    if bit (t.msixDw p f (4 * vec + 3)) 0 then t else t.sendVector p f vec) s

/-- Sets a bit of PX_HEVT of a port, and raises its vector (R368). -/
def State.hostEvent (s : State) (p : Nat) (f : Field) : State :=
  let s := s.setFlag f true p
  if s.flag fPX_PCTL_EVEN p then s.raiseVector p 0 (s.fld fPX_PCTL_EVVEC p) else s

/-- Sets a bit of PX_HEVT of both ports. -/
def State.hostEvents (s : State) (f : Field) : State := (s.hostEvent 0 f).hostEvent 1 f

end Sys2Proof.Machine
end

