-- ==== Sys2Proof/Machine/Aer.lean ====
section
/-! DEFINITION. Errors and completions of a host port: what leaves a port and in which order (R373), Advanced Error
Reporting (R360, R379), and unsupported requests (R364, R366). -/

namespace Sys2Proof.Machine

/-- A host port's number back as a name. -/
def portName (p : Nat) : HostPort := if p = 0 then .A else .B

/-! ### What leaves a port (R371, R373) -/

/-- The accepted writes and messages of a port leave it in order while its link is up (R371, R373). -/
def State.portDrains (s : State) (p : Nat) : State :=
  let x := s.pxOf p
  if x.linkUp then
    x.tx.foldl (fun t r => t.emit (match r.vec with
      | some v => .msix (portName p) r.func v r.addr (leNat r.data)
      | none => .hostWriteReq (portName p) r.func r.addr r.data r.ro))
      (s.setPx p { x with tx := [] })
  else s

/-- A completion, a read or a message leaves behind every write that the port has accepted (R373). -/
def State.leaves (s : State) (p : Nat) (e : Emission) : State := (s.portDrains p).emit e

/-- A completion with data. -/
def State.complete (s : State) (p f : Nat) (d : List Byte) (poison : Bool := false) : State :=
  s.leaves p (.hostCompletion (portName p) f 0 d poison)

/-! ### Advanced Error Reporting (R360, R379) -/

/-- The place of an error in the uncorrectable error registers of the PCI Express specification, by its code of
Emission.aer. -/
def errorBit (e : Nat) : Nat :=
  match e with
  | 1 => 20
  | 2 => 12
  | 3 => 18
  | 4 => 14
  | _ => 16

/-- The errors that have bits in the uncorrectable and in the correctable error registers. -/
def uncBits : Nat := 0x177010
def corBits : Nat := 0x31C1

/-- An error enters the registers of a function: with them, the message that the function sends, 0 correctable, 1
non-fatal, 2 fatal. One that the specification lets be advisory counts as correctable unless its severity is fatal.
The first error that is not masked keeps its header. -/
def Aer.log (r : Aer) (b : Nat) (advisory : Bool) (header : List Nat) : Aer × Option Nat :=
  let fatal := bit r.severity b
  let adv := advisory && !fatal
  let masked := bit r.uncMask b || (adv && bit r.corMask 13)
  let took := !masked && r.unc &&& (uncBits - (r.uncMask &&& uncBits)) == 0
  let level := if adv then 0 else if fatal then 2 else 1
  ({ r with
      status := r.status ||| 2 ^ level ||| oneIf (b == 20) 8, unc := r.unc ||| 2 ^ b
      cor := if adv then r.cor ||| 0x2000 else r.cor
      first := if took then b else r.first, header := if took then header else r.header },
   if !masked && bit r.control level && (b != 20 || bit r.control 3) then some level else none)

/-- The next free 32-bit words. -/
def State.freeWords (s : State) (n : Nat) : List Nat := (List.range n).map fun i => Config.freeNat (s.freeCount + i) % 2 ^ 32

/-- An error reported through AER (R364, R379): 1 unsupported request, 2 poisoned TLP received, 3 malformed TLP, 4
completion timeout, 5 unexpected completion. A function that is not present has its errors in the PF. No command names
the header of its TLP: the four words of the log are free. -/
def State.aerError (s : State) (p f e : Nat) (advisory : Bool := false) : State :=
  let f := if s.fnPresent p f then f else 0
  let (r, m) := (s.fnCfg p f).aer.log (errorBit e) advisory (s.freeWords 4)
  let t := { s with freeCount := s.freeCount + 4 }.modPx p fun x => { x with fns := upd {} x.fns f fun c => { c with aer := r } }
  let t := t.emit (.aer (portName p) f e)
  match m with
  | none => t
  | some v => t.leaves p (.errorMessage (portName p) f v)

/-! ### Which requests are served (R364, R366, R379) -/

/-- An unsupported request: it counts in BADREQ and is reported (R364); as an advisory error where it has a completion
(R379). -/
def State.badReq (s : State) (p f : Nat) (completes : Bool := false) : State :=
  (s.count fPX_ERR_BADREQ p).aerError p f 1 completes

/-- An unsupported read completes with UR status. -/
def State.badRead (s : State) (p f : Nat) : State :=
  (s.badReq p f true).leaves p (.hostCompletion (portName p) f 1 [] false)

/-- Whether the device answers configuration requests and BAR0: from level 1, or once it has ended bank
selection unconfigured or is retired (R366). -/
def State.answersHost (s : State) : Bool := decide (1 ≤ s.level) || s.flag fMG_STAGE_UNCONF || s.rs.retired

/-- Whether BAR2 and BAR4 are served (R366, R437). -/
def State.servesMemory (s : State) : Bool := decide (2 ≤ s.level) && !s.rs.standby

/-- Whether a memory request reaches a function at all: it is present and its Memory Space Enable is set (R379). -/
def State.reaches (s : State) (p f : Nat) : Bool := s.fnPresent p f && (s.fnCfg p f).mse && !(s.fnCfg p f).d3

end Sys2Proof.Machine
end

