-- ==== Sys2Proof/Machine/Grid.lean ====
section
/-! DEFINITION. The grid of routers, the ports of a router, and the gateways of plane V (R8, R150–R152, R341). -/

namespace Sys2Proof.Machine

/-! ### The grid (R8, R150, R151) -/

/-- Grid position of a core's router (R8). -/
def gridX (r : Nat) : Nat := r / 32 % 6 * 4 + r % 32 % 4
def gridY (r : Nat) : Nat := r / 32 / 6 * 8 + r % 32 / 4

/-- The core at a grid position. -/
def coreAt (x y : Nat) : Nat := (y / 8 * 6 + x / 4) * 32 + (y % 8 * 4 + x % 4)

/-- The router a slice attaches to (R151). -/
def sliceRouter (sl : Nat) : Nat := sl / 8 * 32 + 4 * (sl % 8) + sl % 8 % 4

/-- The slice at a router's port D, if any (R151). -/
def routerSlice (r : Nat) : Option Nat :=
  let k := r % 32 / 4
  if r % 4 = k % 4 then some (r / 32 * 8 + k) else none

/-- The router beyond a mesh port, if any (R150). -/
def neighbour (r port : Nat) : Option Nat :=
  let x := gridX r
  let y := gridY r
  match port with
  | 0 => if 0 < y then some (coreAt x (y - 1)) else none
  | 1 => if x < 23 then some (coreAt (x + 1) y) else none
  | 2 => if y < 31 then some (coreAt x (y + 1)) else none
  | 3 => if 0 < x then some (coreAt (x - 1) y) else none
  | _ => none

/-- The port at the far end of a link. -/
def opposite (port : Nat) : Nat := (port + 2) % 4

/-! ### Gateways (R152, R341) -/

/-- The units of plane V: cores 0–775, the context engine, management, slices from 1000, the SRAM, the host ports and
the link hub. -/
def unitContext : Nat := 776
def unitManagement : Nat := 777
def unitSlice (s : Nat) : Nat := 1000 + s
def unitSram : Nat := 2000
def unitHost (p : Nat) : Nat := 2001 + p
def unitHub : Nat := 2003

/-- The number nearest to a number, and the first of two as near. -/
def nearest (a : Nat) : List Nat → Nat
  | [] => 0
  | b :: rest => rest.foldl (fun n c => if max c a - min c a < max n a - min n a then c else n) b

/-- The column of the optical gateway nearest to a column: 1 + 3j for the j of R341. -/
def opticalColumn (x : Nat) : Nat := nearest x ((List.range 8).map fun j => 1 + 3 * j)

/-- The optical port whose gateway serves a router (R152, R341). -/
def opticalGateway (x y : Nat) : Nat := (opticalColumn x - 1) / 3 + (if y ≤ 15 then 0 else 8)

/-- The router at which a unit meets plane V, and its port there: L is 4, D is 5, and 6 is a gateway (R150–R152). Of the
gateways of the link hub the one is taken that R341 chooses for the router of the other end, and of several gateways of
one other block the nearest in y to it (DESIGN CHOICE, notes/assumptions/102.md). -/
def unitPort (u x y : Nat) : Nat × Nat :=
  if u < 768 then (u, 4)
  else if u < 776 ∨ u = unitSram then (coreAt 0 (nearest y [4, 12, 20, 28]), 6)
  else if u = unitContext then (coreAt 23 (nearest y [4, 12]), 6)
  else if u = unitManagement then (coreAt 23 28, 6)
  else if u = unitHost 0 then (coreAt 0 15, 6)
  else if u = unitHost 1 then (coreAt 23 15, 6)
  else if u = unitHub then (coreAt (opticalColumn x) (if y ≤ 15 then 0 else 31), 6)
  else (sliceRouter (u - 1000), 5)

/-- The ports of two units that exchange packets, each chosen for the other's router. -/
def unitEnds (a b : Nat) : (Nat × Nat) × (Nat × Nat) :=
  let near (u : Nat) : Nat × Nat := let r := (unitPort u 0 4).1; (gridX r, gridY r)
  (unitPort a (near b).1 (near b).2, unitPort b (near a).1 (near a).2)

end Sys2Proof.Machine
end

