-- ==== Sys2Proof/Machine/PlaneV.lean ====
section
/-! DEFINITION. Plane V (R150, R152–R155, R178–R180): where a packet goes, the crossings and latches of its route, and
how it moves through them. -/

namespace Sys2Proof.Machine

/-- What a local byte address names (R10). -/
inductive Target where
  | scratchpad (k offset : Nat)
  | dram
  | sram (offset : Nat)
  | register
  | host (port : Nat)
  | unmapped
  deriving DecidableEq, Repr

/-- The local address map (R10). -/
def targetOf (a : Nat) : Target :=
  if a < dramSize then .dram
  else match spPlace a, sramPlace a with
    | some (k, o), _ => .scratchpad k o
    | _, some o => .sram o
    | none, none =>
      if 0x600000000000 ≤ a ∧ a < 0x700000000000 then .register
      else if 0x700000000000 ≤ a ∧ a < 0x780000000000 then .host 0
      else if 0x780000000000 ≤ a ∧ a < 0x800000000000 then .host 1
      else .unmapped

/-- The unit that a request goes to. -/
def State.requestDest (s : State) (m : Msg) : Nat :=
  if m.ddev ≠ s.ol.devId then unitHub
  else match targetOf m.addr with
    | .scratchpad k _ => k
    | .dram => unitSlice (dramPlace m.addr).1
    | .sram _ => unitSram
    | .host p => unitHost p
    | _ => unitHub

/-- The unit that a response goes to: the relay slice that asked, or the requester (R175). -/
def responseDest (m : Msg) : Nat := if m.relay ≠ 0 ∧ m.kind = .readResp then unitSlice (m.relay - 1) else m.req

/-- Packets of one class from one source to one destination arrive in order (R179). -/
def inOrder (dest : Msg → Nat) (l : List Msg) (i : Nat) : Bool :=
  match l[i]? with
  | none => false
  | some m => (l.take i).all fun e => !(e.src == m.src && dest e == dest m)

/-! ### Routes -/

/-- A place that holds a packet on its way: the entry crossing of its source, an input latch or an output's link latch of
a router, or the exit crossing of a slice, or of a core for responses. Each class has its own (R153, R155, R178;
notes/assumptions/131.md). A request to a core waits in that core's arrivals. -/
inductive VStage where
  | crossing (unit : Nat)
  | exit (unit : Nat)
  | input (router port : Nat)
  | output (router port : Nat)
  deriving DecidableEq, Repr

/-- The routers from (x, y) on and the output taken at each: along x, then along y, then the last port (R178). -/
def routeFrom (x1 y1 last : Nat) : Nat → Nat → Nat → List (Nat × Nat)
  | 0, x, y => [(coreAt x y, last)]
  | n + 1, x, y =>
    if x < x1 then (coreAt x y, 1) :: routeFrom x1 y1 last n (x + 1) y
    else if x1 < x then (coreAt x y, 3) :: routeFrom x1 y1 last n (x - 1) y
    else if y < y1 then (coreAt x y, 2) :: routeFrom x1 y1 last n x (y + 1)
    else if y1 < y then (coreAt x y, 0) :: routeFrom x1 y1 last n x (y - 1)
    else [(coreAt x y, last)]

/-- The latches of a route that enters its first router at a port. -/
def latchesOf : Nat → List (Nat × Nat) → List VStage
  | _, [] => []
  | port, (r, o) :: rest => .input r port :: .output r o :: latchesOf (opposite o) rest

/-- The crossings and latches from one unit to another, for a class. -/
def vPath (resp : Bool) (src dst : Nat) : List VStage :=
  let (a, b) := unitEnds src dst
  .crossing src :: latchesOf a.2 (routeFrom (gridX b.1) (gridY b.1) b.2 54 (gridX a.1) (gridY a.1)) ++
    if (1000 ≤ dst ∧ dst < 2000) ∨ (resp ∧ dst < 768) then [.exit dst] else []

/-! ### Movement -/

/-- A class of plane V: requests or responses (R178). -/
def State.vClass (s : State) (resp : Bool) : List Msg := if resp then s.vResp else s.vReq

/-- Where a packet of a class goes. -/
def State.vDest (s : State) (resp : Bool) (m : Msg) : Nat := if resp then responseDest m else s.requestDest m

/-- Replaces the packets of a class. -/
def State.setClass (s : State) (resp : Bool) (l : List Msg) : State :=
  if resp then { s with vResp := l } else { s with vReq := l }

/-- Where a packet stands, if it has left its source, and where it goes next. -/
def State.vAt (s : State) (resp : Bool) (m : Msg) : Option VStage :=
  if m.hop = 0 then none else (vPath resp m.src (s.vDest resp m))[m.hop - 1]?
def State.vNext (s : State) (resp : Bool) (m : Msg) : Option VStage := (vPath resp m.src (s.vDest resp m))[m.hop]?

/-- The packets of a class that stand at a place. -/
def State.vStanding (s : State) (resp : Bool) (v : VStage) : List Msg :=
  (s.vClass resp).filter fun m => s.vAt resp m == some v

/-- The input ports of a router at which packets of a class stand that go to one of its outputs. -/
def State.vWanting (s : State) (resp : Bool) (r o : Nat) : List Nat :=
  (s.vClass resp).filterMap fun m =>
    match s.vAt resp m with
    | some (.input r' p) => if r' = r ∧ s.vNext resp m = some (.output r o) then some p else none
    | _ => none

/-- The key of an output of plane V and a class. -/
def vTurnKey (r o : Nat) (resp : Bool) : Nat := (r * 7 + o) * 2 + (if resp then 1 else 0)

/-- The input that an output serves next within a class: in turn N, E, S, W, L, D, gateway (R178). -/
def State.vServes (s : State) (resp : Bool) (r o : Nat) : Option Nat :=
  let last := get 6 s.vTurn (vTurnKey r o resp)
  ((List.range 7).map fun d => (last + 1 + d) % 7).find? ((s.vWanting resp r o).contains ·)

/-! ### Stores of a core in its entry crossing (R155, R268, R269, R278) -/

/-- Whether an address lies in the register region or a host window: such accesses are made one at a time (R269). -/
def orderedRegion (la : Nat) : Bool :=
  match targetOf la with
  | .register => true
  | .host _ => true
  | _ => false

/-- How many stores of a buffer may leave it: up to the first to the own scratchpad, and at most one to a register or a
host window (R268, R269). -/
def storesReady (c : Nat) (ordered : Bool) : List StoreEntry → Nat
  | [] => 0
  | e :: r =>
    let own := match targetOf e.la with | .scratchpad k _ => k == c | _ => false
    if own || (ordered && orderedRegion e.la) then 0 else 1 + storesReady c (ordered || orderedRegion e.la) r

/-- The beats of a core's requests that stand in its entry crossing. -/
def State.crossingBeats (s : State) (c : Nat) : Nat := ((s.vStanding false (.crossing c)).map packetBeats).sum

/-- The stores of a core's buffer that have entered the entry crossing of plane V, which keeps a place for each until it is
acknowledged (R155, R278; notes/assumptions/46.md). -/
def State.storesEntered (s : State) (c : Nat) : Nat := min (storesReady c false (s.core c).stores) (4 - s.crossingBeats c)

/-- Whether a store of its core that entered the crossing before a packet, and goes to the same home, is not yet
acknowledged (R179). -/
def State.storesBefore (s : State) (m : Msg) : Bool :=
  let x := s.core m.src
  decide (m.src < 776) && (x.stores.take (m.stores - x.stored)).any fun e =>
    s.requestDest { ddev := s.ol.devId, addr := e.la } == s.requestDest m

/-- Whether a request of a core that entered the crossing before its oldest store, and goes to the same home, is not yet
served (R179). -/
def State.requestsBefore (s : State) (c : Nat) (e : StoreEntry) : Bool :=
  let home := s.requestDest { ddev := s.ol.devId, addr := e.la }
  let same (m : Msg) : Bool := m.src == c && decide (m.stores ≤ (s.core c).stored)
  (s.vReq.any fun m => same m && m.hop != 0 && s.requestDest m == home) ||
    match targetOf e.la with
    | .scratchpad k _ => (get [] (s.spOf k).arrivals 3).any same
    | .host p => (s.pxOf p).inbox.any same
    | _ => false

/-! ### Moving on -/

/-- Whether packet i of a class may enter its next place now: crossings keep their order and hold 4 beats, a latch holds
one packet, and an output serves responses before requests and its inputs in turn (R153, R155, R178). -/
def State.vMayMove (s : State) (resp : Bool) (i : Nat) (m : Msg) (v : VStage) : Bool :=
  let first := m.hop > 1 || ((s.vClass resp).take i).all fun e => !(e.src == m.src && e.hop == m.hop)
  let room (n : Nat) : Bool := decide (((s.vStanding resp v).map packetBeats).sum + packetBeats m + n ≤ 4)
  first && match v with
    | .crossing u => room (if u < 776 ∧ !resp then s.storesEntered u else 0)
    | .exit _ => room 0
    | .input _ _ => (s.vStanding resp v).isEmpty
    | .output r o => (s.vStanding resp v).isEmpty && (resp || (s.vWanting true r o).isEmpty) &&
        (match s.vAt resp m with | some (.input _ p) => s.vServes resp r o == some p | _ => false)

/-- A packet that enters a place. One that enters its core's crossing does so behind the stores there. -/
def State.vEntered (s : State) (m : Msg) : Msg :=
  { m with
    hop := m.hop + 1
    stores := if m.hop = 0 ∧ m.src < 776 then (s.core m.src).stored + s.storesEntered m.src else m.stores }

/-- Packet i of a class enters a place: the packets of the class after that, and its number among them. In an exit crossing
it stands behind those that are there. -/
def State.vEnter (s : State) (resp : Bool) (i : Nat) (m : Msg) (v : VStage) : Nat × List Msg :=
  let l := s.vClass resp
  match v with
  | .exit _ =>
    let here (e : Msg) : Bool := s.vAt resp e == some v
    let rest := l.drop (i + 1)
    let ahead := l.take i ++ rest.filter here
    (ahead.length, ahead ++ s.vEntered m :: rest.filter fun e => !here e)
  | _ => (i, l.set i (s.vEntered m))

/-- Packet i of a class moves by one place, if it may: whether it does, and its number then. -/
def State.vHop (s : State) (resp : Bool) (i : Nat) : Bool × Nat × State :=
  match (s.vClass resp)[i]? with
  | none => (false, i, s)
  | some m =>
    match s.vNext resp m with
    | none => (false, i, s)
    | some v =>
      if !s.vMayMove resp i m v then (false, i, s)
      else
        let (j, l) := s.vEnter resp i m v
        let s := match v, s.vAt resp m with
          | .output r o, some (.input _ p) => { s with vTurn := put 6 s.vTurn (vTurnKey r o resp) p }
          | _, _ => s
        (true, j, s.setClass resp l)

/-- Packet i of a class moves as far as it may: its number then. -/
def State.vMove (s : State) (resp : Bool) (i : Nat) : Nat → Nat × State
  | 0 => (i, s)
  | n + 1 => match s.vHop resp i with
    | (false, j, t) => (j, t)
    | (true, j, t) => t.vMove resp j n

/-- A bound above the places of every route: 54 links and the ends. -/
def hopFuel : Nat := 112

/-- Packet i of a class travels towards its destination: its number, when it stands before it and first in its
crossing. -/
def State.vTravel (s : State) (resp : Bool) (i : Nat) : Option Nat × State :=
  let (j, t) := s.vMove resp i hopFuel
  (match (t.vClass resp)[j]? with
    | some m =>
      if (t.vNext resp m).isNone && (((t.vClass resp).take j).all fun e => t.vAt resp e != t.vAt resp m) then some j
      else none
    | none => none, t)

/-! ### Sending and taking -/

/-- Sends a request on plane V. -/
def State.sendV (s : State) (m : Msg) : State := { s with vReq := s.vReq ++ [{ m with hop := 0 }] }

/-- Sends a response: on plane V, or through the hub to another device. -/
def State.sendResp (s : State) (m : Msg) : State :=
  if m.ddev = s.ol.devId then { s with vResp := s.vResp ++ [{ m with hop := 0 }] } else s.toHub m

/-- Takes response i off its way. -/
def State.takeResp (s : State) (i : Nat) : State := { s with vResp := dropAt s.vResp i }

/-- Takes request i off its way. -/
def State.takeReq (s : State) (i : Nat) : State := { s with vReq := dropAt s.vReq i }

end Sys2Proof.Machine
end

