-- ==== Sys2Proof/Machine/Fabric.lean ====
section
/-! DEFINITION. The homes that plane V reaches, and what its responses do to a DMA channel: acknowledgements, refusals,
stops and halts (R133, R144–R146, R173, R174, R334–R336). -/

namespace Sys2Proof.Machine

/-! ### Answers -/

/-- The answer to a request: back to its sender, with its number and tag. -/
def State.answerTo (s : State) (unit : Nat) (m : Msg) (kind : MsgKind) : Msg :=
  { kind := kind, ddev := m.sdev, sdev := s.ol.devId, req := m.req, chan := m.chan, tag := m.tag
    addr := m.addr, stepNo := m.stepNo, dest := m.dest, acc := m.acc, len := m.len, last := m.last
    gen := m.gen, relay := m.relay, part := m.part, src := unit, vc := m.vc
    count := if kind = .readResp then m.count else 1 }

/-- An acknowledgement of one write (R173, R335). -/
def State.ack (s : State) (unit : Nat) (m : Msg) : State := s.sendResp (s.answerTo unit m .ack)

/-- A refusal by an aperture, or an access error with the DMA cause it gives (R146, R336). -/
def State.refuse (s : State) (unit : Nat) (m : Msg) (reason error : Nat) : State :=
  s.sendResp { s.answerTo unit m .refusal with
    reason := reason, error := error, route := if error ≠ 0 ∧ m.sdev ≠ s.ol.devId then 5 else 0 }

/-- A read response (R156, R334). -/
def State.respond (s : State) (unit : Nat) (m : Msg) (data : List Byte) (poison : Bool := false) : State :=
  s.sendResp { s.answerTo unit m .readResp with data := data, poison := poison }

/-! ### Halting a channel -/

/-- The side key of a router's port on a stream plane. -/
def sideKey (r p port : Nat) (out : Bool) : Nat := ((r * 3 + p) * 6 + port) * 2 + (if out then 1 else 0)

/-- The entry of a table at an index. A side with no table holds IDLE at entry 0 (R387). -/
def State.tableEntry (s : State) (key i : Nat) : Nat :=
  (get 0 s.tables (key * 256 + i)).toNat ^^^ (if i = 0 then 0xC0000000 else 0)

/-- The cursor of a side: its entry and its two loop counters. -/
structure Cursor where
  entry : Nat
  left0 : Option Nat
  left1 : Option Nat
  deriving DecidableEq, Repr

/-- A LOOP entry of either kind of table (R159). -/
def Cursor.loop (c : Cursor) (lvl : Bool) (back countm1 : Nat) : Cursor :=
  let left := if lvl then c.left1 else c.left0
  let n := left.getD countm1
  let put (c : Cursor) (v : Option Nat) : Cursor := if lvl then { c with left1 := v } else { c with left0 := v }
  if 0 < n then put { c with entry := back } (some (n - 1))
  else put { c with entry := (c.entry + 1) % 256 } none

/-- Follows LOOP and WRAP entries of a router table to the next BEATS entry; none for an IDLE table (R159).
The fuel exceeds every run of the two nested loop counters. -/
def resolveSide (tab : Nat → Nat) : Nat → Cursor → Option Cursor
  | 0, _ => none
  | n + 1, c =>
    let e := tab c.entry
    match bits e 31 30 with
    | 0 => some c
    | 1 => resolveSide tab n (c.loop (bit e 29) (bits e 28 21) (bits e 15 0))
    | 2 => resolveSide tab n { c with entry := 0 }
    | _ => none

/-- A bound above every walk through the two loop counters. -/
def loopFuel : Nat := 0x400000000

def Side.cursor (x : Side) : Cursor := ⟨x.entry, x.left0, x.left1⟩
def Side.at_ (x : Side) (c : Cursor) : Side := { x with entry := c.entry, left0 := c.left0, left1 := c.left1 }
def State.sideOf (s : State) (key : Nat) : Side := get {} s.sides key
def State.setSide (s : State) (key : Nat) (x : Side) : State := { s with sides := put {} s.sides key x }

/-- The BEATS entry a side is at: the side moved to it, and the entry. -/
def State.current (s : State) (key : Nat) : Option (Side × Nat) :=
  let x := s.sideOf key
  (resolveSide (s.tableEntry key) loopFuel x.cursor).map fun c => (x.at_ c, s.tableEntry key c.entry)

/-- Whether a channel has a read outstanding of the chain in progress. -/
def Chan.reading (c : Chan) : Bool := c.reads.any (!·.orphan)

/-- Whether every access that a channel has issued has ended (R144). -/
def Chan.settled (c : Chan) : Bool :=
  !c.reading && c.unacked == 0 && c.remoteOut.isEmpty && c.outbox.isEmpty

/-- The plane of a descriptor (R131). -/
def descPlane (d : List Half) : Nat := bits (wordAt d 0) 9 8

/-- Beats of a BEATS entry minus 1: 11 bits at an L input, else 16 (R158). -/
def entryCount (e port : Nat) (out : Bool) : Nat := if port = 4 ∧ !out then bits e 10 0 else bits e 15 0

/-- The beats that stand in the entry crossing of a core on a stream plane (R155). -/
def State.crossing (s : State) (k p : Nat) : List Msg := get [] (s.dmOf k).crossings p
def State.setCrossing (s : State) (k p : Nat) (l : List Msg) : State :=
  s.modDm k fun d => { d with crossings := put [] d.crossings p l }

/-- Marks the ingress entries that name a halted or abandoned channel for void fill (R172). A descriptor of
the chain that requests reads has void requests in their place. -/
def State.voidFill (s : State) (k ch : Nat) (reads : Bool) : State :=
  (List.range 3).foldl (fun t p =>
    let key := sideKey k p 4 false
    match t.current key with
    | some (x, e) =>
      if (if bit e 23 then 1 else 0) = ch ∧ s.level ≥ 1 then
        t.setSide key { x with voiding := some (x.voiding.getD reads) }
      else t
    | none => t) s

/-- Whether the traffic of a channel requests DRAM reads. A chain whose first descriptor never started says
nothing about it: the choice is free. -/
def State.chanReads (s : State) (k ch : Nat) : Bool × State :=
  let c := s.chan k ch
  match c.outbox.map (·.2) ++ (s.crossing k c.plane).filter (·.chan == ch) with
  | m :: _ => (m.kind == .readReq, s)
  | [] =>
    match c.reads with
    | _ :: _ => (true, s)
    | [] => (Config.freeBool s.freeCount, { s with freeCount := s.freeCount + 1 })

/-- The rectangles of a channel's descriptor are released once it has issued its beats and its reads have ended (R138). -/
def State.chanRelease (s : State) (k ch : Nat) : State :=
  let c := s.chan k ch
  if c.outbox = [] ∧ !c.reading then s.sbRelease k (.channel ch) else s

/-- Writes DM_CHn_ERR and its address registers (R146, R149); a new event overwrites them (R75). -/
def State.dmaErr (s : State) (k ch cause reason didx : Nat) (dev : Half) (addr : Nat) : State :=
  let s := s.setReg .dmChErr k ch (0x80000000 + cause * 0x8000000 + didx % 16 * 0x800000 + reason)
  let s := s.setReg .dmChErraddrLo k ch (addr % 0x100000000)
  s.setReg .dmChErraddrHi k ch (dev.toNat * 0x10000 + addr / 0x100000000 % 0x10000)

/-- A channel drops the beats it has not issued, and its reads from the first that they request on. -/
def Chan.drop (c : Chan) : Chan :=
  let unsent (r : PendingRead) : Bool := !r.remote && c.outbox.any fun b => b.2.kind == .readReq && b.2.tag == r.tag
  { c with outbox := [], reads := (c.reads.takeWhile fun r => r.orphan || !unsent r).filter (!unsent ·) }

/-- Halts a channel (R146): beats already in its entry crossing go on. A later event of a halted channel is recorded and
raised as well. -/
def State.dmaHalt (s : State) (k ch cause reason didx : Nat) (dev : Half) (addr : Nat) : State :=
  let t :=
    if (s.chan k ch).halted then s.dmaErr k ch cause reason didx dev addr
    else
      let (reads, s) := s.chanReads k ch
      let s := s.dmaErr k ch cause reason didx dev addr
      let s := s.voidFill k ch reads
      let s := s.modChan k ch fun c => { c.drop with halted := true, stop := none, stopping := false, finishing := false }
      s.chanRelease k ch
  t.raise k 10 (3 + ch) cause

/-- Records the stopped position of a channel in its registers (R144, R149). -/
def State.recordStop (s : State) (k ch : Nat) : State :=
  let c := s.chan k ch
  let s := s.setReg .dmChProg k ch (c.x * 0x10000 + c.y * 0x100 + c.z)
  let s := s.setReg .dmChProgx k ch (0x80000000 + c.didx % 16 * 0x10000)
  s.setChan k ch { c with stopped := true, stopping := false }

/-- A poisoned granule of the own scratchpad stops a channel: the position is recorded, the engine holds, and the core
takes a scratchpad fault (R107). -/
def State.poisonStop (s : State) (k ch g v : Nat) : State :=
  let s := (s.modChan k ch fun c => { c with stop := none }).recordStop k ch
  (s.modDm k fun d => { d with held := true }).engineSpFault k (3 + ch) 1 0 0 (g / 32) (wordOfByte v)

/-- What a channel does once accesses of it have ended: its rectangles are released, a halt is taken when every beat before
it has been issued, a poisoned granule when every access before it has ended, and a hold then records its position
(R107, R138, R144, R146). A page fault is taken by DMA_PAGE_FAULT. -/
def State.chanSettle (s : State) (k ch : Nat) : State :=
  let s := s.chanRelease k ch
  let c := s.chan k ch
  match c.stop with
  | some (.halt cause reason dev a) => if c.outbox = [] then s.dmaHalt k ch cause reason c.didx dev a else s
  | some (.poison g v) => if c.settled then s.poisonStop k ch g v else s
  | some (.page _ _) => s
  | none => if c.stopping ∧ c.settled then s.recordStop k ch else s

/-- The beats of a channel that may enter the entry crossing of a plane now: those that the current L-input entry, if it names
the channel, has left for it, and no more than the crossing has places (R155, R171; DEDUCED, notes/assumptions/145.md). An
entry that is filled with voids takes none (R172). -/
def State.entryRoom (s : State) (k ch p : Nat) : Nat :=
  let here := (s.crossing k p).length
  match s.current (sideKey k p 4 false) with
  | some (x, e) =>
    if (if bit e 23 then 1 else 0) = ch ∧ x.voiding = none then
      min (4 - here) (entryCount e 4 false + 1 - x.moved - oneIf x.latch.isSome 1 - here)
    else 0
  | none => 0

/-- Beats of a channel are issued into the entry crossing of their plane, in order, as far as it takes them. A write counts
as sent from then on (R173). -/
def State.issueBeats (s : State) (k ch : Nat) : Nat → State
  | 0 => s
  | n + 1 =>
    match (s.chan k ch).outbox with
    | [] => s
    | (p, m) :: rest =>
      if s.entryRoom k ch p = 0 then s
      else
        ((s.modChan k ch fun c => { c with outbox := rest, unacked := c.unacked + oneIf (m.kind == .write) 1 }).setCrossing
          k p (s.crossing k p ++ [m])).issueBeats k ch n

/-- Beats of a channel are issued, and the channel does what it waited with for that. -/
def State.chanIssue (s : State) (k ch : Nat) : State :=
  (s.issueBeats k ch (s.chan k ch).outbox.length).chanSettle k ch

/-! ### Acknowledgements and refusals reach their channel -/

/-- A channel takes an acknowledgement of this device or of another one. Writes of a dropped chain count no more. -/
def Chan.acked (c : Chan) (here : Bool) (m : Msg) : Chan :=
  if here then
    if m.tag < c.base then c else { c with unacked := c.unacked - m.count }
  else
    match c.remoteOut.findIdx? (·.tag == m.tag) with
    | none => c
    | some i =>
      let mine := (c.remoteOut.take (i + 1)).filter fun w => (c.remoteOut[i]?).any (·.dev == w.dev)
      let gone := mine.drop (mine.length - m.count)
      { c with remoteOut := c.remoteOut.filter (!gone.contains ·) }

/-- An acknowledgement reaches its channel (R173, R335). -/
def State.chanAck (s : State) (m : Msg) : State :=
  if m.chan ≥ 2 then s
  else
    (s.modChan m.req m.chan fun c => c.acked (decide (m.sdev = s.ol.devId)) m).chanSettle m.req m.chan

/-- What a refusal halts the channel with (R146, R336): cause and reason. -/
def refusalCause (m : Msg) (remote : Bool) : Nat × Nat :=
  if m.error ≠ 0 ∧ !remote then (m.error, 0)
  else if m.route = 0 then (5, m.reason) else (6, 0)

/-- A refusal reaches its channel (R146, R174, R336). -/
def State.chanRefusal (s : State) (m : Msg) : State :=
  if m.chan ≥ 2 then s
  else
    let c := s.chan m.req m.chan
    let remote := decide (m.sdev ≠ s.ol.devId)
    let (cause, reason) := refusalCause m remote
    match c.reads.find? fun r => r.remote == remote && r.tag == m.tag with
    | some r =>
      let s := s.setChan m.req m.chan { c with reads := c.reads.erase r }
      (if r.orphan then s else s.dmaHalt m.req m.chan cause reason r.didx r.dev r.addr).chanSettle m.req m.chan
    | none =>
      if remote then
        match c.remoteOut.find? (·.tag == m.tag) with
        | none => s
        | some w =>
          (s.setChan m.req m.chan { c with remoteOut := c.remoteOut.erase w }).dmaHalt m.req m.chan
            cause reason w.didx w.dev w.addr
      else if m.tag < c.base then s
      else
        (s.setChan m.req m.chan { c with unacked := c.unacked - 1 }).dmaHalt m.req m.chan
          cause reason m.stepNo s.ol.devId m.addr

/-- A stream-plane write is accepted by its home (R173): one acknowledgement for 32 of them, and one for the
last of a descriptor to that home. -/
def State.streamAck (s : State) (unit : Nat) (m : Msg) : State :=
  let c := s.chan m.req m.chan
  if m.tag < c.base then s
  else
    let n := get 0 c.owed unit + 1
    if m.last ∨ n = 32 then
      (s.setChan m.req m.chan { c with owed := put 0 c.owed unit 0 }).sendResp
        { s.answerTo unit m .ack with count := n }
    else s.setChan m.req m.chan { c with owed := put 0 c.owed unit n }

/-! ### Homes -/

/-- Serves a request at DRAM or SRAM: the state after, or a wait (R133, R252). A relayed write is acknowledged as its
sender's other beats to this home are (R173, R175), and a relayed read that is uncorrectable is answered with poison
(R312, R313). -/
def State.serveMemory (s : State) (unit : Nat) (m : Msg) : Option State :=
  if m.sdev ≠ s.ol.devId then some (s.refuse unit m 0 6)
  else
    let done (r : Reply Unit) (t : State) : Option State :=
      match r with
      | .wait => none
      | .ok _ => some (if m.relay ≠ 0 then t.streamAck unit m else t.ack unit m)
      | .err _ => some (t.refuse unit m 0 6)
    let back (r : Reply (List Byte)) (t : State) : Option State :=
      match r with
      | .wait => none
      | .ok d => some (t.respond unit m d)
      | .err _ => some (if m.relay ≠ 0 then t.respond unit m (List.replicate m.len 0) true else t.refuse unit m 0 6)
    match targetOf m.addr, m.kind with
    | .dram, .write => let (r, t) := s.dramWrite m.addr m.data m.be; done r t
    | .dram, _ => let (r, t) := s.dramRead m.addr m.len; back r t
    | .sram o, .write => let (r, t) := s.sramWrite o m.data m.be; done r t
    | .sram o, _ => back (s.sramRead o m.len) s
    | _, _ => some s

/-! ### Slices: what their schedule allows -/

/-- The schedule of a slice with no item: REFRESH 8 slots, SVC 56 slots and WRAP (R387). -/
def defaultSchedule (i : Nat) : Nat :=
  match i with
  | 0 => 0x40000007
  | 1 => 0x20000037
  | 2 => 0xA0000000
  | _ => 0

/-- The entry of a slice schedule at an index. -/
def State.sliceEntry (s : State) (sl i : Nat) : Nat := (get 0 s.schedules (sl * 256 + i)).toNat ^^^ defaultSchedule i

/-- Follows LOOP and WRAP entries of a slice schedule (R161). -/
def resolveSlice (tab : Nat → Nat) : Nat → Cursor → Option Cursor
  | 0, _ => none
  | n + 1, c =>
    let e := tab c.entry
    match bits e 31 29 with
    | 4 => resolveSlice tab n (c.loop (bit e 28) (bits e 27 20) (bits e 15 0))
    | 5 => resolveSlice tab n { c with entry := 0 }
    | 6 => none
    | 7 => none
    | _ => some c

def Slice.cursor (x : Slice) : Cursor := ⟨x.entry, x.left0, x.left1⟩
def Slice.at_ (x : Slice) (c : Cursor) : Slice := { x with entry := c.entry, left0 := c.left0, left1 := c.left1 }

/-- The entry a slice schedule is at. -/
def State.sliceNow (s : State) (sl : Nat) : Option (Slice × Nat) :=
  let x := s.slice sl
  (resolveSlice (s.sliceEntry sl) loopFuel x.cursor).map fun c => (x.at_ c, s.sliceEntry sl c.entry)

/-- One item of the current entry is done; the schedule moves on when it was the last (R162). -/
def Slice.advance (x : Slice) (e : Nat) : Slice :=
  if bits e 15 0 ≤ x.moved then { x with entry := (x.entry + 1) % 256, moved := 0 }
  else { x with moved := x.moved + 1 }

/-- Whether the D-input crossing of a plane takes what a slice itself answers: it has a place of its 4, and no response to a
relayed read comes first (R155, R162, R175). -/
def Slice.answersNow (x : Slice) (p : Nat) : Bool := get [] x.relaySeq p == [] && decide ((get [] x.outq p).length < 4)

/-- Whether a slice has room for what its STREAM window owes for a beat: a place of the D-input crossing for a response or
a void, and one of the 64 relayed accesses (R155, R162, R175). -/
def beatFits (x : Slice) (sl p : Nat) (m : Msg) : Bool :=
  let here := (dramPlace m.addr).1 == sl
  match m.kind with
  | .readReq => if here then x.answersNow p else decide (x.relayed < 64)
  | .write => here || decide (x.relayed < 64)
  | _ => m.len == 0 || x.answersNow p

/-- The responses to relayed reads that have come go into the D-input crossing in their order, as far as it has places; each
frees its place among the 64 (R175; DEDUCED, notes/assumptions/146.md). -/
def Slice.fillOut (x : Slice) (p : Nat) : Nat → Slice
  | 0 => x
  | n + 1 =>
    match get [] x.relaySeq p with
    | .ready m :: rest =>
      if 4 ≤ (get [] x.outq p).length then x
      else Slice.fillOut { x with
        relaySeq := put [] x.relaySeq p rest, outq := put [] x.outq p (get [] x.outq p ++ [m]), relayed := x.relayed - 1 } p n
    | _ => x

/-- Whether a STREAM window of a plane waits: for a beat, for the D-input crossing or for a relay's place (R162, R183). -/
def Slice.streamWaits (x : Slice) (sl p : Nat) : Bool :=
  match get [] x.inq p with
  | [] => true
  | m :: _ => !beatFits x sl p m

/-- Whether a slice serves plane V now: in an SVC window, in a refresh slot that no refresh needs, or
while a STREAM window waits (R162). -/
def State.sliceServesV (s : State) (sl : Nat) : Bool :=
  s.level ≥ 2 &&
    match s.sliceNow sl with
    | none => true
    | some (x, e) =>
      match bits e 31 29 with
      | 0 => x.streamWaits sl (bits e 28 27)
      | 1 => true
      | 2 => x.debt == 0
      | _ => false

/-! ### Host windows (R369–R371) -/

/-- A scalar load from a host window has ended: with its data, or with an error. -/
def State.endHostLoad (s : State) (c : Nat) (d : Option (List Byte)) : State :=
  s.modCore c fun x => { x with
    hostLoads := x.hostLoads.map fun l => if l.got = none then { l with got := some d } else l }

/-- An access to a host window fails: DMA cause 0x8, or access error cause 0x5 to a core (R369, R371). -/
def State.hostFails (s : State) (p : Nat) (m : Msg) : State :=
  if m.chan < 2 then s.refuse (unitHost p) m 0 8
  else s.endHostLoad m.req none

/-- Sub-window n of a port: the function and the host address of an offset, unless no access reaches the link
(R369). -/
def State.hostPlace (s : State) (a : Nat) : Option (Nat × Nat) :=
  let p := if a < 0x780000000000 then 0 else 1
  let o := a % 0x80000000000
  let n := o / 0x8000000000
  let f := s.fld fPX_HW_CTL_FUNC p n
  if s.flag fPX_HW_CTL_VALID p n ∧ f ≤ 16 ∧ s.fnPresent p f ∧ (s.fnCfg p f).bme ∧ !(s.fnCfg p f).d3
      ∧ (s.pxOf p).linkUp then
    some (f, s.reg .pxHwBaseLo p n + s.reg .pxHwBaseHi p n * 0x100000000 + o % 0x8000000000)
  else none

/-- Whether a write of sub-window n carries relaxed ordering (R370). -/
def State.hostRelaxed (s : State) (a f : Nat) : Bool :=
  let p := if a < 0x780000000000 then 0 else 1
  s.flag fPX_HW_CTL_RO p (a % 0x80000000000 / 0x8000000000) && (s.fnCfg p f).ero

/-- Accepts a write of contiguous bytes into a port's transmit order: acceptance completes it (R371). It is a request of
its own (R370): an access lies within one 128-byte block and a sub-window begins at a multiple of 4 KiB, so it crosses no
4 KiB boundary and is within every max payload size and max read request size. -/
def State.hostAccept (s : State) (a : Nat) (data : List Byte) : Option State :=
  let p := if a < 0x780000000000 then 0 else 1
  (s.hostPlace a).map fun (f, h) =>
    s.modPx p fun x => { x with tx := x.tx ++ [⟨f, h, data, s.hostRelaxed a f, none⟩] }

/-- A tag that no outstanding read of the port carries, the next ones first (R360). -/
def PxPort.freeTag (x : PxPort) : Nat :=
  (((List.range 1024).map fun i => (x.tag + i) % 1024).find? fun g => !x.reads.any (·.tag == g)).getD x.tag

/-- The first read of a port's inbox leaves, behind every accepted write (R373), while nothing stands before it and tags
are free (R360, R370). -/
def State.issueReads (s : State) (p : Nat) : Nat → State
  | 0 => s
  | fuel + 1 =>
    let x := s.pxOf p
    match x.inbox with
    | [] => s
    | m :: rest =>
      if m.kind ≠ .readReq ∨ 512 ≤ x.reads.length then s
      else
        let s := s.setPx p { x with inbox := rest }
        match s.hostPlace m.addr with
        | none => (s.hostFails p m).issueReads p fuel
        | some (f, h) =>
          let tag := x.freeTag
          let s := s.setPx p { x with inbox := rest, tag := (tag + 1) % 1024, reads := x.reads ++ [⟨tag, f, m, []⟩] }
          (s.leaves p (.hostReadReq (portName p) f h m.len tag)).issueReads p fuel

/-- An access arrives at a port: it waits its turn, and reads with nothing before them leave. -/
def State.portArrival (s : State) (p : Nat) (m : Msg) : State :=
  let s := s.modPx p fun x => { x with inbox := x.inbox ++ [m] }
  s.issueReads p (s.pxOf p).inbox.length

/-! ### Serving plane V -/

/-- A relay's access has ended (R175). -/
def State.relayEnds (s : State) (m : Msg) : State :=
  if m.relay ≠ 0 ∧ m.kind = .write then s.modSlice (m.relay - 1) fun x => { x with relayed := x.relayed - 1 } else s

/-- Request i, which stands before its destination, is served there (R178). A destination with no room, a slice whose
schedule gives no slot and DRAM before level 2 leave it standing. -/
def State.serveRequest (s : State) (i : Nat) (m : Msg) : State :=
  let t := s.takeReq i
  if m.ddev ≠ s.ol.devId then t.toHub m
  else match targetOf m.addr with
    | .scratchpad k _ =>
      if !s.exitRoom k 3 (packetBeats m) then s
      else t.modSp k fun p => { p with arrivals := put [] p.arrivals 3 (get [] p.arrivals 3 ++ [m]) }
    | .dram =>
      let sl := (dramPlace m.addr).1
      if !s.sliceServesV sl then s
      else ((t.serveMemory (unitSlice sl) m).map fun u => u.relayEnds m).getD s
    | .sram _ => (t.serveMemory unitSram m).getD s
    | .host p => t.portArrival p m
    | _ => t.refuse unitHub m 0 6

/-- SERVICE_PACKET: request i of plane V travels to its destination and is served there (R178–R180). A packet that cannot
go on stays in the latch it has reached. One stands before its destination while a store of its core that went before it to
the same home is not acknowledged (R179). -/
def State.servicePacket (s : State) (i : Nat) : State :=
  match s.vReq[i]? with
  | none => s
  | some m =>
    if !inOrder s.requestDest s.vReq i then s
    else match s.vTravel false i with
      | (some j, t) =>
        let m := (t.vReq[j]?).getD m
        if t.storesBefore m then t else t.serveRequest j m
      | (none, t) => t

def execServicePacket (index : Nat) (s : State) : Host.Outcome State Fault Refusal :=
  .next (s.servicePacket index)

/-- Response i of plane V travels to its destination: the state in which it has been taken off its way, when it has
arrived, or else the one in which it has come as far as it could. -/
def State.responseTravels (s : State) (i : Nat) : Bool × State :=
  match s.vTravel true i with
  | (some j, t) => (true, t.takeResp j)
  | (none, t) => (false, t)

/-- Response i of plane V, of a kind, reaches its channel. -/
def State.channelResponse (s : State) (i : Nat) (kind : MsgKind) (f : State → Msg → State) : State :=
  match s.vResp[i]? with
  | none => s
  | some m =>
    if m.kind = kind ∧ inOrder responseDest s.vResp i then
      match s.responseTravels i with
      | (true, t) => f t m
      | (false, t) => t
    else s

def execAcknowledgement (index : Nat) (s : State) : Host.Outcome State Fault Refusal :=
  .next (s.channelResponse index .ack State.chanAck)
def execRefusal (index : Nat) (s : State) : Host.Outcome State Fault Refusal :=
  .next (s.channelResponse index .refusal State.chanRefusal)

end Sys2Proof.Machine
end

