-- ==== Sys2Proof/Machine/Dma.lean ====
section
/-! DEFINITION. The DMA engine (06_dma_engine.md): chains, descriptors, slot-indirect sides, and what a
channel does with the answers of homes. A descriptor's runs are carried out by one command, or up to a boundary at which
a hold stops them; the accesses it makes outside the own scratchpad travel as packets or beats of their own. -/

namespace Sys2Proof.Machine

/-! ### The descriptor (R131) -/

/-- A decoded descriptor. -/
structure Desc where
  ind   : Nat
  cvt   : Bool
  acc   : Bool
  accop : Nat
  plane : Nat
  rm    : Nat
  ssh   : Nat
  dsh   : Nat
  fmts  : Nat
  fmtd  : Nat
  gen   : Nat
  sdev  : Nat
  saddr : Nat
  ddev  : Nat
  daddr : Nat
  xlen  : Nat
  ycnt  : Nat
  zcnt  : Nat
  sys   : Int
  dys   : Int
  szs   : Int
  dzs   : Int
  deriving DecidableEq, Repr

/-- The fields of a descriptor's 16 words (R131). -/
def descOf (w : List Half) : Desc :=
  let w0 := wordAt w 0
  let w1 := wordAt w 1
  { ind := bits w0 15 14, cvt := bit w0 13, acc := bit w0 12, accop := bits w0 11 10
    plane := bits w0 9 8, rm := bits w0 7 6, ssh := bits w0 5 3, dsh := bits w0 2 0
    fmts := bits w1 15 12, fmtd := bits w1 11 8, gen := bits w1 7 0
    sdev := wordAt w 2, saddr := addrAt w 3, ddev := wordAt w 6, daddr := addrAt w 7
    xlen := wordAt w 10 + 1, ycnt := bits (wordAt w 11) 15 8 + 1, zcnt := bits (wordAt w 11) 7 0 + 1
    sys := signedOf 16 (wordAt w 12), dys := signedOf 16 (wordAt w 13)
    szs := signedOf 16 (wordAt w 14), dzs := signedOf 16 (wordAt w 15) }

/-- Bytes of an element of a format code. -/
def codeBytes (c : Nat) : Nat := match fmtOfCode c with | some f => fmtBits f / 8 | none => 1

/-- Element sizes at the source and at the destination (R132). -/
def Desc.esS (d : Desc) : Nat := if d.cvt then codeBytes d.fmts else 1
def Desc.esD (d : Desc) : Nat := if d.cvt then codeBytes d.fmtd else 1

/-- Destination bytes of n source bytes (R135). -/
def Desc.destLen (d : Desc) (n : Nat) : Nat := n * d.esD / d.esS

/-- Source and destination of run (z, y) before any wrap (R132). -/
def Desc.runSrc (d : Desc) (z y : Nat) : Int :=
  d.saddr + y * d.sys * (4 * 4 ^ d.ssh : Nat) + z * d.szs * (4 * 4 ^ d.ssh : Nat)
def Desc.runDst (d : Desc) (z y : Nat) : Int :=
  d.daddr + y * d.dys * (4 * 4 ^ d.dsh : Nat) + z * d.dzs * (4 * 4 ^ d.dsh : Nat)

/-- Least and greatest run start over the corners of the enumeration. -/
def cornerSpan (f : Nat → Nat → Int) (ycnt zcnt : Nat) : Int × Int :=
  let c := [f 0 0, f 0 (ycnt - 1), f (zcnt - 1) 0, f (zcnt - 1) (ycnt - 1)]
  (c.foldl min (f 0 0), c.foldl max (f 0 0))

/-- Whether a slot-indirect side stays inside its 2^28 bytes (R134). -/
def logicalFits (f : Nat → Nat → Int) (ycnt zcnt len : Nat) : Bool :=
  let (lo, hi) := cornerSpan f ycnt zcnt
  decide (0 ≤ lo) && decide (hi + len ≤ 0x10000000)

/-- The fields that R134 refuses with cause 0x1. -/
def Desc.malformed (d : Desc) : Bool :=
  d.ind == 3 || (d.ind == 1 && decide (511 < d.sdev)) || (d.ind == 2 && decide (511 < d.ddev)) ||
    (d.ind == 1 && !logicalFits d.runSrc d.ycnt d.zcnt d.xlen) ||
    (d.ind == 2 && !logicalFits d.runDst d.ycnt d.zcnt (d.destLen d.xlen))

/-- The floating formats a conversion may name (R135). -/
def cvtFmt (c : Nat) : Bool := decide (c ≤ 4)

/-- Whether R135 allows the conversion; strides are multiples of every element size. -/
def Desc.cvtOk (d : Desc) : Bool :=
  !d.cvt || (cvtFmt d.fmts && cvtFmt d.fmtd && d.fmts != d.fmtd && d.xlen % d.esS == 0 &&
    d.saddr % d.esS == 0 && d.daddr % d.esD == 0)

/-- Whether R136 allows an accumulation into the own scratchpad. -/
def Desc.accOk (d : Desc) : Bool :=
  d.accop != 3 && d.daddr % 4 == 0 && d.destLen d.xlen % 4 == 0 &&
    (!d.cvt || (d.fmtd == 4 && (d.accop == 0 || d.accop == 2)))

/-- The combinations that are refused whatever the sides translate to (R135, R136, R169): cause 0x2. -/
def Desc.refusedAtStart (d : Desc) (own : Nat) : Bool :=
  !d.cvtOk || (d.ind == 2 && d.acc) ||
    (d.plane != 3 && ((d.ind != 1 && d.sdev != own) || (d.ind != 2 && d.ddev != own)))

/-- What a descriptor is refused with when it starts, if anything (R134): the cause, and the device and address that
DM_CHn_ERRADDR names. No byte has failed then: they are those of the destination where the destination alone is at fault,
and those of the source otherwise (DESIGN CHOICE, notes/assumptions/106.md). -/
def Desc.startRefusal (d : Desc) (own : Half) : Option (Nat × Half × Nat) :=
  let side (dst : Bool) : Half × Nat :=
    if dst then (if d.ind == 2 then own else BitVec.ofNat 16 d.ddev, d.daddr)
    else (if d.ind == 1 then own else BitVec.ofNat 16 d.sdev, d.saddr)
  let srcBad := (d.ind == 1 && (decide (511 < d.sdev) || !logicalFits d.runSrc d.ycnt d.zcnt d.xlen)) || d.ind == 3
  let srcFar := d.plane != 3 && d.ind != 1 && d.sdev != own.toNat
  if d.malformed then some (1, side (!srcBad))
  else if d.refusedAtStart own.toNat then some (2, side (d.cvtOk && !srcFar))
  else none

/-! ### The two sides -/

/-- A page of a slot-indirect side (R140). -/
inductive KvPage where
  | present (frame : Nat)
  | absent
  | unreadable
  deriving DecidableEq, Repr

/-- How a side reaches its bytes (R133, R139): a slot-indirect one by the page-table root that its slot's context has. -/
inductive SideBind where
  | remote (dev : Half)
  | local_ (pages : List (Nat × Reply Nat))
  | emptySlot
  | lostSlot
  | slot (root : Nat)
  deriving DecidableEq, Repr

/-- What a byte of a side is. -/
inductive SideAt where
  | place (p : Place)
  | fault (cause : Nat)
  | halt (cause addr : Nat)
  deriving DecidableEq, Repr

/-- Looks a page up in a list. -/
def pageOf {α : Type} (l : List (Nat × α)) (p : Nat) : Option α := (l.find? (·.1 == p)).map (·.2)

/-- The place of the byte at an address of a local side (R133): own scratchpad, elsewhere, or refused. -/
def localPlace (k : Nat) (pages : List (Nat × Reply Nat)) (v : Nat) : SideAt :=
  match pageOf pages (v / 0x10000) with
  | some (.ok la) =>
    let a := la + v % 0x10000
    match targetOf a with
    | .scratchpad n o => .place (if n = k then .own o else .onDie a)
    | .register => .halt 3 a
    | .unmapped => .halt 3 a
    | _ => .place (.onDie a)
  | some (.err c) => .fault c
  | _ => .halt 3 v

/-- The place of a byte of a slot-indirect side whose page has an entry (R140). -/
def KvPage.at_ (e : KvPage) (isSource : Bool) (v : Nat) : SideAt :=
  match e with
  | .present f => .place (.onDie (f + v % 0x10000))
  | .unreadable => .halt 6 v
  | .absent => if isSource then .place .zeros else .halt 7 v

/-- Pages that a list of (start, length) spans reaches. -/
def pagesOfSpans (l : List (Nat × Nat)) : List Nat :=
  (l.flatMap fun p => span (p.1 / 0x10000) ((p.1 + p.2 - 1) / 0x10000 - p.1 / 0x10000 + 1)).eraseDups

/-- Translates the pages of a local side (R133); none while a walk waits. -/
def State.localPages (s : State) (k : Nat) (ring : Nat) (kind : AccessKind) (pages : List Nat) :
    Option (List (Nat × Reply Nat)) × State :=
  pages.foldl (fun (acc : Option (List (Nat × Reply Nat)) × State) p =>
    match acc.1 with
    | none => acc
    | some l =>
      match acc.2.translate k (BitVec.ofNat 48 (p * 0x8000)) kind ring with
      | (.wait, t) => (none, t)
      | (r, t) => (some (l ++ [(p, r)]), t)) (some [], s)

/-- Reads a KV page-table entry (R140, R194). A root of 0 gives an absent page, and an entry beyond DRAM cannot be read
(DEDUCED, notes/assumptions/140.md). -/
def State.kvEntry (s : State) (root p : Nat) : KvPage × State :=
  if root = 0 then (.absent, s)
  else if dramSize < root + 4 * p + 4 then (.unreadable, s)
  else match s.dramRead (root + 4 * p) 4 with
    | (.ok b, t) =>
      let e := leNat b
      (if bit e 31 ∧ bits e 30 21 = 0 ∧ bits e 20 0 ≤ 1572863 then .present (bits e 20 0 * 0x10000) else .absent, t)
    | (_, t) => (.unreadable, t)

/-- Binds a slot-indirect side to the context its slot names (R139); none before level 2. -/
def State.bindSlot (s : State) (slot : Nat) : Option SideBind × State :=
  match s.dramRead (s.pairAddr .cxSlotmapLo .cxSlotmapHi + 8 * slot) 8 with
  | (.wait, _) => (none, s)
  | (.err _, t) => (some .lostSlot, t)
  | (.ok b, t) =>
    let w := byteWord b 0
    (some (if bit w 15 then .slot (t.ctxRec (bits w 11 0)).kvroot else .emptySlot), t)

/-- Binds one side of a descriptor when it starts (R133, R139). -/
def State.bindSide (s : State) (k : Nat) (ring : Nat) (indirect : Bool) (dev : Nat) (kind : AccessKind)
    (spans : List (Nat × Nat)) : Option SideBind × State :=
  if indirect then s.bindSlot (dev % 512)
  else if dev ≠ s.ol.devId.toNat then (some (.remote (BitVec.ofNat 16 dev)), s)
  else match s.localPages k ring kind (pagesOfSpans spans) with
    | (none, t) => (none, t)
    | (some l, t) => (some (.local_ l), t)

/-- The place of the byte at an address of a side, as a source or as a destination (R133, R139, R140). The entry of a page
of a slot-indirect side is read when the transfer reaches the page, and kept to the end of the descriptor. -/
def State.sideAt (s : State) (b : SideBind) (k : Nat) (isSource : Bool) (v : Nat) (seen : List (Nat × KvPage)) :
    SideAt × List (Nat × KvPage) × State :=
  match b with
  | .remote dev => (.place (.remote dev v), seen, s)
  | .local_ pages => (localPlace k pages v, seen, s)
  | .emptySlot => (.place (if isSource then .zeros else .discard), seen, s)
  | .lostSlot => (.halt 6 v, seen, s)
  | .slot root =>
    match pageOf seen (v / 0x10000) with
    | some e => (e.at_ isSource v, seen, s)
    | none => let (e, t) := s.kvEntry root (v / 0x10000); (e.at_ isSource v, seen ++ [(v / 0x10000, e)], t)

/-! ### Runs and pieces -/

/-- A run: its indices, the offset it starts at, and its addresses. -/
structure Run where
  z : Nat
  y : Nat
  x : Nat
  src : Nat
  dst : Nat
  deriving DecidableEq, Repr

/-- An address wrapped to 48 bits. -/
def wrap48 (a : Int) : Nat := wrapTo 48 a

/-- The runs from a position on, in the order of R132. -/
def Desc.runsFrom (d : Desc) (z y x : Nat) : List Run :=
  ((List.range d.zcnt).flatMap fun z' => (List.range d.ycnt).map fun y' => (z', y')).filterMap fun p =>
    if p.1 < z ∨ (p.1 = z ∧ p.2 < y) then none
    else some ⟨p.1, p.2, if p.1 = z ∧ p.2 = y then x else 0,
      wrap48 (d.runSrc p.1 p.2), wrap48 (d.runDst p.1 p.2)⟩

/-- A piece of a run: its source offset and length, its destination length, and where both sides are. -/
structure Piece where
  x : Nat
  n : Nat
  m : Nat
  sa : Nat
  da : Nat
  src : SideAt
  dst : SideAt
  deriving DecidableEq, Repr

/-- The bytes before the next multiple of b. -/
def roomTo (b a : Nat) : Nat := b - a % b

/-- A part of a run before its places are known. -/
structure Cut where
  x  : Nat
  n  : Nat
  m  : Nat
  sa : Nat
  da : Nat
  deriving DecidableEq, Repr

/-- A part of a run with its places. -/
def Cut.piece (c : Cut) (src dst : SideAt) : Piece := ⟨c.x, c.n, c.m, c.sa, c.da, src, dst⟩

/-- Cuts a run at pages and at the aligned 128-byte blocks of the sides asked for (R139, R170). -/
def Desc.cut (d : Desc) (cutS cutD : Nat) (r : Run) : Nat → Nat → List Cut
  | 0, _ => []
  | fuel + 1, x =>
    if d.xlen ≤ x then []
    else
      let sa := (r.src + x) % 2 ^ 48
      let da := (r.dst + d.destLen x) % 2 ^ 48
      let n := min (d.xlen - x) (min (roomTo cutS sa) (max d.esS (roomTo cutD da * d.esS / d.esD)))
      ⟨x, n, d.destLen n, sa, da⟩ :: Desc.cut d cutS cutD r fuel (x + n)

/-- No access continues from one sub-window of a host window into the next (R369): the side of the piece that
follows one of n bytes. -/
def pastWindow (a b : SideAt) (n : Nat) : SideAt :=
  match a with
  | .place (.onDie x) =>
    let stop (y : Nat) : Bool := decide (0x700000000000 ≤ x) && y == x + n && y % 0x8000000000 == 0
    match b with
    | .place (.onDie y) => if stop y then .halt 8 y else b
    | .halt _ y => if stop y then .halt 8 y else b
    | _ => b
  | _ => b

/-- The end of a sub-window stops the piece after a piece. -/
def Piece.after (p : Piece) (prev : Option Piece) : Piece :=
  match prev with
  | some q => { p with src := pastWindow q.src p.src q.n, dst := pastWindow q.dst p.dst q.m }
  | none => p

/-- The local address a place stands for on this device, if any. -/
def Place.onDevice (k : Nat) : Place → Option Nat
  | .own o => some (spBase k + o)
  | .onDie a => if a < 0x600000000000 then some a else none
  | _ => none

/-- Whether two pieces' source and destination bytes intersect in one memory of this device (R137). -/
def piecesMeet (k : Nat) (ps : List Piece) : Bool :=
  ps.any fun p => ps.any fun q =>
    match p.src, q.dst with
    | .place a, .place b =>
      match a.onDevice k, b.onDevice k with
      | some i, some j => decide (i < j + q.m ∧ j < i + p.n)
      | _, _ => false
    | _, _ => false

/-- What a piece is refused with when the transfer reaches it, if anything: a halt cause (R134, R136, R141,
R169), and whether the destination is at fault. -/
def Desc.pieceCause (d : Desc) (p : Piece) : Option (Nat × Bool) :=
  match p.src, p.dst with
  | .place a, .place b =>
    let dramB := match b with | .onDie x => decide (x < dramSize) | _ => false
    let dramA := match a with | .onDie x => decide (x < dramSize) | _ => false
    let spB := match b with | .onDie x => (spPlace x).isSome | _ => false
    let hostIn (q : Place) : Bool := match q with | .onDie x => decide (0x700000000000 ≤ x) | _ => false
    let accBad := d.acc && (match b with | .own _ => !d.accOk | .onDie _ => !spB | _ => false)
    if accBad then some (2, true)
    else if d.plane = 3 then none
    else if hostIn a ∨ hostIn b then some (2, hostIn b)
    else match a, b with
      | .zeros, .own _ => none
      | .own _, .discard => none
      | .own _, .onDie _ =>
        if dramB then (if p.da % 64 = 0 ∧ p.m % 64 = 0 then none else some (2, true))
        else if spB then none else some (2, true)
      | .onDie _, .own _ => if dramA then none else some (2, false)
      | _, _ => some (2, true)
  | .halt c _, .halt e _ => some (if e < c then (e, true) else (c, false))
  | .halt c _, .place _ => some (c, false)
  | .place _, .halt e _ => some (e, true)
  | _, .halt e _ => if e < 4 then some (e, true) else none
  | .halt c _, _ => if c < 4 then some (c, false) else none
  | _, _ => none

/-- The page fault a piece meets, if any: its cause and its address (R145). -/
def Piece.pageFault (p : Piece) : Option (Nat × Nat) :=
  match p.src, p.dst with
  | .fault c, _ => some (c, p.sa)
  | _, .fault c => some (c, p.da)
  | _, _ => none

/-! ### Moving -/

/-- Converts the elements of source bytes (R135). -/
def Desc.convertBytes (d : Desc) (l : List Byte) : List Byte :=
  match fmtOfCode d.fmts, fmtOfCode d.fmtd with
  | some fs, some fd =>
    if d.cvt then
      (chunks d.esS l.length l).flatMap fun e => leBytes d.esD (convert fs fd (roundingOf d.rm) (leNat e)).1
    else l
  | _, _ => l

/-- What has stopped the runs of a descriptor, if anything: a halt with its cause, its reason and the byte, a page fault or
a poisoned granule with the byte met, a hold at a boundary, a wait, or a pause between two runs. -/
inductive MoveStop where
  | none
  | halt (cause reason : Nat) (dev : Half) (addr : Nat)
  | fault (cause : Nat) (v : Nat)
  | poison (granule : Nat) (v : Nat)
  | held
  | wait
  | pause
  deriving DecidableEq, Repr

/-- The descriptor that is carried out: its channel, its words and index, and how its sides are bound. -/
structure MoveCtx where
  k    : Nat
  ch   : Nat
  d    : Desc
  w    : List Half
  didx : Nat
  bs   : SideBind := .emptySlot
  bd   : SideBind := .emptySlot
  deriving DecidableEq, Repr

/-- What goes on from piece to piece: the page-table entries read, and the boundaries a hold lets pass. -/
structure Going where
  seen : List (Nat × KvPage) := []
  left : Option Nat := none
  deriving DecidableEq, Repr

/-- Accumulates the bytes of one granule, those that came before joined to them. Bytes of a granule that has not come
whole wait in the channel for the rest: an accumulating write carries whole granules (R109). -/
def State.accGranule (s : State) (k ch op g : Nat) (new : List (Nat × Byte)) : State :=
  let c := s.chan k ch
  let part := new.foldl (fun (m : SMap Byte) q => put? m q.1 q.2) c.accPart
  let here := (List.range 4).filterMap fun i => (part.find? (·.1 == 4 * g + i)).map (·.2)
  if here.length = 4 then
    (s.setChan k ch { c with accPart := part.filter fun e => e.1 / 4 != g }).spAccumulate k (4 * g) here op
  else s.setChan k ch { c with accPart := part }
where
  /-- Puts a byte into a list of bytes by offset. -/
  put? (m : SMap Byte) (o : Nat) (b : Byte) : SMap Byte := (m.filter fun e => e.1 != o) ++ [(o, b)]

/-- Writes to the own scratchpad, accumulating granule by granule when the descriptor asks for it (R108, R136). -/
def State.ownWrite (s : State) (k ch : Nat) (d : Desc) (o : Nat) (data : List Byte) : State :=
  if d.acc then
    (granulesOf o data.length).foldl (fun t g =>
      t.accGranule k ch d.accop g ((List.range 4).filterMap fun i =>
        if o ≤ 4 * g + i then (data[4 * g + i - o]?).map fun b => (4 * g + i, b) else none)) s
  else s.spStore k o data

/-- The next tag of a channel. -/
def State.nextTag (s : State) (k ch : Nat) : Nat × State :=
  let c := s.chan k ch
  (c.tag, s.setChan k ch { c with tag := c.tag + 1 })

/-- The write message for a place outside the own scratchpad (R131, R156, R333). -/
def MoveCtx.writeMsg (x : MoveCtx) (own : Half) (a tag : Nat) (data : List Byte) : Msg :=
  { kind := .write, ddev := own, sdev := own, req := x.k, chan := x.ch, tag := tag
    gen := BitVec.ofNat 8 x.d.gen, addr := a, len := data.length, data := data
    be := data.map fun _ => true, acc := if x.d.acc then some (BitVec.ofNat 2 x.d.accop) else none
    stepNo := x.didx, src := x.k }

/-- Delivers destination bytes to their place: the own scratchpad at once, others as a packet of plane V or
a beat of the descriptor's stream plane. -/
def State.deliver (s : State) (x : MoveCtx) (p : Place) (data : List Byte) : State :=
  match p with
  | .own o => s.ownWrite x.k x.ch x.d o data
  | .onDie a =>
    let (tag, s) := s.nextTag x.k x.ch
    let m := x.writeMsg s.ol.devId a tag data
    if x.d.plane = 3 then
      (s.modChan x.k x.ch fun c => { c with unacked := c.unacked + 1 }).sendV m
    else s.modChan x.k x.ch fun c => { c with outbox := c.outbox ++ [(x.d.plane, m)] }
  | .remote dev a =>
    let c := s.chan x.k x.ch
    let tag := c.remote % 2048
    let s := s.setChan x.k x.ch { c with
      remote := c.remote + 1, remoteOut := c.remoteOut ++ [⟨tag, dev, a, x.didx⟩] }
    s.sendV { x.writeMsg s.ol.devId a tag data with ddev := dev }
  | _ => s

/-- Requests a source that lies outside the own scratchpad (R156, R178). -/
def State.request (s : State) (x : MoveCtx) (a : Nat) (dev : Half) (n : Nat) (dst : Place) : State :=
  let remote := decide (dev ≠ s.ol.devId)
  let c := s.chan x.k x.ch
  let tag := if remote then c.remote % 2048 else c.tag
  let block := if n ≤ 64 ∧ a % 64 + n ≤ 64 then 64 else 128
  let off := if x.d.plane = 3 then 0 else a % block
  let rd : PendingRead := { tag := tag, remote := remote, dst := dst, desc := x.w, didx := x.didx, dev := dev, addr := a
                            off := off, len := n }
  let c := { c with
    reads := c.reads ++ [rd], tag := if remote then c.tag else c.tag + 1
    remote := if remote then c.remote + 1 else c.remote }
  let m : Msg :=
    { kind := .readReq, ddev := dev, sdev := s.ol.devId, req := x.k, chan := x.ch, tag := tag
      addr := a, len := n, gen := BitVec.ofNat 8 x.d.gen, stepNo := x.didx, src := x.k, part := off, count := n
      dest := match dst with | .own o => o | _ => 0
      acc := if x.d.acc then some (BitVec.ofNat 2 x.d.accop) else none }
  if x.d.plane = 3 then (s.setChan x.k x.ch c).sendV m
  else
    let m := { m with addr := a - off, len := block }
    s.setChan x.k x.ch { c with outbox := c.outbox ++ [(x.d.plane, m)] }

/-- The bytes of a source that is at hand: the own scratchpad up to a poisoned granule, or zeros. -/
def State.sourceNow (s : State) (x : MoveCtx) (p : Piece) : Option (List Byte × Option Nat) × State :=
  match p.src with
  | .place (.own o) =>
    let (d, bad, t) := s.spRead x.k o p.n
    (some (match bad with
      | none => (d, none)
      | some g => (d.take (4 * g - o), some g)), t)
  | .place .zeros => (some (List.replicate p.n 0, none), s.setFlag fDM_STATUS_KVZERO true x.k)
  | _ => (none, s)

/-- The side of a piece that a halt names. -/
def Piece.failing (p : Piece) (k : Nat) (own : Half) (d : Desc) (dst : Bool) : Half × Nat :=
  let at_ (q : SideAt) (v : Nat) (ind : Bool) (dev : Nat) : Half × Nat :=
    match q with
    | .place (.onDie a) => (own, a)
    | .place (.own o) => (own, spBase k + o)
    | .halt _ a => (own, a)
    | .place (.remote e a) => (e, a)
    | _ => (if ind then own else BitVec.ofNat 16 dev, v)
  if dst then at_ p.dst p.da (d.ind == 2) d.ddev else at_ p.src p.sa (d.ind == 1) d.sdev

/-- What stops a piece, if anything. -/
def MoveCtx.stopOf (x : MoveCtx) (own : Half) (p : Piece) : MoveStop :=
  match x.d.pieceCause p with
  | some (c, dst) => let (dev, a) := p.failing x.k own x.d dst; .halt c 0 dev a
  | none =>
    match p.pageFault with
    | some (c, v) => .fault c v
    | none => .none

/-- Notes bytes that an empty slot discards (R140). -/
def State.noteDiscard (s : State) (x : MoveCtx) (p : Piece) : State :=
  match p.dst with
  | .place .discard => s.setFlag fDM_STATUS_KVZERO true x.k
  | _ => s

/-- Whether the destination bytes of two accesses meet. -/
def Place.meets (a b : Place) (n m : Nat) : Bool :=
  match a, b with
  | .own i, .own j => decide (i < j + m ∧ j < i + n)
  | .onDie i, .onDie j => decide (i < j + m ∧ j < i + n)
  | .remote d i, .remote e j => d == e && decide (i < j + m ∧ j < i + n)
  | _, _ => false

/-- The bytes a read writes at its destination. -/
def PendingRead.outLen (r : PendingRead) : Nat := (descOf r.desc).destLen r.len

/-- The bytes of a destination that a descriptor's access changes: whole granules of the own scratchpad when it accumulates
(R109). -/
def Desc.reach (d : Desc) (p : Place) (n : Nat) : Place × Nat :=
  match p with
  | .own o => if d.acc then (.own (o / 4 * 4), (o + n + 3) / 4 * 4 - o / 4 * 4) else (p, n)
  | _ => (p, n)

/-- Whether a read outstanding changes bytes that another access of its channel changes too. -/
def PendingRead.meets (r : PendingRead) (d : Desc) (p : Place) (n : Nat) : Bool :=
  let a := (descOf r.desc).reach r.dst r.outLen
  let b := d.reach p n
  !r.orphan && a.1.meets b.1 a.2 b.2

/-- Bytes at hand go to their place, or wait behind a read outstanding to the same bytes: accesses of one channel to one byte
take effect in order (R275). -/
def State.place (s : State) (x : MoveCtx) (p : Piece) (dst : Place) (data : List Byte) : State :=
  if data = [] then s
  else
    let c := s.chan x.k x.ch
    if c.reads.any (·.meets x.d dst (x.d.destLen data.length)) then
      s.setChan x.k x.ch { c with
        tag := c.tag + 1
        reads := c.reads ++ [{ tag := c.tag, remote := false, dst := dst, desc := x.w, didx := x.didx, dev := s.ol.devId
                               addr := p.sa, off := 0, len := data.length, got := some (data, false) }] }
    else s.deliver x dst (x.d.convertBytes data)

/-- Moves one piece whose sides are both places; answers the source bytes moved. -/
def State.movePiece (s : State) (x : MoveCtx) (p : Piece) : MoveStop × Nat × State :=
  let s := s.noteDiscard x p
  match p.dst with
  | .place dst =>
    match s.sourceNow x p with
    | (some (data, bad), t) =>
      (match bad with
        | none => .none
        | some g => .poison g (p.sa + data.length), data.length, t.place x p dst data)
    | (none, t) =>
      match p.src with
      | .place (.onDie a) => (.none, p.n, t.request x a t.ol.devId p.n dst)
      | .place (.remote dev a) => (.none, p.n, t.request x a dev p.n dst)
      | _ => (.none, p.n, t)
  | _ => (.none, p.n, s)

/-- A position within a descriptor. -/
structure At where
  z : Nat
  y : Nat
  x : Nat
  deriving DecidableEq, Repr

/-- The places of a part of a run that the transfer reaches. -/
def State.pieceAt (s : State) (x : MoveCtx) (prev : Option Piece) (c : Cut) (seen : List (Nat × KvPage)) :
    Piece × List (Nat × KvPage) × State :=
  let (a, seen, s) := s.sideAt x.bs x.k true c.sa seen
  let (b, seen, s) := s.sideAt x.bd x.k false c.da seen
  ((c.piece a b).after prev, seen, s)

/-- The last element of a run before the position at which it goes on, with the places of its bytes: an access that goes on
there still ends at a sub-window (R369). A slot-indirect side reaches no host window. -/
def MoveCtx.before (x : MoveCtx) (r : Run) : Option Piece :=
  if r.x = 0 then none
  else
    let o := r.x - x.d.esS
    let side (b : SideBind) (v : Nat) : SideAt :=
      match b with
      | .local_ pages => localPlace x.k pages v
      | .remote dev => .place (.remote dev v)
      | _ => .place .zeros
    let c : Cut := ⟨o, x.d.esS, x.d.destLen x.d.esS, (r.src + o) % 2 ^ 48, (r.dst + x.d.destLen o) % 2 ^ 48⟩
    some (c.piece (side x.bs c.sa) (side x.bd c.da))

/-- Goes past a part of a run, unless a hold stops the transfer before it: at the start of a run, or at a 256-byte boundary
of the source within it (R144). -/
def Going.pass (g : Going) (r : Run) (x : Nat) : Option Going :=
  if x = 0 ∨ (r.src + x) % 256 = 0 then
    match g.left with
    | none => some g
    | some 0 => none
    | some (n + 1) => some { g with left := some n }
  else some g

/-- Moves the parts of a run in order up to the first that stops. -/
def State.movePieces (s : State) (x : MoveCtx) (r : Run) :
    List Cut → Option Piece → Going → MoveStop × At × Going × State
  | [], _, g => (.none, ⟨r.z, r.y, 0⟩, g, s)
  | c :: rest, prev, g =>
    match g.pass r c.x with
    | none => (.held, ⟨r.z, r.y, c.x⟩, g, s)
    | some g =>
      let (p, seen, s) := s.pieceAt x prev c g.seen
      let g := { g with seen := seen }
      match x.stopOf s.ol.devId p with
      | .none =>
        match s.movePiece x p with
        | (.none, _, t) => State.movePieces t x r rest (some p) g
        | (stop, n, t) => (stop, ⟨r.z, r.y, p.x + n⟩, g, t)
      | stop => (stop, ⟨r.z, r.y, p.x⟩, g, s)

/-! ### Runs carried out as one buffered copy (R137) -/

/-- Reads a piece at its home directly. -/
def State.readPlace (s : State) (k : Nat) (p : Place) (n : Nat) : Reply (List Byte) × Option Nat × State :=
  match p with
  | .own o => let (d, bad, t) := s.spRead k o n; (.ok d, bad, t)
  | .zeros => (.ok (List.replicate n 0), none, s.setFlag fDM_STATUS_KVZERO true k)
  | .onDie a =>
    match targetOf a with
    | .dram => let (r, t) := s.dramRead a n; (r, none, t)
    | .sram o => (s.sramRead o n, none, s)
    | .scratchpad j o =>
      if s.planeHeld j 3 then (.wait, none, s)
      else
      let (reason, d, t) := s.arriveRead j o n s.ol.devId.toNat k
      (if reason = 0 then .ok d else .err 4, none, t)
    | _ => (.err 2, none, s)
  | _ => (.ok [], none, s)

/-- Writes a piece at its home directly. -/
def State.writePlace (s : State) (x : MoveCtx) (p : Place) (data : List Byte) : MoveStop × State :=
  let own := s.ol.devId
  match p with
  | .own o => (.none, s.ownWrite x.k x.ch x.d o data)
  | .onDie a =>
    match targetOf a with
    | .dram =>
      match s.dramWrite a data (data.map fun _ => true) with
      | (.ok _, t) => (.none, t)
      | (.err _, t) => (.halt 6 0 own a, t)
      | (.wait, t) => (.wait, t)
    | .sram o =>
      match s.sramWrite o data (data.map fun _ => true) with
      | (.err _, t) => (.halt 6 0 own a, t)
      | (_, t) => (.none, t)
    | .scratchpad j o =>
      let m := x.writeMsg own a (s.chan x.k x.ch).tag data
      if s.planeHeld j 3 || !s.exitRoom j 3 (packetBeats m) then (.none, s.deliver x p data)
      else match s.arriveWrite j o m with
      | (.done, t) => (.none, t)
      | (.refused reason, t) => (.halt 5 reason own a, t)
      | (.held ap sl, t) =>
        (.none, (t.modSp j fun q => { q with held := q.held ++ [⟨ap, sl, 3, m⟩] }).modChan x.k x.ch
          fun c => { c with unacked := c.unacked + 1 })
    | _ => (.none, s.deliver x p data)
  | _ => (.none, s.deliver x p data)

/-- Whether a source is a host window: its read returns later (R371). -/
def hostSource : Place → Bool
  | .onDie a => decide (0x700000000000 ≤ a)
  | _ => false

/-- A piece as its source alone sees it. -/
def Piece.sourceOnly (p : Piece) : Piece := { p with dst := .place .discard }

/-- Reads every part of a run but those of a host window: the source bytes, with the places met. -/
def State.readRun (s : State) (x : MoveCtx) :
    List Cut → Option Piece → Going → MoveStop × List (Piece × Option (List Byte)) × Going × State
  | [], _, g => (.none, [], g, s)
  | c :: rest, prev, g =>
    let (a, seen, s) := s.sideAt x.bs x.k true c.sa g.seen
    let g := { g with seen := seen }
    let p := ((c.piece a (.place .discard)).after prev).sourceOnly
    match x.stopOf s.ol.devId p with
    | .none =>
      match p.src with
      | .place a =>
        if hostSource a then
          match State.readRun s x rest (some p) g with
          | (stop, l, g, u) => (stop, (p, none) :: l, g, u)
        else match s.readPlace x.k a p.n with
        | (.wait, _, t) => (.wait, [], g, t)
        | (.err _, _, t) => (.halt 6 0 s.ol.devId (p.failing x.k s.ol.devId x.d false).2, [], g, t)
        | (.ok _, some q, t) =>
          (.poison q (p.sa + (match a with | .own o => 4 * q - o | _ => 0)), [], g, t)
        | (.ok d, none, t) =>
          match State.readRun t x rest (some p) g with
          | (stop, l, g, u) => (stop, (p, some d) :: l, g, u)
      | _ => (.none, [], g, s)
    | stop => (stop, [], g, s)

/-- Writes the parts of a run that have been read, in the order given, up to the first that stops. -/
def State.writeRun (s : State) (x : MoveCtx) (r : Run) :
    List (Piece × Option (List Byte)) → Option Piece → Going → MoveStop × At × Going × State
  | [], _, g => (.none, ⟨r.z, r.y, 0⟩, g, s)
  | (p, data) :: rest, prev, g =>
    let (b, seen, s) := s.sideAt x.bd x.k false p.da g.seen
    let g := { g with seen := seen }
    let p := { p with dst := ({ p with dst := b }.after prev).dst }
    match x.stopOf s.ol.devId p with
    | .none =>
      let s := s.noteDiscard x p
      match p.dst, data with
      | .place b, some l =>
        match s.writePlace x b (x.d.convertBytes l) with
        | (.none, t) => State.writeRun t x r rest (some p) g
        | (stop, t) => (stop, ⟨r.z, r.y, p.x⟩, g, t)
      | .place _, none => State.writeRun (s.movePiece x p).2.2 x r rest (some p) g
      | _, _ => State.writeRun s x r rest (some p) g
    | stop => (stop, ⟨r.z, r.y, p.x⟩, g, s)

/-- Whether the destination of a run lies above its source in one memory of this device (R137). -/
def runAbove (k : Nat) (p : Piece) : Bool :=
  match p.src, p.dst with
  | .place a, .place b =>
    match a.onDevice k, b.onDevice k with
    | some i, some j => decide (i < j)
    | _, _ => false
  | _, _ => false

/-- A run as one buffered copy (R137): nothing is written unless all of it was read and every page of its destination may be
written; a page fault stops the run before any of it is written. It is written from its first byte on, or from its last
when its destination lies above its source (DEDUCED, notes/assumptions/107.md). -/
def State.copyRun (s : State) (x : MoveCtx) (r : Run) (cs : List Cut) (g : Going) : MoveStop × At × Going × State :=
  match g.pass r 0 with
  | none => (.held, ⟨r.z, r.y, r.x⟩, g, s)
  | some g =>
    match s.readRun x cs (x.before r) g with
    | (.none, l, g, t) =>
      let above := match cs with | c :: _ => runAbove x.k (t.pieceAt x none c g.seen).1 | [] => false
      let (l, prev) := if above then (l.reverse, none) else (l, x.before r)
      let faults := l.filterMap fun q =>
        match (t.sideAt x.bd x.k false q.1.da g.seen).1 with | .fault c => some (c, q.1.da) | _ => none
      match faults with
      | (c, v) :: _ => (.fault c v, ⟨r.z, r.y, r.x⟩, g, t)
      | [] => t.writeRun x r l prev g
    | (stop, _, g, t) => (stop, ⟨r.z, r.y, r.x⟩, g, t)

/-- Carries out the runs of a descriptor in order, up to the first stop. A run that has to wait behind others that have
been carried out makes a pause: the channel goes on with it later (notes/assumptions/107.md). -/
def State.moveRuns (s : State) (x : MoveCtx) (buffered first : Bool) :
    List (Run × List Cut) → Going → MoveStop × At × State
  | [], _ => (.none, ⟨0, 0, 0⟩, s)
  | (r, cs) :: rest, g =>
    match (if buffered then s.copyRun x r cs g else s.movePieces x r cs (x.before r) g) with
    | (.none, _, g, t) => State.moveRuns t x buffered false rest g
    | (.wait, _, _, t) => if first then (.wait, ⟨0, 0, 0⟩, t) else (.pause, ⟨r.z, r.y, r.x⟩, s)
    | (stop, p, _, t) => (stop, p, t)

/-- Marks the last beat to each home of the beats a descriptor has added to its outbox (R173). -/
def markLast (home : Msg → Nat) : List (Nat × Msg) → List (Nat × Msg)
  | [] => []
  | (p, m) :: rest =>
    let later := rest.any fun q => q.2.kind == .write && home q.2 == home m
    (p, if m.kind = .write then { m with last := !later } else m) :: markLast home rest

/-! ### Chains -/

/-- The fields of a DGO (R129). -/
def dgoShape : Nat → Option (Nat × List Nat)
  | 0 => some (8, [0xFF8F, 0xFFFF, 0xFFFF, 0xFFFF, 0x03FF])
  | _ => none

/-- Whether a channel acts now: it is neither halted nor stopped by the engine's hold (R144, R146). -/
def State.chanActs (s : State) (k ch : Nat) : Bool :=
  let c := s.chan k ch
  !c.halted && c.stop.isNone && !c.stopping && (!(s.dmOf k).held || c.finishing)

/-- DGO (R130): the head of the channel's queue issues and copies its chain. -/
def State.dgo (s : State) (k ch : Nat) : State :=
  let c := s.chan k ch
  match c.queue with
  | [] => s
  | q :: rest =>
    if !s.chanActs k ch ∨ (s.dmOf k).held ∨ c.dgo.isSome then s
    else
      let v := 2 * addrAt q.words 1
      let n := 32 * (bits (wordAt q.words 0) 3 0 + 1)
      let start (t : State) : State :=
        t.modChan k ch fun c => { c with
          queue := rest, dgo := some q, chain := [], didx := 0, z := 0, y := 0, x := 0, base := c.tag, owed := [], accPart := [] }
      let bad (t : State) (cause : Nat) : State := (start t).dmaHalt k ch cause 0 0 t.ol.devId v
      if !wellShaped1 q ∨ v % 32 ≠ 0 ∨ v / 0x10000 ≠ (v + n - 1) / 0x10000 then bad s 1
      else match s.pageIs k (v / 0x10000) .read q.ring.toNat with
        | (none, _) => s
        | (some .outside, t) => bad t 3
        | (some (.absent c), t) =>
          t.modChan k ch fun x => { x with stop := some (.page c v) }
        | (some (.own o), t) =>
          let o := o + v % 0x10000
          let rect : Rect := ⟨o / 128, (o + n - 1) / 128, 0, 31⟩
          if !t.slotsFull k [rect] || !t.sbAdmits k [rect] none then s
          else match t.spRead k o n with
            | (_, some g, u) =>
              (u.modDm k fun d => { d with held := true }).engineSpFault k (3 + ch) 1 0 0 (g / 32)
                (wordOfByte (v + (4 * g - o)))
            | (d, none, u) =>
              (start u).modChan k ch fun c => { c with chain := (chunks 32 17 d).map bytesHalf }
where
  /-- Whether a command is a well-formed DGO (R45, R129). -/
  wellShaped1 (c : EngineCmd) : Bool :=
    match dgoShape (bits (wordAt c.words 0) 15 11) with
    | none => false
    | some (len, masks) => cmdWords c.words == len &&
        (List.range 8).all fun n => wordAt c.words n &&& (0xFFFF - masks.getD n 0) &&& (if n = 0 then 0x7FF else 0xFFFF) == 0

/-- A channel continues from its recorded position (R144). DM_CHn_PROGX clears then, and at a drop of its chain;
DM_CHn_PROG keeps the position (DESIGN CHOICE, notes/assumptions/108.md). -/
def State.clearStop (s : State) (k ch : Nat) : State :=
  if (s.chan k ch).stopped then
    (s.setReg .dmChProgx k ch 0).modChan k ch fun c => { c with stopped := false }
  else s

/-- Ends a descriptor's move: at its end, or where it stopped (R144–R146, R107). The channel issues what it can and takes
the stop once the accesses before it have ended. -/
def State.endMove (s : State) (x : MoveCtx) (stop : MoveStop) (p : At) : State :=
  let at_ (c : Chan) : Chan := { c with z := p.z, y := p.y, x := p.x }
  let s := s.modChan x.k x.ch fun c => { c with outbox := markLast s.requestDest c.outbox }
  (s.modChan x.k x.ch fun c =>
    match stop with
    | .none => { c with didx := c.didx + 1, z := 0, y := 0, x := 0 }
    | .halt cause reason dev a => { c with stop := some (.halt cause reason dev a) }
    | .fault cause v => { at_ c with stop := some (.page cause v) }
    | .poison g v => { at_ c with stop := some (.poison g v) }
    | .held => { at_ c with stopping := true }
    | .pause => at_ c
    | .wait => c).chanIssue x.k x.ch

/-- Physical rows of the own scratchpad that a side reaches (R138). -/
def ownRect (runs : List (Run × List Piece)) (source : Bool) : Option Rect :=
  let rows := runs.flatMap fun r => r.2.flatMap fun p =>
    match (if source then p.src else p.dst) with
    | .place (.own o) => [o / 128, (o + (if source then p.n else p.m) - 1) / 128]
    | _ => []
  match rows with
  | [] => none
  | r :: rest => some ⟨rest.foldl min r, rest.foldl max r, 0, 31⟩

/-- Binds both sides of a descriptor for the runs from a position on (R133, R139); none while a walk or a slice
waits. -/
def State.descBind (s : State) (k ring : Nat) (d : Desc) (runs : List Run) : Option (SideBind × SideBind) × State :=
  match s.bindSide k ring (d.ind == 1) d.sdev .read (runs.map fun r => (r.src, d.xlen)) with
  | (none, _) => (none, s)
  | (some bs, t) =>
    match t.bindSide k ring (d.ind == 2) d.ddev .write (runs.map fun r => (r.dst, d.destLen d.xlen)) with
    | (none, _) => (none, s)
    | (some bd, t) => (some (bs, bd), t)

/-- The parts of the runs (R139, R170). A stream descriptor is cut at the blocks of the side it writes or requests. -/
def MoveCtx.plan (x : MoveCtx) (s : State) (runs : List Run) : List (Run × List Cut) :=
  let stream := x.d.plane ≠ 3
  let reads := stream && (x.d.ind == 1 || (runs.take 1).any fun r =>
    match (s.sideAt x.bs x.k true r.src []).1 with | .place (.onDie _) => true | _ => false)
  let cutS := if stream ∧ !reads then 0x10000 else 128
  let cutD := if reads then 0x10000 else 128
  runs.map fun r => (r, x.d.cut cutS cutD r 0x10001 r.x)

/-- The pieces of a plan as the entries of slot-indirect pages stand now. -/
def MoveCtx.foresee (x : MoveCtx) (s : State) (plan : List (Run × List Cut)) : List (Run × List Piece) :=
  plan.map fun r => (r.1, r.2.map fun c => (s.pieceAt x none c []).1)

/-- A descriptor between two places of the own scratchpad uses no plane, and its PLANE is ignored (R141): such a descriptor,
as its valid pages stand, is one of plane 3. -/
def MoveCtx.used (x : MoveCtx) (s : State) (runs : List Run) : MoveCtx :=
  let y : MoveCtx := { x with d := { x.d with plane := 3 } }
  let ps := (y.foresee s (y.plan s runs)).flatMap (·.2)
  let own (q : SideAt) : Bool := match q with | .place (.own _) => true | .place _ => false | _ => true
  let placed := ps.any fun p => match p.src, p.dst with | .place _, .place _ => true | _, _ => false
  if placed && ps.all fun p => own p.src && own p.dst then y else x

/-- A descriptor that is ready to be carried out: its binding, its plan, whether its runs are buffered copies, and its
rectangles. -/
structure DescReady where
  x        : MoveCtx
  plan     : List (Run × List Cut)
  buffered : Bool
  reads    : Option Rect
  writes   : Option Rect
  deriving DecidableEq, Repr

/-- The plane that a descriptor uses, 3 for none (R141). -/
def DescReady.plane (r : DescReady) : Nat := r.x.d.plane

/-- A descriptor touches the scoreboard only for the own scratchpad (R138). -/
def DescReady.touches (r : DescReady) : Bool := r.reads.isSome || r.writes.isSome

/-- Binds and plans the current descriptor of a channel from its position on (R131–R139). -/
def State.descPlan (s : State) (k ch : Nat) (q : EngineCmd) (w : List Half) : Option DescReady × State :=
  let c := s.chan k ch
  let d := descOf w
  let runs := d.runsFrom c.z c.y c.x
  match s.descBind k q.ring.toNat d runs with
  | (none, _) => (none, s)
  | (some (bs, bd), t) =>
    let x := MoveCtx.used { k := k, ch := ch, d := d, w := w, didx := c.didx, bs := bs, bd := bd } t runs
    let plan := x.plan t runs
    let ps := x.foresee t plan
    (some ⟨x, plan, piecesMeet k (ps.flatMap (·.2)), ownRect ps true, ownRect ps false⟩, t)

/-- Whether a channel may start a descriptor it has planned: after the beats and reads of the one before and, where the
planes differ, its acknowledgements (R132, R275); a buffered copy starts when everything issued has ended; it and the
reads that bind a slot-indirect side come after the core's stores that have left for their homes (R179, R279); the slots
and the scoreboard admit the rectangles (R119, R138). -/
def State.descAdmitted (s t : State) (k ch : Nat) (r : DescReady) : Bool :=
  let c := s.chan k ch
  let quiet := c.settled && !(s.vReq.any fun m => m.src == k && m.chan == ch)
  !(c.didx != 0 && c.plane != r.plane && !c.settled) && (!r.buffered || quiet) &&
    (!(r.buffered || r.x.d.ind != 0) || s.storesEntered k == 0) &&
    t.slotsFull k r.reads.toList && (!r.touches || t.sbAdmits k r.reads.toList r.writes)

/-- The current descriptor of a channel is carried out, up to a number of boundaries when a hold stops it (R132–R144);
none while it waits. -/
def State.descMove (s : State) (k ch : Nat) (q : EngineCmd) (w : List Half) (left : Option Nat) : Option State :=
  match s.descPlan k ch q w with
  | (none, _) => none
  | (some r, t) =>
    if !s.descAdmitted t k ch r then none
    else
      let t := t.clearStop k ch
      let t := if r.touches then t.sbAdd k ⟨.channel ch, r.reads.toList, r.writes⟩ else t
      let t := t.modChan k ch fun c => { c with plane := r.plane }
      match t.moveRuns r.x r.buffered true r.plan { left := left } with
      | (.wait, _, _) => none
      | (stop, p, u) => some (u.endMove r.x stop p)

/-- DESCRIPTOR_START (R132–R138): the current descriptor of a channel starts, or continues from where it stopped. -/
def State.descriptorStart (s : State) (k ch : Nat) : State :=
  let c := s.chan k ch
  match c.dgo, c.chain[c.didx]? with
  | some q, some w =>
    if !s.chanActs k ch ∨ c.reading ∨ c.outbox ≠ [] then s
    else match (descOf w).startRefusal s.ol.devId with
      | some (cause, dev, a) => (s.clearStop k ch).dmaHalt k ch cause 0 c.didx dev a
      | none => (s.descMove k ch q w none).getD s
  | _, _ => s

/-- The slot that a channel waits for, if its next chain copy or descriptor waits for one (R119). -/
def State.chanGate (s : State) (k ch : Nat) : Option (Nat × Nat × Addr) :=
  let c := s.chan k ch
  if !s.chanActs k ch then none
  else match c.dgo, c.queue with
    | some q, _ =>
      match c.chain[c.didx]? with
      | none => none
      | some w =>
        if ((descOf w).startRefusal s.ol.devId).isSome || c.reading || c.outbox != [] then none
        else match s.descPlan k ch q w with
          | (some r, t) => r.reads.bind fun a => (t.slotGate k a).map fun g => (g.1, g.2, wordOfByte r.x.d.saddr)
          | (none, _) => none
    | none, q :: _ =>
      let v := 2 * addrAt q.words 1
      match s.pageIs k (v / 0x10000) .read q.ring.toNat with
      | (some (.own o), t) =>
        let o := o + v % 0x10000
        let n := 32 * (bits (wordAt q.words 0) 3 0 + 1)
        (t.slotGate k ⟨o / 128, (o + n - 1) / 128, 0, 31⟩).map fun g => (g.1, g.2, wordOfByte v)
      | _ => none
    | none, [] => none

/-- DMA_PAGE_FAULT (R145): once every access before it has ended, the recorded fault is taken: the position is recorded,
the engine holds, and the core takes a page fault. A DGO that faulted has no position. -/
def State.dmaPageFault (s : State) (k ch : Nat) : State :=
  let c := s.chan k ch
  match c.stop with
  | some (.page cause v) =>
    if !c.settled then s
    else
      let s := s.dmaErr k ch 4 0 (if c.dgo.isSome then c.didx else 0) s.ol.devId v
      let s := s.modChan k ch fun c => { c with stop := none }
      let s := if c.dgo.isSome then s.recordStop k ch else s
      (s.modDm k fun d => { d with held := true }).raise k 3 (3 + ch) cause (wordOfByte v)
  | _ => s

/-- Whether a chain is complete: every write of it at its home (R143). -/
def Chan.complete (c : Chan) : Bool :=
  c.dgo.isSome && !c.halted && c.stop.isNone && decide (c.chain.length ≤ c.didx) && c.settled

/-- Ends the traffic of a channel's chain; beats in the entry crossing go on, and what its reads still bring is discarded
(notes/assumptions/52.md). -/
def Chan.endChain (c : Chan) : Chan :=
  { c with dgo := none, chain := [], didx := 0, z := 0, y := 0, x := 0, stopped := false, stop := none
           stopping := false, halted := false, finishing := false, unacked := 0, remoteOut := [], owed := []
           base := c.tag, plane := 3, outbox := [], accPart := []
           reads := (c.reads.filter (·.got.isNone)).map fun r => { r with orphan := true } }

/-- DM_CTRL.RESUMEn (R146): drops a halted chain; ignored on a channel that is neither halted nor held. -/
def State.dmResume (s : State) (k ch : Nat) : State :=
  if (s.chan k ch).halted then ((s.sbRelease k (.channel ch)).clearStop k ch).modChan k ch Chan.endChain else s

/-- DM_CTRL.ABANDONn (R146, R172): discards the queue of a halted or held channel; a stream-plane chain that it is
completing goes on. -/
def State.dmAbandon (s : State) (k ch : Nat) : State :=
  let c := s.chan k ch
  if c.halted ∨ (s.dmOf k).held then
    if c.finishing then s.setChan k ch { c with queue := [] }
    else
      let (reads, s) := s.chanReads k ch
      let s := s.voidFill k ch reads
      let s := (s.sbRelease k (.channel ch)).clearStop k ch
      s.modChan k ch fun c => { c.endChain with queue := [] }
  else s

/-- REMOTE_ACK_TIMEOUT (R146): a remote device has not answered within DM_TIMEOUT. -/
def State.remoteTimeout (s : State) (k ch : Nat) : State :=
  let c := s.chan k ch
  match c.remoteOut, c.reads.find? fun r => r.remote && !r.orphan && r.got.isNone with
  | w :: _, _ => s.dmaHalt k ch 9 0 w.didx w.dev w.addr
  | [], some r => s.dmaHalt k ch 9 0 r.didx r.dev r.addr
  | [], none => s

/-- Whether the current descriptor of a channel uses a stream plane (R141, R144): the one whose beats or reads are on
their way, or else the next one. -/
def State.onStream (s : State) (k ch : Nat) : Bool :=
  let c := s.chan k ch
  if c.outbox ≠ [] ∨ c.reading then c.plane != 3
  else match c.dgo, c.chain[c.didx]? with
    | some q, some w =>
      match (s.descPlan k ch q w).1 with
      | some r => r.plane != 3
      | none => descPlane w != 3
    | _, _ => c.plane != 3 && !c.settled

/-- A hold meets a channel (R144): one whose current descriptor uses a stream plane goes on to the end of its chain. Any
other stops: the descriptor it is at may be in progress, and how many 256-byte boundaries it has passed is free. The
position is recorded once every access before it has ended. -/
def State.chanHold (s : State) (k ch : Nat) : State :=
  let c := s.chan k ch
  if c.dgo.isNone ∨ c.halted ∨ c.stopped ∨ c.finishing ∨ c.stop.isSome ∨ c.stopping then s
  else if s.onStream k ch then s.setChan k ch { c with finishing := true }
  else
    let (n, s) := s.drawNat
    let began : Option State :=
      match c.dgo, c.chain[c.didx]? with
      | some q, some w =>
        if n = 0 ∨ c.reading ∨ ((descOf w).startRefusal s.ol.devId).isSome then none else s.descMove k ch q w (some n)
      | _, _ => none
    let s := began.getD s
    let c := s.chan k ch
    if c.halted ∨ c.stop.isSome ∨ c.stopped ∨ c.chain.length ≤ c.didx then s
    else (s.modChan k ch fun c => { c with stopping := true }).chanSettle k ch

/-- The engine holds at an exception entry, with the task-state register value from before it (R144). -/
def State.dmHold (s : State) (k : Nat) (tsr : Addr) : State :=
  ((s.chanHold k 0).chanHold k 1).modDm k fun d => { d with held := true, heldTsr := some tsr }

/-- The engine resumes (R144): channels go on from where they stopped, and a chain that was completed is one like any
other. -/
def State.dmUnhold (s : State) (k : Nat) : State :=
  let s := s.modDm k fun d => { d with held := false, heldTsr := none }
  let go (c : Chan) : Chan := { c with finishing := false, stopping := false }
  (s.modChan k 0 go).modChan k 1 go

/-! ### Reads return -/

/-- The data of a read goes to its destination (R170, R313), and the read has ended. That of a dropped chain is discarded. -/
def State.landRead (s : State) (k ch : Nat) (r : PendingRead) (data : List Byte) (poison : Bool) : State :=
  let d := descOf r.desc
  let c := s.chan k ch
  let data := (data.drop r.off).take r.len
  let x : MoveCtx := { k := k, ch := ch, d := { d with plane := 3 }, w := r.desc, didx := r.didx }
  let s := s.setChan k ch { c with reads := c.reads.erase r }
  if r.orphan then s
  else if poison then
    let s := match r.dst with
      | .own o => s.spPoison k o r.outLen
      | _ => s
    s.dmaHalt k ch 6 0 r.didx r.dev r.addr
  else
    match r.dst with
    | .own o => s.ownWrite k ch d o (d.convertBytes data)
    | p => if c.halted then s else s.deliver x p (d.convertBytes data)

/-- Whether a read outstanding before another changes bytes that it changes too. -/
def Chan.behind (c : Chan) (r : PendingRead) : Bool :=
  (c.reads.takeWhile (· != r)).any (·.meets (descOf r.desc) r.dst r.outLen)

/-- The reads whose data has come land in order, as far as no read before them to the same bytes is outstanding (R275). -/
def State.landReady (s : State) (k ch : Nat) : State :=
  ((s.chan k ch).reads.foldl (fun t r =>
    match r.got with
    | some (d, poison) =>
      let c := t.chan k ch
      if c.behind r || !c.reads.contains r then t else t.landRead k ch r d poison
    | none => t) s).chanSettle k ch

/-- The data of an outstanding read comes (R170). -/
def State.readComes (s : State) (k ch : Nat) (r : PendingRead) (data : List Byte) (poison : Bool) : State :=
  (s.modChan k ch fun c => { c with
    reads := c.reads.map fun q => if q = r then { q with got := some (data, poison) } else q }).landReady k ch

/-- The outstanding read that a response answers. -/
def Chan.readOf (c : Chan) (m : Msg) (remote : Bool) : Option PendingRead :=
  c.reads.find? fun r => r.remote == remote && r.tag == m.tag && r.got.isNone

/-! ### The commands of the table -/

def execDgo (k : CcId) (ch : ChanId) (s : State) : Host.Outcome State Fault Refusal := .next (s.dgo k ch)
def execDescriptorStart (k : CcId) (ch : ChanId) (s : State) : Host.Outcome State Fault Refusal :=
  .next (s.descriptorStart k ch)
def execDmaPageFault (k : CcId) (ch : ChanId) (s : State) : Host.Outcome State Fault Refusal :=
  .next (s.dmaPageFault k ch)

/-- CHAIN_COMPLETE (R143): the chain is complete; the counter it names is signalled, in the DGO's own
SYNCCTX (R289), and the channel is free for its next DGO. -/
def State.chainComplete (s : State) (k ch : Nat) (signal : State → Nat → Half → Bool → Nat → State) : State :=
  let c := s.chan k ch
  match c.dgo with
  | none => s
  | some q =>
    if !c.complete then s
    else
      let w0 := wordAt q.words 0
      let s := (s.clearStop k ch).modChan k ch Chan.endChain
      if bit w0 8 then signal s k q.sync (bit w0 7) (bits (wordAt q.words 4) 9 0) else s

def execRemoteAckTimeout (k : CcId) (ch : ChanId) (s : State) : Host.Outcome State Fault Refusal :=
  .next (s.remoteTimeout k ch)

end Sys2Proof.Machine
end

