-- ==== Sys2Proof/Machine/Matrix.lean ====
section
/-! DEFINITION. The matrix engine (03_matrix_engine.md): its commands, order and hazards, faults,
abandoning, saving and restoring. Tiles 0–7 are T0–T7, tiles 8–11 are C0–C3. -/

namespace Sys2Proof.Machine

/-! ### Tiles -/

def Mx.tile (m : Mx) (n : Nat) : Tile := get {} m.tiles n
def Mx.setTile (m : Mx) (n : Nat) (t : Tile) : Mx := { m with tiles := put {} m.tiles n t }

/-- Row length in bytes. -/
def Tile.rlen (t : Tile) : Nat := 4 * t.rlen4

/-- The bytes of a tile from an offset. -/
def Tile.bytes (t : Tile) (o n : Nat) : List Byte := getBytes 0 t.data o n

/-- Writes bytes of a tile, which sets its in-use flag (R44). -/
def Tile.write (t : Tile) (o : Nat) (d : List Byte) : Tile :=
  { t with data := putBytes 0 t.data o d, inUse := true }

/-- Element k of row i of a tile (R42). -/
def Tile.elem (t : Tile) (es i k : Nat) : Nat := leNat (t.bytes (i * t.rlen + k * es) es)

/-! ### Fields (R48) -/

/-- Word n of a command. -/
def EngineCmd.w (c : EngineCmd) (n : Nat) : Nat := wordAt c.words n

def EngineCmd.opcode (c : EngineCmd) : Nat := bits (c.w 0) 15 11

/-- The length of each opcode in words, and the bits its words may set (R45, R47, R48). -/
def mxShape : Nat → Option (Nat × List Nat)
  | 0x00 => some (4, [0xFC00, 0x0FFF, 0x007F, 0x007F])
  | 0x01 | 0x03 => some (8, [0xFC07, 0x00FF, 0xFFFF, 0xFFFF, 0xFFFF, 0, 0, 0])
  | 0x02 | 0x04 => some (8, [0xFC07, 0x03FF, 0xFFFF, 0xFFFF, 0xFFFF, 0, 0, 0])
  | 0x08 => some (8, [0xFFB0, 0xFFFC, 0xFCFF, 0xFFFC, 0xFFF0, 0, 0, 0])
  | 0x09 => some (8, [0xFFBC, 0xFFE0, 0xE0FF, 0xFFFF, 0xFC00, 0xFFFF, 0xFFFF, 0xFFFF])
  | 0x10 => some (4, [0xFC30, 0, 0, 0])
  | 0x11 => some (4, [0xFC33, 0, 0, 0])
  | 0x12 | 0x13 => some (8, [0xFC30, 0x00FF, 0xFFFF, 0xFFFF, 0xFFFF, 0, 0, 0])
  | 0x14 => some (8, [0xFE3C, 0xF0FF, 0xFFFF, 0xFFFF, 0xFFFF, 0, 0, 0])
  | 0x15 => some (4, [0xFE3C, 0xF0E0, 0, 0])
  | _ => none

/-- Whether a command keeps R45. The words of a restored entry behind a 4-word command count too (DESIGN CHOICE,
notes/assumptions/135.md). -/
def wellShaped (shape : Nat → Option (Nat × List Nat)) (c : EngineCmd) : Bool :=
  match shape c.opcode with
  | none => false
  | some (len, masks) =>
    cmdWords c.words == len &&
      (List.range 8).all fun n => c.w n &&& (0xFFFF - masks.getD n 0) == 0

/-- The fields of an MMA. -/
structure MmaFields where
  s    : Bool
  i32  : Bool
  sae  : Bool
  sbe  : Bool
  cn   : Nat
  form : Nat
  fa   : Option Fmt
  fb   : Option Fmt
  ta   : Nat
  tb   : Nat
  tsa  : Nat
  tsb  : Nat
  len  : Nat
  aoff : Nat
  boff : Nat
  bstr : Nat
  sarow : Nat
  sbrow : Nat
  va   : Nat
  deriving DecidableEq, Repr

def mmaFields (c : EngineCmd) : MmaFields :=
  { s := c.opcode == 9, i32 := bit (c.w 0) 9, sae := bit (c.w 0) 8, sbe := bit (c.w 0) 7
    cn := bits (c.w 0) 5 4, form := bits (c.w 0) 3 2
    fa := fmtOfCode (bits (c.w 1) 15 12), fb := fmtOfCode (bits (c.w 1) 11 8)
    ta := bits (c.w 1) 7 5, tb := bits (c.w 1) 4 2
    tsa := bits (c.w 2) 15 13, tsb := bits (c.w 2) 12 10, len := bits (c.w 2) 7 0 + 1
    aoff := bits (c.w 3) 15 8, boff := bits (c.w 3) 7 2, bstr := bits (c.w 3) 7 0
    sarow := bits (c.w 4) 15 10, sbrow := bits (c.w 4) 9 4, va := addrAt c.words 5 }

/-- Groups of a reduction (R54). -/
def MmaFields.groups (f : MmaFields) : Nat := (f.len + 31) / 32

/-- Formats of a tile operand (R18). -/
def tileOperand : Fmt → Bool
  | .e4m3 | .e5m2 | .f16 | .bf16 | .i8 => true
  | _ => false

/-- The formats of an MMA when R16, R18, R26 and R35 allow them. -/
def MmaFields.formats (f : MmaFields) : Option (Fmt × Fmt) :=
  match f.fa, f.fb with
  | some a, some b =>
    let roleB := if f.s then formAdmits f.form b else tileOperand b
    let acc := !f.i32 || (a == .i8 && (b == .i8 || b == .i4) && !f.sae && !f.sbe)
    if tileOperand a && roleB && acc then some (a, b) else none
  | _, _ => none

/-- Rows of one block of a streamed B. -/
def MmaFields.rowsPerBlock (f : MmaFields) (fb : Fmt) : Nat := blockRows f.form fb f.sbe

/-- Rows between block starts (BSTR, R48). -/
def MmaFields.step (f : MmaFields) (fb : Fmt) : Nat := if f.bstr = 0 then f.rowsPerBlock fb else f.bstr

/-- The shape conditions of R54 and R55. -/
def MmaFields.shapesOk (f : MmaFields) (m : Mx) (fa fb : Fmt) : Bool :=
  let ta := m.tile f.ta
  let a := ta.rows == 16 && decide ((f.aoff + f.len) * (fmtBits fa / 8) ≤ ta.rlen)
  let tsa := m.tile f.tsa
  let sa := !f.sae || (decide (f.sarow + f.groups ≤ tsa.rows) && decide (16 ≤ tsa.rlen))
  if f.s then a && sa && (f.bstr == 0 || decide (f.rowsPerBlock fb ≤ f.bstr))
  else
    let tb := m.tile f.tb
    let b := decide (f.boff + f.len ≤ tb.rows) && decide (64 * (fmtBits fb / 8) ≤ tb.rlen)
    let tsb := m.tile f.tsb
    let sb := !f.sbe || (decide (f.sbrow + f.groups ≤ tsb.rows) && decide (64 ≤ tsb.rlen))
    a && sa && b && sb

/-! ### Pieces of scratchpad (R50, R55) -/

/-- The pieces of virtual bytes a command touches, in the order it reaches them, and whether it reads
or writes them. -/
def mxPieces (m : Mx) (c : EngineCmd) : List (Nat × Nat) :=
  let va := 2 * addrAt c.words 2
  let stride := 128 * bits (c.w 1) 7 0
  let t := m.tile (bits (c.w 0) 2 0)
  match c.opcode with
  | 0x01 | 0x03 => (List.range t.rows).map fun j => (vbyte (va + j * stride), t.rlen)
  | 0x02 | 0x04 =>
    let es := 2 ^ bits (c.w 1) 9 8
    (List.range (t.rlen / es)).map fun e => (vbyte (va + e * stride), t.rows * es)
  | 0x09 =>
    let f := mmaFields c
    match f.fb with
    | none => []
    | some fb => (List.range f.groups).map fun b =>
        (vbyte (2 * f.va + b * f.step fb * 128), 128 * f.rowsPerBlock fb)
  | 0x12 | 0x13 => (List.range 16).map fun i => (vbyte (va + i * stride), 256)
  | 0x14 =>
    match fmtOfCode (bits (c.w 1) 15 12) with
    | none => []
    | some fd => (List.range 16).map fun i => (vbyte (va + i * stride), 64 * (fmtBits fd / 8))
  | _ => []

/-- Whether a command's span is written. -/
def mxWrites (c : EngineCmd) : Bool := c.opcode == 3 || c.opcode == 4 || c.opcode == 0x13 || c.opcode == 0x14

/-- The virtual word address in a command. -/
def mxVa (c : EngineCmd) : Nat := if c.opcode = 9 then addrAt c.words 5 else addrAt c.words 2

/-- Targets of a convert-out (R57). -/
def convertAllowed (i32 toTile : Bool) (fd : Fmt) : Bool :=
  let out := match fd with
    | .f32 | .f16 | .bf16 | .e4m3 | .e5m2 | .i32 | .i16 | .i8 => true
    | _ => false
  let src := !i32 || (match fd with | .i32 | .i16 | .i8 | .f32 => true | _ => false)
  out && src && (!toTile || tileOperand fd)

/-- The lowest cause among the checks that a command breaks at issue, causes 1 to 4; 0 for none (R46). A column view
with ES = 3, or of a row length that es does not divide, has cause 3 (DEDUCED, notes/assumptions/16.md). -/
def mxCheck (m : Mx) (c : EngineCmd) : Nat :=
  if !wellShaped mxShape c then 1
  else
    let f := mmaFields c
    let fd := fmtOfCode (bits (c.w 1) 15 12)
    let i32 := bit (c.w 0) 9
    let formatOk : Bool := match c.opcode with
      | 0x08 | 0x09 => f.formats.isSome
      | 0x14 => fd.any (convertAllowed i32 false)
      | 0x15 => fd.any (convertAllowed i32 true)
      | _ => true
    let t := m.tile (bits (c.w 0) 2 0)
    let es := 2 ^ bits (c.w 1) 9 8
    let shapeOk : Bool := match c.opcode with
      | 0x00 =>
        bits (c.w 1) 7 0 == 0 ||
          (decide (1 ≤ c.w 2 ∧ c.w 2 ≤ 64 ∧ 1 ≤ c.w 3 ∧ c.w 3 ≤ 64) && decide (c.w 2 * (4 * c.w 3) ≤ 4096))
      | 0x02 | 0x04 => bits (c.w 1) 9 8 != 3 && t.rlen % es == 0
      | 0x08 | 0x09 =>
        match f.formats with
        | some (fa, fb) => f.shapesOk m fa fb
        | none => true
      | 0x15 =>
        let td := m.tile (bits (c.w 1) 7 5)
        decide (16 ≤ td.rows) && fd.all fun g => decide (64 * (fmtBits g / 8) ≤ td.rlen)
      | _ => true
    let va := mxVa c
    let pieces := mxPieces m c
    let spanOk : Bool := pieces.isEmpty ||
      (va % 2 == 0 && (c.opcode != 9 || 2 * va % 128 == 0) &&
        (!(c.opcode == 2 || c.opcode == 4) || decide (2 * va % 128 + t.rows * es ≤ 128)) &&
        decide ((spanPages pieces).length ≤ 2))
    if !formatOk then 2 else if !shapeOk then 3 else if !spanOk then 4 else 0

/-! ### Hazards (R59) -/

/-- Tiles that a command reads and writes. -/
def mxTiles (c : EngineCmd) : List Nat × List Nat :=
  let t := bits (c.w 0) 2 0
  let cn := 8 + bits (c.w 0) 5 4
  let f := mmaFields c
  let scales := (if f.sae then [f.tsa] else []) ++ (if f.sbe && !f.s then [f.tsb] else [])
  match c.opcode with
  | 0x01 | 0x02 => ([], [t])
  | 0x03 | 0x04 => ([t], [])
  | 0x08 => ([f.ta, f.tb] ++ scales, [cn])
  | 0x09 => ([f.ta] ++ scales, [cn])
  | 0x10 | 0x12 => ([], [cn])
  | 0x11 => ([8 + bits (c.w 0) 1 0], [cn])
  | 0x13 | 0x14 => ([cn], [])
  | 0x15 => ([cn], [bits (c.w 1) 7 5])
  | _ => ([], [])

/-- Whether an MMA names the resident accumulator (R61). -/
def Mx.isResident (m : Mx) (cn : Nat) : Bool := m.resident == some cn

/-- Whether the hazards of R59 let a command issue past the write-backs in flight. -/
def Mx.free (m : Mx) (c : EngineCmd) : Bool :=
  let (rd, wr) := mxTiles c
  let mma := c.opcode == 8 || c.opcode == 9
  let chains := mma && m.isResident (bits (c.w 0) 5 4)
  if c.opcode = 0 then m.writeBacks.isEmpty
  else m.writeBacks.all fun b =>
    (chains && b.acc == bits (c.w 0) 5 4 || !((rd ++ wr).contains (8 + b.acc))) &&
      wr.all fun t => !b.reads.contains t

/-! ### Faults (R66) -/

/-- Stops the head command with a fault: the engine holds itself, MX_FAULT is written and an exception
is raised. The address is 0 for the causes to which the table gives none (DESIGN CHOICE, notes/assumptions/111.md). -/
def State.mxFault (s : State) (k cause pfCause done : Nat) (v : Nat) : State :=
  let m := s.mxOf k
  let op := match m.queue with | c :: _ => c.opcode | [] => 0
  let s := s.setReg .mxFault k 0 (0x80000000 + cause * 0x8000000 + op * 0x400000 + done % 256 * 256)
  let fa := wordOfByte v
  let s := s.setReg .mxFaultVaLo k 0 (fa.toNat % 0x100000000)
  let s := s.setReg .mxFaultVaHi k 0 (fa.toNat / 0x100000000)
  let s := s.modMx k fun m => { m with held := true }
  if cause = 6 then s.raise k 3 1 pfCause fa else s.raise k 6 1 cause

/-- Stops the head command on a poisoned granule (R107): a scratchpad fault. -/
def State.mxPoison (s : State) (k g v : Nat) : State :=
  let s := s.modMx k fun m => { m with held := true }
  s.engineSpFault k 1 1 0 0 (g / 32) (wordOfByte v)

/-- Ends a command that met what it met. -/
def State.mxMet (s : State) (k : Nat) (done : Nat) : Met → Issue
  | .fine => .done s
  | .fault c v => .fault (s.mxFault k 6 c done v)
  | .poison g v => .fault (s.mxPoison k g v)

/-- Marks the head command as begun writing (R63, R64). -/
def State.mxBegun (s : State) (k : Nat) : State :=
  s.modMx k fun m => { m with queue := match m.queue with
    | c :: r => { c with begun := true } :: r
    | [] => [] }

/-- Takes the head command off the queue: it has completed, or writes back beside the pipeline. -/
def State.mxPop (s : State) (k : Nat) : State := s.modMx k fun m => { m with queue := m.queue.tail }

/-! ### The commands -/

/-- TCFG (R52). -/
def mxTcfg (m : Mx) (c : EngineCmd) : Mx :=
  let m := (List.range 8).foldl (fun m n =>
    if bit (c.w 1) n then m.setTile n { rows := c.w 2, rlen4 := c.w 3, data := [], inUse := false } else m) m
  let m := (List.range 4).foldl (fun m n =>
    if bit (c.w 1) (8 + n) then m.setTile (8 + n) {} else m) m
  match m.resident with
  | some n => if bit (c.w 1) (8 + n) then { m with resident := none } else m
  | none => m

/-- A write to an accumulator by another command than an MMA ends its residency (R61). -/
def Mx.endResidency (m : Mx) (cn : Nat) : Mx :=
  if m.isResident cn then { m with resident := none } else m

/-- Loads tile n row by row from its pieces; stops at what it meets (R53, R63). -/
def State.loadRows (s : State) (k n : Nat) (pt : List (Nat × PageIs)) (ps : List (Nat × Nat)) :
    Nat × Met × State :=
  ps.foldl (fun (acc : Nat × Met × State) p =>
    match acc.2.1 with
    | .fine =>
      let (d, met, t) := acc.2.2.readSpan k pt p.1 p.2
      match met with
      | .fine =>
        (acc.1 + 1, .fine, (t.mxBegun k).modMx k fun m => m.setTile n ((m.tile n).write (acc.1 * p.2) d))
      | e => (acc.1, e, t)
    | _ => acc) (0, .fine, s)

/-- Stores rows of bytes at the pieces, in order (R53, R63). -/
def State.storeRows (s : State) (k : Nat) (pt : List (Nat × PageIs)) (ps : List (Nat × Nat))
    (row : Nat → List Byte) : Nat × Met × State :=
  ps.foldl (fun (acc : Nat × Met × State) p =>
    match acc.2.1 with
    | .fine =>
      let (met, t) := (acc.2.2.mxBegun k).writeSpan k pt p.1 (row acc.1)
      (match met with
        | .fine => (acc.1 + 1, .fine, t)
        | e => (acc.1, e, t))
    | _ => acc) (0, .fine, s)

/-- Reads every element access of a column view (R50); stops at what it meets. -/
def State.readColumns (s : State) (k : Nat) (pt : List (Nat × PageIs)) (ps : List (Nat × Nat)) :
    List (List Byte) × Met × State :=
  ps.foldl (fun (acc : List (List Byte) × Met × State) p =>
    match acc.2.1 with
    | .fine =>
      let (d, met, t) := acc.2.2.readSpan k pt p.1 p.2
      (acc.1 ++ [d], met, t)
    | _ => acc) ([], .fine, s)

/-- Row j of a tile gathered from its column accesses (R50). -/
def gatherRow (cols : List (List Byte)) (es j : Nat) : List Byte :=
  cols.flatMap fun d => (d.drop (j * es)).take es

/-- TLD.C: the first rows of the tile (R50, R53). -/
def State.loadColumns (s : State) (k n es rows : Nat) (pt : List (Nat × PageIs)) (ps : List (Nat × Nat)) :
    Nat × Met × State :=
  let (cols, met, s) := s.readColumns k pt ps
  match met with
  | .fine =>
    (rows, .fine, if rows = 0 then s else (s.mxBegun k).modMx k fun m =>
      m.setTile n ((List.range rows).foldl (fun t j => t.write (j * t.rlen) (gatherRow cols es j)) (m.tile n)))
  | e => (0, e, s)

/-- TST.C: the first rows of the tile in increasing order, each element to its place (R50, R53). -/
def State.storeColumns (s : State) (k n es rows : Nat) (pt : List (Nat × PageIs)) (ps : List (Nat × Nat)) :
    Nat × Met × State :=
  let t := (s.mxOf k).tile n
  (List.range rows).foldl (fun (acc : Nat × Met × State) j =>
    match acc.2.1 with
    | .fine =>
      let (_, met, u) := ps.foldl (fun (a : Nat × Met × State) p =>
        match a.2.1 with
        | .fine =>
          let (met, u) := (a.2.2.mxBegun k).writeSpan k pt (p.1 + j * es) (t.bytes (j * t.rlen + a.1 * es) es)
          (a.1 + 1, met, u)
        | _ => a) (0, .fine, acc.2.2)
      (match met with
        | .fine => (acc.1 + 1, .fine, u)
        | e => (acc.1, e, u))
    | _ => acc) (0, .fine, s)

/-! ### Multiply-accumulate -/

/-- One group of an MMA on the cells: the elements of A by row, of B by column, and the scales. -/
def groupOnCells (cells : SMap Byte) (i32 : Bool) (fa fb : Fmt) (n : Nat) (a : Nat → Nat → Nat)
    (b : Nat → Nat → Nat) (sa sb : Nat → Nat) : SMap Byte × Bool :=
  let ks := List.range n
  let out := (List.range 1024).map fun e =>
    let i := e / 64
    let c := e % 64
    let acc := leNat (getBytes 0 cells (4 * e) 4)
    let as := ks.map (a i)
    let bs := ks.map fun r => b r c
    if i32 then dotGroupI32 fa fb acc as bs else (dotGroupF32 fa fb acc as bs (sa i) (sb c), false)
  (ofBytes 0 (out.flatMap fun p => leBytes 4 p.1), out.any (·.2))

/-- The A element at reduction index r, the A scale, of group g (R54). -/
def mmaA (m : Mx) (f : MmaFields) (fa : Fmt) (g i r : Nat) : Nat :=
  (m.tile f.ta).elem (fmtBits fa / 8) i (f.aoff + 32 * g + r)

def mmaSa (m : Mx) (f : MmaFields) (g i : Nat) : Nat :=
  if f.sae then (m.tile f.tsa).elem 1 (f.sarow + g) i else 0x7F

/-- The products in group g. -/
def MmaFields.groupLen (f : MmaFields) (g : Nat) : Nat := min 32 (f.len - 32 * g)

/-- One group of MMA.T (R54). -/
def mmaGroupT (m : Mx) (f : MmaFields) (fa fb : Fmt) (cells : SMap Byte) (g : Nat) : SMap Byte × Bool :=
  groupOnCells cells f.i32 fa fb (f.groupLen g) (mmaA m f fa g)
    (fun r c => (m.tile f.tb).elem (fmtBits fb / 8) (f.boff + 32 * g + r) c)
    (mmaSa m f g) (fun c => if f.sbe then (m.tile f.tsb).elem 1 (f.sbrow + g) c else 0x7F)

/-- One group of MMA.S from the bytes of its block (R36, R55). -/
def mmaGroupS (m : Mx) (f : MmaFields) (fa fb : Fmt) (block : List Nat) (cells : SMap Byte) (g : Nat) :
    SMap Byte × Bool :=
  let data := if f.sbe then block.drop 128 else block
  groupOnCells cells f.i32 fa (widenedFmt fb) (f.groupLen g) (mmaA m f fa g)
    (fun r c => blockElem f.form fb data r c)
    (mmaSa m f g) (fun c => if f.sbe then block.getD c 0 else 0x7F)

/-- Runs n groups of an MMA, reading streamed blocks as it goes: the cells, whether a step saturated,
the groups done, and what it met. -/
def State.mmaGroups (s : State) (k : Nat) (f : MmaFields) (fa fb : Fmt) (pt : List (Nat × PageIs))
    (ps : List (Nat × Nat)) (n : Nat) (cells : SMap Byte) : SMap Byte × Bool × Nat × Met × State :=
  let m := s.mxOf k
  (List.range n).foldl (fun (acc : SMap Byte × Bool × Nat × Met × State) g =>
    let (cells, sat, done, met, t) := acc
    match met with
    | .fine =>
      if f.s then
        let p := ps.getD g (0, 0)
        let (d, met, t) := t.readSpan k pt p.1 p.2
        (match met with
          | .fine =>
            let (c, st) := mmaGroupS m f fa fb (d.map (·.toNat)) cells g
            (c, sat || st, done + 1, .fine, t)
          | e => (cells, sat, done, e, t))
      else
        let (c, st) := mmaGroupT m f fa fb cells g
        (c, sat || st, done + 1, .fine, t)
    | _ => acc) (cells, false, 0, .fine, s)

/-- Sets the engine's sticky saturation flag (R58). -/
def State.mxSat (s : State) (k : Nat) (sat : Bool) : State :=
  if sat then s.setFlag fMX_STATUS_SAT true k else s

/-- The accumulator value with which an MMA begins: the cells of the resident accumulator, else its tile (R59, R61). -/
def Mx.start (m : Mx) (cn : Nat) : SMap Byte := if m.isResident cn then m.cells else (m.tile (8 + cn)).data

/-- An MMA that stops after its issue discards the cells (R61, R63): an accumulator that it had displaced is resident no
longer, and the one with which it chains keeps the value kept for it (DEDUCED, notes/assumptions/136.md). -/
def State.mxUnload (s : State) (k cn : Nat) : State :=
  s.modMx k fun m => if m.isResident cn then m else { m with resident := none }

/-- Executes an MMA up to its last outer product (R40, R59, R61, R67). A mismatch is found once a group is formed: a
repeated execution that stops in its first group had none before it. -/
def State.mxMma (s : State) (k : Nat) (c : EngineCmd) (pt : List (Nat × PageIs)) (rect : Option Rect)
    (check : ResidueCheck) : Issue :=
  let f := mmaFields c
  let m := s.mxOf k
  match f.formats with
  | none => .wait
  | some (fa, fb) =>
    let (n, s) : Nat × State :=
      if check = .twice then let (r, s) := s.drawNat; (r % f.groups + 1, s) else (f.groups, s)
    let (cells, sat, done, met, s) := s.mmaGroups k f fa fb pt (mxPieces m c) n (m.start f.cn)
    let s := s.mxSat k sat
    let s := if check = .clean ∨ done = 0 then s else s.count fMX_RESIDUE_RETRIES k
    match met with
    | .fine =>
      if check = .twice then .fault (((s.mxUnload k f.cn).count fMX_RESIDUE_FAULTS k).mxFault k 7 0 (32 * (done - 1)) 0)
      else
        .done (((s.sbAdd k { owner := .matrix, reads := rect.toList }).modMx k fun m => { m with
          cells := cells
          resident := some f.cn
          writeBacks := m.writeBacks ++ [⟨f.cn, cells, (mxTiles c).1⟩] }).mxPop k)
    | e => (s.mxUnload k f.cn).mxMet k (32 * done) e

/-- Completes the oldest write-back (R59, R61): the accumulator takes the cells; its flag is set. -/
def State.mxWriteBack (s : State) (k : Nat) : State :=
  match (s.mxOf k).writeBacks with
  | [] => s
  | b :: r =>
    (s.modMx k fun m =>
      let t := m.tile (8 + b.acc)
      { m.setTile (8 + b.acc) { t with data := b.cells, inUse := true } with writeBacks := r }).sbRelease k .matrix

/-- Every write-back in flight completes (R59). -/
def State.mxWriteBacks (s : State) (k : Nat) : State :=
  (s.mxOf k).writeBacks.foldl (fun t _ => t.mxWriteBack k) s

/-- Row i of an accumulator converted out (R57). The bits of a NaN stay in a conversion to the type it has (DEDUCED,
notes/assumptions/137.md). -/
def convertRow (m : Mx) (cn : Nat) (i32 : Bool) (rm : Nat) (fd : Fmt) (i : Nat) : List (Nat × Bool) :=
  let t := m.tile (8 + cn)
  let src : Fmt := if i32 then .i32 else .f32
  (List.range 64).map fun n =>
    let code := leNat (t.bytes (256 * i + 4 * n) 4)
    if src = fd then (code, false) else convert src fd (roundingOf rm) code

/-- ACVT.T: the first rows (R57). -/
def mxConvertTile (m : Mx) (c : EngineCmd) (fd : Fmt) (rows : Nat) : Mx × Bool :=
  let td := bits (c.w 1) 7 5
  (List.range rows).foldl (fun (acc : Mx × Bool) i =>
    let row := convertRow m (bits (c.w 0) 5 4) (bit (c.w 0) 9) (bits (c.w 0) 3 2) fd i
    let t := acc.1.tile td
    (acc.1.setTile td (t.write (i * t.rlen) (row.flatMap fun p => leBytes (fmtBits fd / 8) p.1)),
      acc.2 || row.any (·.2))) (m, false)

/-- Replaces the first rows of an accumulator, which is in use from the first on (R44, R56). -/
def Mx.setRows (m : Mx) (cn rows : Nat) (d : SMap Byte) : Mx :=
  let t := m.tile (8 + cn)
  if rows = 0 then m else m.setTile (8 + cn) { t with
    data := if rows = 16 then d else putBytes 0 t.data 0 (getBytes 0 d 0 (256 * rows)), inUse := true }

/-- The rows that a command of the transfer pipeline moves (R47, R53, R56, R57). -/
def mxRows (m : Mx) (c : EngineCmd) : Nat :=
  if 1 ≤ c.opcode ∧ c.opcode ≤ 4 then (m.tile (bits (c.w 0) 2 0)).rows else 16

/-- A command of the transfer pipeline moves its first rows, in increasing order (R53, R56, R57, R63): how many it
moved, and what it met. -/
def State.mxTransfer (s : State) (k : Nat) (c : EngineCmd) (pt : List (Nat × PageIs)) (rows : Nat) : Nat × Met × State :=
  let m := s.mxOf k
  let ps := mxPieces m c
  let tile := bits (c.w 0) 2 0
  let cn := bits (c.w 0) 5 4
  let es := 2 ^ bits (c.w 1) 9 8
  match c.opcode with
  | 0x01 => s.loadRows k tile pt (ps.take rows)
  | 0x02 => s.loadColumns k tile es rows pt ps
  | 0x03 =>
    let t := m.tile tile
    s.storeRows k pt (ps.take rows) fun j => t.bytes (j * t.rlen) t.rlen
  | 0x04 => s.storeColumns k tile es rows pt ps
  | 0x10 =>
    (rows, .fine, s.modMx k fun m =>
      let m := m.setRows cn rows []
      if m.isResident cn then { m with cells := (m.tile (8 + cn)).data } else m)
  | 0x11 => (rows, .fine, s.modMx k fun m =>
      let m := m.setRows cn rows (m.tile (8 + bits (c.w 0) 1 0)).data
      if rows = 0 then m else m.endResidency cn)
  | 0x12 =>
    let (d, met, t) := s.loadRows k (8 + cn) pt (ps.take rows)
    (d, met, if d = 0 then t else t.modMx k fun m => m.endResidency cn)
  | 0x13 =>
    let t := m.tile (8 + cn)
    s.storeRows k pt (ps.take rows) fun i => t.bytes (256 * i) 256
  | 0x14 =>
    match fmtOfCode (bits (c.w 1) 15 12) with
    | none => (0, .fine, s)
    | some fd =>
      let row (i : Nat) := convertRow m cn (bit (c.w 0) 9) (bits (c.w 0) 3 2) fd i
      let (d, met, u) := s.storeRows k pt (ps.take rows) fun i => (row i).flatMap fun p => leBytes (fmtBits fd / 8) p.1
      (d, met, u.mxSat k ((List.range d).any fun i => (row i).any (·.2)))
  | 0x15 =>
    match fmtOfCode (bits (c.w 1) 15 12) with
    | none => (0, .fine, s)
    | some fd =>
      let (m', sat) := mxConvertTile m c fd rows
      (rows, .fine, (s.setMx k m').mxSat k sat)
  | _ => (0, .fine, s)

/-- Executes the head command, which has passed its checks, hazards and admission. -/
def State.mxRun (s : State) (k : Nat) (c : EngineCmd) (pt : List (Nat × PageIs)) (rect : Option Rect)
    (check : ResidueCheck) : Issue :=
  match c.opcode with
  | 0x00 => .done ((s.setMx k (mxTcfg (s.mxOf k) c)).mxPop k)
  | 0x08 | 0x09 => s.mxMma k c pt rect check
  | _ =>
    match s.mxTransfer k c pt (mxRows (s.mxOf k) c) with
    | (_, .fine, t) => .done (t.mxPop k)
    | (done, e, t) => t.mxMet k done e

/-- What the head of the matrix queue may do (R46, R49, R51, R59): wait, be refused, or run under a page list and a
rectangle. -/
inductive MxHead where
  | wait
  | refused (s : State)
  | go (c : EngineCmd) (pt : List (Nat × PageIs)) (rect : Option Rect) (s : State)

/-- Looks at the head of the matrix queue (R46, R49, R51, R59). -/
def State.mxLook (s : State) (k : Nat) : MxHead :=
  let m := s.mxOf k
  match m.queue with
  | [] => .wait
  | c :: _ =>
    if m.held || m.saving.any (·.restore) then .wait
    else
      let cause := mxCheck m c
      if cause ≠ 0 then .refused (s.mxFault k cause 0 0 (if cause = 4 then 2 * mxVa c else 0))
      else if !m.free c then .wait
      else
        let ps := mxPieces m c
        let kind : AccessKind := if mxWrites c then .write else .read
        match s.pageTable k (spanPages ps) kind c.ring.toNat with
        | (none, _) => .wait
        | (some pt, t) =>
          match outsideByte pt ps with
          | some v => .refused (t.mxFault k 5 0 0 v)
          | none =>
            let rect := rowsRect pt ps
            let reads := if mxWrites c then [] else rect.toList
            let write := if mxWrites c then rect else none
            if !t.slotsFull k reads || !t.sbAdmits k reads write then .wait else .go c pt rect t

/-- Tries to issue the head of the matrix queue (R46, R49, R51, R59). -/
def State.mxTry (s : State) (k : Nat) (check : ResidueCheck) : Issue :=
  match s.mxLook k with
  | .wait => .wait
  | .refused t => .fault t
  | .go c pt rect t => t.mxRun k c pt rect check

/-! ### Commands in flight (R59, R62, R63) -/

/-- The pipeline of a command (R47): the array, or the transfer pipeline. TCFG has none. -/
def EngineCmd.inArray (c : EngineCmd) : Bool := c.opcode == 8 || c.opcode == 9
def EngineCmd.inTransfer (c : EngineCmd) : Bool := c.opcode != 0 && !c.inArray

/-- Whether two commands are of the two pipelines, and share no tile that either writes (R59). -/
def mxApart (c d : EngineCmd) : Bool :=
  let (rc, wc) := mxTiles c
  let (rd, wd) := mxTiles d
  (c.inArray && d.inTransfer || c.inTransfer && d.inArray) &&
    wc.all (fun t => !(rd ++ wd).contains t) && wd.all fun t => !rc.contains t

/-- The engine as the command behind one in flight finds it: the rectangle of the first is declared (R51). -/
def State.mxBehind (s : State) (k : Nat) (c : EngineCmd) (rect : Option Rect) : State :=
  (s.sbAdd k (if mxWrites c then { owner := .matrix, write := rect } else { owner := .matrix, reads := rect.toList })).mxPop k

/-- The commands that may be in flight: the head when it may issue, and the one behind it in the other pipeline. -/
def State.mxFlying (s : State) (k : Nat) : List EngineCmd :=
  match s.mxLook k with
  | .go c _ rect t =>
    match (t.mxBehind k c rect).mxLook k with
    | .go d _ _ _ => if mxApart c d then [c, d] else [c]
    | _ => [c]
  | _ => []

/-- A transfer command at the head of the queue is stopped: whether it was in flight, and how many rows it had moved,
is free (notes/assumptions/15.md). -/
def State.mxStopTransfer (s : State) (k : Nat) : Bool × State :=
  let (r, s) := s.drawNat
  match s.mxLook k with
  | .go c pt _ t =>
    let n := r % (mxRows (t.mxOf k) c + 2)
    if n = 0 then (false, s)
    else
      match t.mxTransfer k c pt (n - 1) with
      | (_, .fine, u) => (true, if mxWrites c || 1 < n then u.mxBegun k else u)
      | _ => (false, s)
  | _ => (false, s)

/-- An MMA at the head of the queue is stopped: whether it was in flight, and how many groups it had added, is free; it
leaves its accumulator as it was. -/
def State.mxStopMma (s : State) (k : Nat) : Bool × State :=
  let (r, s) := s.drawNat
  match s.mxLook k with
  | .go c pt _ t =>
    let f := mmaFields c
    match r % (f.groups + 2), f.formats with
    | g + 1, some (fa, fb) =>
      let m := t.mxOf k
      match t.mmaGroups k f fa fb pt (mxPieces m c) g (m.start f.cn) with
      | (_, sat, _, .fine, u) => (true, (u.mxSat k sat).mxUnload k f.cn)
      | _ => (false, s)
    | _, _ => (false, s)
  | _ => (false, s)

/-- The command at the head of the queue is stopped. -/
def State.mxStopHead (s : State) (k : Nat) (c : EngineCmd) : Bool × State :=
  if c.inArray then s.mxStopMma k else if c.inTransfer then s.mxStopTransfer k else (false, s)

/-- The command behind one in flight is stopped too. -/
def State.mxStopBehind (s : State) (k : Nat) (d : EngineCmd) : State :=
  ((s.mxPop k).mxStopHead k d).2.modMx k fun m =>
    { m with queue := (s.mxOf k).queue.take 1 ++ m.queue }

/-- An entry stops the commands in flight, which stay at the head of the queue (R62, R63): an MMA leaves its accumulator
as it was; a transfer command leaves the rows that it had moved. -/
def State.mxStop (s : State) (k : Nat) : State :=
  match s.mxFlying k with
  | [] => s
  | [c] => (s.mxStopHead k c).2
  | c :: d :: _ =>
    match s.mxStopHead k c with
    | (true, t) => t.mxStopBehind k d
    | (false, t) => t

/-- The matrix engine is held at an entry, which records the TSR (R62, R250): one that is held already and has recorded
one keeps it. -/
def State.mxHold (s : State) (k : Nat) (tsr : Addr) : State :=
  let m := s.mxOf k
  let s := if m.held then s else s.mxStop k
  s.modMx k fun x => { x with held := true, heldTsr := heldNow m.held m.heldTsr tsr }

/-- The head of a core's matrix queue has this opcode. -/
def State.mxHeadIs (s : State) (k op : Nat) : Bool :=
  match (s.mxOf k).queue with
  | c :: _ => c.opcode == op
  | [] => false

/-- Issues the head of the matrix queue of core k when it has this opcode. -/
def State.mxIssue (s : State) (k op : Nat) (check : ResidueCheck := .clean) : State :=
  if s.mxHeadIs k op then (s.mxTry k check).state s else s

/-! ### Abandoning, saving and restoring -/

/-- Tile n holds free values, and is in use (R64). A resident accumulator takes them into the cells too (R61). -/
def Mx.spoil (m : Mx) (n : Nat) (d : List Byte) : Mx :=
  let m := m.setTile n { m.tile n with data := putBytes 0 (m.tile n).data 0 d, inUse := true }
  if m.resident.any fun c => 8 + c == n then { m with cells := (m.tile n).data } else m

/-- What an abandon does to the tiles and the span of a command: every byte of the span of a stopped store, and every
byte of a tile that a stopped command had begun to write, holds a free value (R64). -/
def State.mxAbandonOne (s : State) (k : Nat) (c : EngineCmd) : State :=
  if !c.begun then s
  else if mxWrites c then
    (spanPieces (mxPieces (s.mxOf k) c)).foldl (fun t q =>
      let (d, t) := t.drawBytes q.2
      match t.pageIs k (q.1 / 0x10000) .write c.ring.toNat with
      | (some (.own o), u) => u.spStore k (o + q.1 % 0x10000) d
      | _ => t) s
  else
    (mxTiles c).2.foldl (fun t n =>
      let (d, t) := t.drawBytes 4096
      t.modMx k fun m => m.spoil n d) s

/-- MX_CTRL.ABANDON (R64): ignored while not held. -/
def State.mxAbandon (s : State) (k : Nat) : State :=
  let m := s.mxOf k
  if !m.held then s
  else
    let s := m.queue.foldl (fun t c => t.mxAbandonOne k c) s
    s.modMx k fun m => { m with queue := [] }

/-- Tiles whose in-use flag is set, in save order (R68). -/
def Mx.used (m : Mx) : List Nat := (List.range 12).filter fun n => (m.tile n).inUse

/-- The in-use mask (R68). -/
def Mx.mask (m : Mx) : Nat := m.used.foldl (fun x n => x + 2 ^ n) 0

/-- The save image (R68). -/
def Mx.image (m : Mx) (sat : Bool) : List Byte :=
  let shape (n : Nat) := (m.tile n).rlen4 * 128 + (m.tile n).rows
  let head := leBytes 2 1 ++ leBytes 2 m.mask ++ leBytes 2 m.queue.length ++
    leBytes 2 (if sat then 1 else 0) ++ (List.range 8).flatMap fun n => leBytes 2 (shape n)
  padTo 128 head ++ padTo 256 (m.queue.flatMap queueImage) ++
    m.used.flatMap fun n => (m.tile n).bytes 0 4096

/-- The rectangle of an image of n rows. -/
def imageRect (base n : Nat) : Rect := ⟨base, base + n - 1, 0, 31⟩

/-- Declares the rectangle of a save or restore when the scoreboard admits it now (R71). -/
def State.declareImage (s : State) (k : Nat) (owner : SbOwner) (j : SaveJob) : State :=
  let r := imageRect j.base j.rows
  let e : SbEntry := if j.restore then { owner := owner, reads := [r] } else { owner := owner, write := some r }
  if s.sbAdmits k e.reads e.write then s.sbAdd k e else s

/-- MX_CTRL.SAVE (R69, R71). The write-backs in flight, which a hold never stops, come first (R59). -/
def State.mxSaveStart (s : State) (k : Nat) : State :=
  if (s.mxOf k).saving.isSome then s
  else if !(s.mxOf k).held then s.setFlag fMX_STATUS_SRERR true k
  else
    let s := s.mxWriteBacks k
    let m := s.mxOf k
    let base := s.fld fMX_SAVE_BASE_ROW k
    let rows := 3 + 32 * m.used.length
    if 8192 < base + rows then s.setFlag fMX_STATUS_SRERR true k
    else
      let j : SaveJob := ⟨false, base, rows, m.image (s.flag fMX_STATUS_SAT k)⟩
      (s.setMx k { m with saving := some j }).declareImage k .saveMatrix j

/-- Whether a shape word keeps R41. -/
def shapeOk (w : Nat) : Bool :=
  let rows := bits w 6 0
  let r4 := bits w 13 7
  decide (1 ≤ rows ∧ rows ≤ 64 ∧ 1 ≤ r4 ∧ r4 ≤ 64) && decide (rows * (4 * r4) ≤ 4096)

/-- Set bits of a mask below n. -/
def popCount (n x : Nat) : Nat := ((List.range n).filter (bit x)).length

/-- MX_CTRL.RESTORE (R70, R71). One written while the engine is not held is refused (DESIGN CHOICE,
notes/assumptions/109.md). A poisoned granule in the image ends the restore with a scratchpad fault (DESIGN CHOICE,
notes/assumptions/110.md). The write-backs in flight come first (R59). -/
def State.mxRestoreStart (s : State) (k : Nat) : State :=
  let m := s.mxOf k
  if m.saving.isSome then s
  else if !m.held then s.setFlag fMX_STATUS_SRERR true k
  else
    let base := s.fld fMX_SAVE_BASE_ROW k
    match s.spRead k (base * 128) 128 with
    | (_, some g, t) => t.mxPoison k g 0
    | (h, none, t) =>
      let rows := 3 + 32 * popCount 12 (byteWord h 1)
      if byteWord h 0 ≠ 1 ∨ 16 < byteWord h 2 ∨ !((List.range 8).all fun n => shapeOk (byteWord h (4 + n)))
          ∨ 8192 < base + rows then t.setFlag fMX_STATUS_SRERR true k
      else
        let j : SaveJob := ⟨true, base, rows, h⟩
        ((t.mxWriteBacks k).modMx k fun m => { m with saving := some j }).declareImage k .saveMatrix j

/-- Queue entries read from an image; the ring that pushed each is not in the image and is free. -/
def State.restoreQueue (s : State) (n : Nat) (image : List Byte) : List EngineCmd × State :=
  (List.range n).foldl (fun (acc : List EngineCmd × State) i =>
    let (r, t) := acc.2.drawNat
    (acc.1 ++ [{ words := bytesHalf ((image.drop (16 * i)).take 16), ring := BitVec.ofNat 2 r }], t)) ([], s)

/-- Finishes a restore (R70). A poisoned granule leaves the engine as it was (DESIGN CHOICE, notes/assumptions/110.md). -/
def State.mxRestoreEnd (s : State) (k : Nat) (j : SaveJob) : State :=
  match s.spRead k (j.base * 128) (j.rows * 128) with
  | (_, some g, t) => (t.modMx k fun m => { m with saving := none }).mxPoison k g 0
  | (d, none, t) =>
    let h := j.image
    let mask := byteWord h 1
    let (q, t) := t.restoreQueue (byteWord h 2) (d.drop 128)
    let tiles := (List.range 12).foldl (fun (acc : SMap Tile × Nat) n =>
      let w := byteWord h (4 + n)
      let base : Tile := if n < 8 then { rows := bits w 6 0, rlen4 := bits w 13 7 } else {}
      if bit mask n then
        (put {} acc.1 n { base with data := ofBytes 0 ((d.drop (384 + 4096 * acc.2)).take 4096), inUse := true },
          acc.2 + 1)
      else (put {} acc.1 n base, acc.2)) (([] : SMap Tile), 0)
    let t := t.modMx k fun m => { m with tiles := tiles.1, queue := q, resident := none, cells := [], saving := none }
    t.setFlag fMX_STATUS_SAT (bit (byteWord h 3) 0) k

/-- A matrix save or restore finishes its last row (R69, R70). -/
def State.mxSaveEnd (s : State) (k : Nat) : State :=
  match (s.mxOf k).saving with
  | none => s
  | some j =>
    let s := if (s.spOf k).scoreboard.any (·.owner == .saveMatrix) then s else s.declareImage k .saveMatrix j
    if !(s.spOf k).scoreboard.any (·.owner == .saveMatrix) then s
    else if j.restore then (s.mxRestoreEnd k j).sbRelease k .saveMatrix
    else
      let s := s.spStore k (j.base * 128) j.image
      (s.modMx k fun m => { m with saving := none }).sbRelease k .saveMatrix

/-! ### The commands of the table -/

def execTcfg (k : CcId) (s : State) : Host.Outcome State Fault Refusal := .next (s.mxIssue k 0x00)
def execTldR (k : CcId) (s : State) : Host.Outcome State Fault Refusal := .next (s.mxIssue k 0x01)
def execTldC (k : CcId) (s : State) : Host.Outcome State Fault Refusal := .next (s.mxIssue k 0x02)
def execTstR (k : CcId) (s : State) : Host.Outcome State Fault Refusal := .next (s.mxIssue k 0x03)
def execTstC (k : CcId) (s : State) : Host.Outcome State Fault Refusal := .next (s.mxIssue k 0x04)
def execMmaT (k : CcId) (residue : ResidueCheck) (s : State) : Host.Outcome State Fault Refusal :=
  .next (s.mxIssue k 0x08 residue)
def execMmaS (k : CcId) (residue : ResidueCheck) (s : State) : Host.Outcome State Fault Refusal :=
  .next (s.mxIssue k 0x09 residue)
def execAzero (k : CcId) (s : State) : Host.Outcome State Fault Refusal := .next (s.mxIssue k 0x10)
def execAmovC (k : CcId) (s : State) : Host.Outcome State Fault Refusal := .next (s.mxIssue k 0x11)
def execAmovL (k : CcId) (s : State) : Host.Outcome State Fault Refusal := .next (s.mxIssue k 0x12)
def execAmovS (k : CcId) (s : State) : Host.Outcome State Fault Refusal := .next (s.mxIssue k 0x13)
def execAcvtS (k : CcId) (s : State) : Host.Outcome State Fault Refusal := .next (s.mxIssue k 0x14)
def execAcvtT (k : CcId) (s : State) : Host.Outcome State Fault Refusal := .next (s.mxIssue k 0x15)

/-- The oldest MMA in flight completes its write-back (R59). -/
def execMmaWriteBack (k : CcId) (s : State) : Host.Outcome State Fault Refusal := .next (s.mxWriteBack k)

/-- The head command, whatever its opcode, is refused or faults (R66); a head that would run or wait is
left for its own row. -/
def execMatrixFault (k : CcId) (s : State) : Host.Outcome State Fault Refusal :=
  .next (match s.mxTry k .clean with
    | .fault t => t
    | _ => s)

end Sys2Proof.Machine
end

