-- ==== Sys2Proof/Machine/Mesh.lean ====
section
/-! DEFINITION. The stream planes (R150–R177), the slices' stream windows (R161, R162) and the stall
watch (R183–R186). -/

namespace Sys2Proof.Machine

/-! ### Output sides (R159) -/

/-- The side has moved a beat: its entry counts it (R159), and the stall watch arms again (R183). -/
def Side.moved1 (x : Side) (countm1 clock : Nat) : Side :=
  let x := { x with recorded := false, movedAt := some clock }
  if countm1 ≤ x.moved then { x with entry := (x.entry + 1) % 256, moved := 0, voiding := none }
  else { x with moved := x.moved + 1 }

/-- The beat in the link latch of port L or D goes on into the crossing behind it, while that has room (R153, R155). An exit
discards a void (R172). -/
def State.crossLink (s : State) (r p port : Nat) : State :=
  let key := sideKey r p port true
  let x := s.sideOf key
  let emptied (t : State) : State := t.setSide key { x with latch := none }
  match x.latch with
  | none => s
  | some m =>
    match port with
    | 4 =>
      if m.kind = .void then emptied s
      else if !s.exitRoom r p then s
      else (emptied s).modSp r fun q => { q with arrivals := put [] q.arrivals p (get [] q.arrivals p ++ [m]) }
    | 5 =>
      match routerSlice r with
      | none => s
      | some sl =>
        if 4 ≤ (get [] (s.slice sl).inq p).length then s
        else (emptied s).modSlice sl fun q => { q with inq := put [] q.inq p (get [] q.inq p ++ [m]) }
    | _ => s

/-- Whether the link latch of an output that leads somewhere is free (R153). -/
def State.outputFree (s : State) (r p port : Nat) : Bool :=
  (port == 4 || (port == 5 && (routerSlice r).isSome) || (neighbour r port).isSome) &&
    ((s.crossLink r p port).sideOf (sideKey r p port true)).latch.isNone

/-- Puts a beat into the link latch of an output, and on into the crossing where it leads into one. -/
def State.pushOut (s : State) (r p port : Nat) (m : Msg) : State :=
  let s := s.crossLink r p port
  let key := sideKey r p port true
  (s.setSide key { s.sideOf key with latch := some m }).crossLink r p port

/-- What an output side waits for: 0 upstream, 1 downstream, or none when a beat can move (R159, R184). -/
def State.outputWaits (s : State) (r p port : Nat) (e : Nat) : Option Nat :=
  let inKey := sideKey r p (bits e 29 27) false
  let ready := match (s.sideOf inKey).latch, s.current inKey with
    | some _, some (x, ei) => bit (bits ei 29 24) port && !x.taken.contains port
    | _, _ => false
  if !ready then some 0 else if s.outputFree r p port then none else some 1

/-- An output side copies a beat from its scheduled input into its link latch (R159). -/
def State.outputBeat (s : State) (r p port : Nat) : State :=
  let key := sideKey r p port true
  if s.level < 1 then s
  else match s.current key with
    | none => s
    | some (x, e) =>
      if (s.outputWaits r p port e).isSome then s
      else
        let inKey := sideKey r p (bits e 29 27) false
        let i := s.sideOf inKey
        match i.latch with
        | none => s
        | some m =>
          let s := s.setSide inKey { i with taken := i.taken ++ [port] }
          let s := s.setSide key (x.moved1 (entryCount e port true) s.clock)
          s.pushOut r p port m

/-! ### Input sides (R159, R171, R172) -/

/-- Outputs that an entry's OMASK names. -/
def omask (e : Nat) : List Nat := (List.range 6).filter (bit (bits e 29 24))

/-- A write beat that an entry forks is acknowledged by every exit its route reaches (R173, R177); a beat of a dropped
chain counts no more. -/
def State.countFork (s : State) (m : Msg) (n : Nat) : State :=
  if m.kind = .write then
    s.modChan m.req m.chan fun c => if m.tag < c.base then c else { c with unacked := c.unacked + (n - 1) }
  else s

/-- A beat enters an input latch. -/
def State.latchIn (s : State) (key : Nat) (x : Side) (e : Nat) (m : Msg) : State :=
  (s.setSide key { x with latch := some m, taken := [] }).countFork m (omask e).length

/-- Whether a beat's physical target meets an L-input entry (R171). -/
def ingressMeets (e : Nat) (m : Msg) : Bool :=
  let dest := bits e 20 11
  match bits e 22 21, targetOf m.addr with
  | 0, .scratchpad k _ => k == dest
  | 1, .dram => (dramPlace m.addr).1 == dest
  | 2, .dram => true
  | _, _ => false

/-- A beat that misses its entry does not enter: it goes back to its channel with those behind it, and the channel halts
(R171). -/
def State.ingressMiss (s : State) (r p ch : Nat) (m : Msg) : State :=
  let back := s.crossing r p
  let s := s.modChan r ch fun c => { c with
    outbox := back.map ((p, ·)) ++ c.outbox
    unacked := c.unacked - (back.filter fun b => b.kind == .write && decide (c.base ≤ b.tag)).length }
  ((s.setCrossing r p []).dmaHalt r ch 2 0 m.stepNo s.ol.devId m.addr).modChan r ch Chan.drop

/-- The L input takes a beat of the channel its entry names from the entry crossing, a void in its place once the crossing
holds none, or nothing (R155, R171, R172). -/
def State.ingress (s : State) (r p : Nat) (x : Side) (e : Nat) : State :=
  let key := sideKey r p 4 false
  let ch := if bit e 23 then 1 else 0
  match s.crossing r p with
  | [] =>
    match x.voiding with
    | some reads =>
      let s := s.count fMS_VOIDS_COUNT
      s.latchIn key x e { kind := .void, len := if reads then 128 else 0, req := r, chan := ch }
    | none => s
  | m :: rest =>
    if !ingressMeets e m then s.ingressMiss r p ch m
    else
      let m := if bits e 22 21 = 2 then { m with relay := bits e 20 11 + 1 } else m
      ((s.setCrossing r p rest).latchIn key x e m).chanIssue r ch

/-- The current L-input entry of a plane takes beats of the channel it names into the entry crossing first. -/
def State.ingressNext (s : State) (r p : Nat) : State :=
  let key := sideKey r p 4 false
  match s.current key with
  | none => s
  | some (_, e) =>
    let s := s.chanIssue r (if bit e 23 then 1 else 0)
    match s.current key with
    | none => s
    | some (x, e) => s.ingress r p x e

/-- An empty input latch takes the next beat from upstream. -/
def State.pullIn (s : State) (r p port : Nat) (x : Side) (e : Nat) : State :=
  let key := sideKey r p port false
  match port with
  | 4 => s.ingressNext r p
  | 5 => match routerSlice r with
    | none => s
    | some sl =>
      let y := s.slice sl
      match get [] y.outq p with
      | m :: rest => (s.setSlice sl (Slice.fillOut { y with outq := put [] y.outq p rest } p 4)).latchIn key x e m
      | [] => s
  | _ => match neighbour r port with
    | none => s
    | some n =>
      let far := sideKey n p (opposite port) true
      let o := s.sideOf far
      match o.latch with
      | none => s
      | some m => (s.setSide far { o with latch := none }).latchIn key x e m

/-- An input side frees its latch once every output of its entry has taken the beat, and takes the next
beat from upstream (R159). -/
def State.inputBeat (s : State) (r p port : Nat) : State :=
  let key := sideKey r p port false
  if s.level < 1 then s
  else match s.current key with
    | none => s
    | some (x, e) =>
      let s := match x.latch with
        | none => s
        | some _ =>
          if (omask e).all (x.taken.contains ·) then
            s.setSide key { x.moved1 (entryCount e port false) s.clock with latch := none, taken := [] }
          else s
      match s.current key with
      | some (x, e) => if x.latch.isNone then s.pullIn r p port x e else s
      | none => s

def execOutputBeat (router : CcId) (plane : Fin 3) (port : Fin 6) (s : State) : Host.Outcome State Fault Refusal :=
  .next (s.outputBeat router plane port)
def execInputBeat (router : CcId) (plane : Fin 3) (port : Fin 6) (s : State) : Host.Outcome State Fault Refusal :=
  .next (s.inputBeat router plane port)

/-! ### Slice windows (R162, R175) -/

/-- Whether a read of a unit on a plane merges with one that the slice holds (R142). The window is shorter than the clock's
microsecond, so for a unit read within the last one it is a free choice (notes/assumptions/105.md). -/
def State.merges (s : State) (sl p u window : Nat) : Bool × State :=
  let held := (s.slice sl).merging.any fun g => g.plane == p && g.unit == u && decide (s.clock ≤ g.at_ + 1)
  if held ∧ window ≠ 0 then (Config.freeBool s.freeCount, { s with freeCount := s.freeCount + 1 }) else (false, s)

/-- Holds a unit for merging in place of those whose time has passed. -/
def State.holdUnit (s : State) (sl p u : Nat) : State :=
  s.modSlice sl fun x => { x with merging :=
    (x.merging.filter fun g => decide (s.clock ≤ g.at_ + 1) && !(g.plane == p && g.unit == u)) ++ [⟨p, u, s.clock⟩] }

/-- A stream read of one unit: its data, or poison (R312). A read that merges shares the outcome and is no access of its own:
what it counts is put back (R142). -/
def State.streamUnit (s : State) (sl p window a : Nat) : List Byte × Bool × State :=
  let u := (dramPlace a).2 / 64
  let (merged, s) := s.merges sl p u window
  let (r, t) := s.dramRead a 64
  let t := if merged then s else t.holdUnit sl p u
  match r with
  | .ok d => (d, false, t)
  | _ => (List.replicate 64 0, true, t)

/-- A stream read of n units from an address on: each is merged, or held for merging, by itself (R142, R312). -/
def State.streamRead (s : State) (sl p window : Nat) : Nat → Nat → List Byte × Bool × State
  | _, 0 => ([], false, s)
  | a, n + 1 =>
    let (d, bad, t) := s.streamUnit sl p window a
    let (rest, bad', u) := State.streamRead t sl p window (a + 64) n
    (d ++ rest, bad || bad', u)

/-- The read that a beat asks of its own slice: one of a stream request, or one of a relayed beat, which never merges
(R142, R175). -/
def State.beatRead (s : State) (sl p window : Nat) (m : Msg) : List Byte × Bool × State :=
  if m.relay = 0 then s.streamRead sl p window m.addr (m.len / 64)
  else match s.dramRead m.addr m.len with
    | (.ok d, t) => (d, false, t)
    | (_, t) => (List.replicate m.len 0, true, t)

/-- Serves one arriving beat of a STREAM window; none while it waits for room (R162, R175). -/
def State.serveBeat (s : State) (sl p window : Nat) (m : Msg) : Option State :=
  let answer (t : State) (r : Msg) : Option State :=
    some (t.modSlice sl fun y => { y with outq := put [] y.outq p (get [] y.outq p ++ [r]) })
  let here := (dramPlace m.addr).1 = sl
  if !beatFits (s.slice sl) sl p m then none
  else match m.kind with
  | .readReq =>
    if here then
      let (d, bad, t) := s.beatRead sl p window m
      answer t { s.answerTo (unitSlice sl) m .readResp with data := d, poison := bad, relay := 0 }
    else
      let x := s.slice sl
      some ((s.setSlice sl { x with
        relayed := x.relayed + 1, rtag := x.rtag + 1
        relaySeq := put [] x.relaySeq p (get [] x.relaySeq p ++ [.awaiting x.rtag]) }).sendV
          { m with src := unitSlice sl, relay := sl + 1, vc := p, stepNo := x.rtag })
  | .write =>
    if here then
      match s.dramWrite m.addr m.data m.be with
      | (.wait, _) => none
      | (_, t) => some (t.streamAck (unitSlice sl) m)
    else some ((s.modSlice sl fun x => { x with relayed := x.relayed + 1 }).sendV
      { m with src := unitSlice sl, relay := sl + 1 })
  | _ => if m.len = 0 then some s else answer s { m with kind := .void }

/-- A slice's STREAM window serves its next arriving beat (R162). -/
def State.streamBeatServe (s : State) (sl : Nat) : State :=
  if s.level < 2 then s
  else match s.sliceNow sl with
    | none => s
    | some (x, e) =>
      if bits e 31 29 ≠ 0 then s
      else
        let p := bits e 28 27
        match get [] x.inq p with
        | [] => s
        | m :: rest =>
          let x := { x.advance e with
            inq := put [] x.inq p rest, recorded := false, movedAt := some s.clock }
          (((s.setSlice sl x).crossLink (sliceRouter sl) p 5).serveBeat sl p (bits e 26 19) m).getD s

/-- A MARK entry records its phase, when a slice is at one (R161, R162). -/
def State.markPhase (s : State) (sl : Nat) : Option State :=
  if s.level < 2 then none
  else match s.sliceNow sl with
    | none => none
    | some (x, e) =>
      if bits e 31 29 ≠ 3 then none
      else some (s.setSlice sl { x with entry := (x.entry + 1) % 256, moved := 0, phase := bits e 5 0 })

def execStreamBeatServe (slice : SliceId) (s : State) : Host.Outcome State Fault Refusal :=
  .next (s.streamBeatServe slice)

/-! ### The stall watch (R183, R184) -/

/-- What an input side waits for: a beat from upstream, or an output that has not taken its beat, which is a branch once
another output has taken it (R184; DEDUCED, notes/assumptions/141.md). -/
def inputWaits (x : Side) : Nat :=
  match x.latch with
  | none => 0
  | some _ => if x.taken = [] then 1 else 2

/-- What a side waits for, as a code of the stall causes table; none when it moves or carries nothing. -/
def State.sideWaits (s : State) (r p port : Nat) (out : Bool) : Option (Nat × Nat) :=
  match s.current (sideKey r p port out) with
  | none => none
  | some (x, e) =>
    if out then (s.outputWaits r p port e).map fun w => (w, x.entry)
    else if x.latch.isSome && (omask e).all (x.taken.contains ·) then none
    else some (inputWaits x, x.entry)

/-- The entry of a slice whose STREAM window waits: for a beat, or for room for what it answers (R183). -/
def State.sliceWaits (s : State) (sl : Nat) : Option Nat :=
  match s.sliceNow sl with
  | some (x, e) => if bits e 31 29 = 0 ∧ x.streamWaits sl (bits e 28 27) then some x.entry else none
  | none => none

/-- Adds a stall record to the log (R183). -/
def State.logStall (s : State) (rec : Nat) : State :=
  let s := if 16 ≤ s.stallLog.length then s.setFlag fMS_STATUS_LOGOVF true
    else { s with stallLog := s.stallLog ++ [BitVec.ofNat 32 rec] }
  if s.flag fMS_CTRL_SIE then s.deviceEvent 0 else s

/-- A side or a slice has waited past the limit (R183): recorded once per episode. -/
def State.stall (s : State) (w : StallSite) : State :=
  match w with
  | .side r p port out =>
    let key := sideKey r p port out
    if s.level < 1 ∨ (s.sideOf key).recorded then s
    else match s.sideWaits r p port out with
      | none => s
      | some (cause, entry) =>
        let s := s.setSide key { s.sideOf key with recorded := true }
        s.logStall (0x80000000 + p.val * 0x10000000 + cause * 0x4000000 + (if out then 0x2000000 else 0)
          + port.val * 0x400000 + entry * 0x4000 + r.val)
  | .slice sl =>
    if s.level < 2 ∨ (s.slice sl).recorded then s
    else match s.sliceWaits sl with
      | none => s
      | some entry =>
        let e := s.sliceEntry sl entry
        let s := s.modSlice sl fun x => { x with recorded := true }
        s.logStall (0xC0000000 + bits e 28 27 * 0x10000000 + 3 * 0x4000000 + entry * 0x4000 + sl.val)

/-- Whether some side or slice is stalled now (MS_STATUS.STALLED). -/
def State.stalledNow (s : State) : Bool :=
  s.sides.any (·.2.recorded) || s.slices.any (·.2.recorded)

/-- MS_CTRL.POP (R186): drops the head record. -/
def State.popStall (s : State) : State := { s with stallLog := s.stallLog.tail }

/-- What MS_PEEK shows of the side or slice that MS_PEEK_SEL names (R186). DONE of a slice in a window that carries no
beats counts the slots passed (DEDUCED, notes/assumptions/142.md). -/
def State.peek (s : State) : Nat :=
  let unit := s.fld fMS_PEEK_SEL_UNIT
  let moving (t : Option Nat) : Nat := if t.any fun c => decide (s.clock ≤ c + 1) then 0x100000 else 0
  if s.flag fMS_PEEK_SEL_SLICE then
    match s.sliceNow unit with
    | some (x, _) =>
      if unit < 192 then
        x.entry * 0x1000000 + (if (s.sliceWaits unit).isSome then 3 else 0) * 0x400000
          + moving x.movedAt + min x.moved 0xFFFF
      else 0x200000
    | none => 0x200000
  else
    let p := s.fld fMS_PEEK_SEL_PLANE
    let port := s.fld fMS_PEEK_SEL_PORT
    let out := s.flag fMS_PEEK_SEL_DIR
    match s.current (sideKey unit p port out) with
    | some (x, _) =>
      if unit < 768 ∧ p < 3 ∧ port < 6 ∧ (port < 5 ∨ (routerSlice unit).isSome) then
        x.entry * 0x1000000 + ((s.sideWaits unit p port out).map (·.1)).getD 0 * 0x400000
          + moving x.movedAt + min x.moved 0xFFFF
      else 0x200000
    | none => 0x200000

def execStall (what : StallSite) (s : State) : Host.Outcome State Fault Refusal := .next (s.stall what)

end Sys2Proof.Machine
end

