-- ==== Sys2Proof/Machine/Access.lean ====
section
/-! DEFINITION. Who may access a register (the access rules of the blocks: R74, R97, R104, R118, R127,
R149, R186, R213, R260, R261, R282, R283, R305, R322, R359, R378, R404, R405, R430, R445, R457), and which
register an address names (R460, R461). -/

namespace Sys2Proof.Machine

/-- The copy of a register that stands at an offset of its block, if any: unit and index (R460). -/
def regAt (off : Nat) (r : RegId) : Option (RegId × Nat × Nat) :=
  let p := regPlace r
  if off < p.base then none
  else
    let d := off - p.base
    let u := if p.uStep = 0 then 0 else d / p.uStep
    let rem := if p.uStep = 0 then d else d % p.uStep
    let n := if p.nStep = 0 then 0 else rem / p.nStep
    if u < p.units ∧ n < p.count ∧ rem = n * p.nStep then some (r, u, n) else none

/-- The register at an offset of a block. -/
def findReg (blk off : Nat) : Option (RegId × Nat × Nat) := (blockRegs blk).findSome? (regAt off)

/-- Whether a register holds a W1C field (R5). -/
def hasW1c (blk off : Nat) : Bool :=
  match findReg blk off with
  | some (r, _, _) => (regFields r).any (·.acc == .w1c)
  | none => false

/-- Ring 0 of a supervisor core. -/
def State.supervisor0 (s : State) : Requester → Bool
  | .core c => decide (768 ≤ c.val) && (s.core c).ring == 0
  | _ => false

/-- Ring 0 of a compute core. -/
def State.compute0 (s : State) : Requester → Bool
  | .core c => decide (c.val < 768) && (s.core c).ring == 0
  | _ => false

/-- Management, or management with debug unlocked (R399). -/
def isManagement : Requester → Bool
  | .management => true
  | _ => false
def State.debugger (s : State) (rq : Requester) : Bool := isManagement rq && s.sec.debug

/-- Ring 0 of the core that owns a frame, or management with debug unlocked (R74, R260, R282). -/
def State.owner0 (s : State) (rq : Requester) (n : Nat) : Bool :=
  s.debugger rq || (match rq with | .core c => c.val == n && (s.core c).ring == 0 | _ => false)

/-- Rings 1 to 3 of the core that owns a frame. -/
def State.ownerOuter (s : State) (rq : Requester) (n : Nat) : Bool :=
  match rq with
  | .core c => c.val == n && (s.core c).ring != 0
  | _ => false

/-- Whether a requester may access an offset of a block, for reading or for writing a value. Management with debug unlocked
may write SP_RELEASE too (R118, R127; DEDUCED, notes/assumptions/139.md). -/
def State.mayAccess (s : State) (rq : Requester) (blk off : Nat) (write : Bool) (v : Nat) : Bool :=
  let both := isManagement rq || s.supervisor0 rq
  match blk with
  | 0 => isManagement rq || (s.supervisor0 rq && !write)
  | 1 => both
  | 2 =>
    if write then (isManagement rq && off != 8) ||
      (s.supervisor0 rq && (off == 8 || off == 0x1C || off == 0x20 || off == 4 || hasW1c 2 off))
    else both
  | 3 =>
    if !write then both
    else (isManagement rq && (off == 4 || off == 0x2C)) || (both && (off == 0x18 || off == 0x38 || hasW1c 3 off))
  | 5 => if write && off == 8 then s.debugger rq else both
  | 10 =>
    if off < 0x80000 then s.owner0 rq (off / 0x100)
    else both || (s.compute0 rq && (if write then off == 0x80008 else off == 0x80000 || off == 0x80004))
  | 11 => s.owner0 rq (off / 0x100)
  | 12 => if off < 0x80000 then s.owner0 rq (off / 0x100) else both
  | 13 =>
    let n := off / 0x800
    let o := off % 0x800
    s.owner0 rq n || (s.ownerOuter rq n &&
      (if write then o == 0x40 && s.flag fSP_AP_CTRL_REL3 n (bits v 27 24) else decide (0x400 ≤ o ∧ o < 0x600)))
  | 14 => s.owner0 rq (off / 0x100)
  | 15 => s.owner0 rq (off / 0x100)
  | 16 => s.owner0 rq (off / 0x100)
  | _ => both

/-- The first byte of the register region (R10, R460). -/
def regBase : Nat := 0x600000000000

/-- A 32-bit write that has a row of its own: its effect and the acknowledgement, or an access error (R3). -/
def State.regCommand (s : State) (rq : Requester) (blk off v : Nat) (f : State → State) : State :=
  let a := regBase + blk * 0x1000000 + off
  if s.mayAccess rq blk off true v then (f s).emit (.regAck rq a) else s.emit (.accessError rq a 1)

end Sys2Proof.Machine
end

