-- ==== Sys2Proof/Machine/Links.lean ====
section
/-! DEFINITION. What travels on an optical link: transactions as bytes (R333, R334), flits (R328, R329), and
the queues of a link by channel (R330–R332). -/

namespace Sys2Proof.Machine

/-! ### Transactions -/

/-- The TYPE code of a transaction (R334). -/
def typeCode : MsgKind → Nat
  | .write => 1
  | .readReq => 2
  | .readResp => 3
  | .ack => 4
  | .mapCredit => 4
  | .refusal => 5
  | .mapPart => 6
  | .barArrival => 7
  | .barRelease => 8
  | .management => 9
  | .void => 0

/-- The lane of a transaction (R334): 0 request, 1 response, 2 synchronisation, 3 management. -/
def MsgKind.lane : MsgKind → Nat
  | .readResp | .ack | .mapCredit | .refusal => 1
  | .barArrival | .barRelease => 2
  | .management => 3
  | _ => 0

/-- The LEN field (R333): data bytes minus 1 modulo 256, the size of a read, or writes covered minus 1. -/
def Msg.lenField (m : Msg) : Nat :=
  match m.kind with
  | .readReq => (m.len + 255) % 256
  | .ack => (m.count + 255) % 256
  | .mapPart => 127
  | _ => (m.data.length + 255) % 256

/-- The ADDR field (R334). -/
def Msg.addrField (m : Msg) : Nat :=
  match m.kind with
  | .write | .readReq => m.addr
  | .refusal => m.route % 16 * 16 + m.reason % 16
  | .mapPart => m.part % 32 * 0x100000000 + m.stepNo % 0x100000000
  | .mapCredit => m.stepNo % 0x100000000
  | .barArrival | .barRelease => (if m.lost then 256 else 0) + m.stepNo % 64
  | .management => m.stepNo % 0x10000 * 0x10000 + m.part % 16
  | _ => 0

/-- The header of a transaction (R333). -/
def Msg.header (m : Msg) : Nat :=
  typeCode m.kind * 2 ^ 124 + (if m.ep then 2 ^ 123 else 0) + (if m.xb then 2 ^ 122 else 0)
    + m.lenField * 2 ^ 112 + m.ddev.toNat * 2 ^ 96 + m.sdev.toNat * 2 ^ 80 + m.req % 1024 * 2 ^ 70
    + (if m.kind = .write then m.gen.toNat else 0) * 2 ^ 62
    + (m.chan % 2 * 2048 + m.tag % 2048) * 2 ^ 50 + m.addrField % 2 ^ 48

/-- Data padded with zeros to a multiple of 16 bytes. -/
def pad16 (d : List Byte) : List Byte := d ++ List.replicate ((16 - d.length % 16) % 16) 0

/-- The bytes of a transaction: its header, then its data (R333). -/
def Msg.bytes (m : Msg) : List Byte := leBytes 16 m.header ++ pad16 m.data

/-- The kind of a received transaction: void for a reserved TYPE. An acknowledgement with requester 1,023 is
a map credit (R357). -/
def kindOf (ty req : Nat) : MsgKind :=
  match ty with
  | 1 => .write
  | 2 => .readReq
  | 3 => .readResp
  | 4 => if req = 1023 then .mapCredit else .ack
  | 5 => .refusal
  | 6 => .mapPart
  | 7 => .barArrival
  | 8 => .barRelease
  | 9 => .management
  | _ => .void

/-- Data bytes that follow a header (R334). -/
def dataBytes (k : MsgKind) (len : Nat) : Nat :=
  match k with
  | .write | .readResp => len + 1
  | .mapPart => 128
  | .management => (len + 1) % 256
  | _ => 0

/-- The transaction of a header and its data. -/
def Msg.ofHeader (h : Nat) (data : List Byte) : Msg :=
  let k := kindOf (bits h 127 124) (bits h 79 70)
  let len := bits h 119 112
  let a := bits h 47 0
  { kind := k, ep := bit h 123, xb := bit h 122
    ddev := BitVec.ofNat 16 (bits h 111 96), sdev := BitVec.ofNat 16 (bits h 95 80), req := bits h 79 70
    gen := BitVec.ofNat 8 (bits h 69 62), chan := bits h 61 61, tag := bits h 60 50
    addr := match k with | .write | .readReq => a | _ => 0
    len := match k with | .readReq => len + 1 | _ => data.length
    data := data, be := data.map fun _ => true
    route := if k = .refusal then bits a 7 4 else 0, reason := if k = .refusal then bits a 3 0 else 0
    count := if k = .ack then len + 1 else 1
    stepNo := match k with
      | .mapPart | .mapCredit => bits a 31 0
      | .barArrival | .barRelease => bits a 5 0
      | .management => bits a 31 16
      | _ => 0
    part := match k with | .mapPart => bits a 36 32 | .management => bits a 3 0 | _ => 0
    lost := (k == .barArrival || k == .barRelease) && bit a 8 }

/-- Cuts the complete transactions off a byte stream: the transactions and the bytes left. The fuel is a
bound on their number. -/
def cutTransactions : Nat → List Byte → List Msg × List Byte
  | 0, bs => ([], bs)
  | fuel + 1, bs =>
    if bs.length < 16 then ([], bs)
    else
      let h := leNat (bs.take 16)
      let n := dataBytes (kindOf (bits h 127 124) (bits h 79 70)) (bits h 119 112)
      let padded := (n + 15) / 16 * 16
      if bs.length < 16 + padded then ([], bs)
      else
        let (l, rest) := cutTransactions fuel (bs.drop (16 + padded))
        (Msg.ofHeader h ((bs.drop 16).take n) :: l, rest)

/-! ### Flits -/

/-- One byte into the CRC-32 of IEEE 802.3, reflected (R329). -/
def crcByte (c : Nat) (b : Byte) : Nat :=
  (List.range 8).foldl (fun x _ => if x % 2 = 1 then (x / 2) ^^^ 0xEDB88320 else x / 2) (c ^^^ b.toNat)

/-- The CRC-32 of a list of bytes (R329). -/
def crc32 (bs : List Byte) : Nat := bs.foldl crcByte 0xFFFFFFFF ^^^ 0xFFFFFFFF

/-- The header of a flit (R328). -/
structure FlitHead where
  kind : Nat := 0
  lane : Nat := 0
  vc   : Nat := 0
  nak  : Bool := false
  used : Nat := 0
  seq  : Nat := 0
  ackSeq : Nat := 0
  ackV : Bool := false
  crLane : Nat := 0
  crVc : Nat := 0
  crCnt : Nat := 0
  deriving DecidableEq, Repr

/-- A flit as its 256 bytes (R328). -/
def FlitHead.bytes (h : FlitHead) (payload : List Byte) : List Byte :=
  let n := h.kind * 2 ^ 62 + h.lane * 2 ^ 60 + h.vc * 2 ^ 58 + (if h.nak then 2 ^ 56 else 0) + h.used * 2 ^ 48
    + h.seq * 2 ^ 36 + h.ackSeq * 2 ^ 24 + (if h.ackV then 2 ^ 23 else 0) + h.crLane * 2 ^ 21 + h.crVc * 2 ^ 19
    + h.crCnt * 2 ^ 10
  let body := leBytes 8 n ++ payload ++ List.replicate (244 - payload.length) 0
  body ++ leBytes 4 (crc32 body)

/-- The header of received bytes. -/
def FlitHead.of (bs : List Byte) : FlitHead :=
  let n := leNat (bs.take 8)
  { kind := bits n 63 62, lane := bits n 61 60, vc := bits n 59 58, nak := bit n 56, used := bits n 55 48
    seq := bits n 47 36, ackSeq := bits n 35 24, ackV := bit n 23, crLane := bits n 22 21, crVc := bits n 20 19
    crCnt := bits n 18 10 }

/-- Whether a flit arrived whole: 256 bytes whose CRC agrees, of a kind that is not reserved (R329). -/
def flitGood (bs : List Byte) : Bool :=
  bs.length == 256 && leNat (bs.drop 252) == crc32 (bs.take 252) && (FlitHead.of bs).kind != 3

/-! ### Route entries -/

/-- Whether a route entry is valid: no reserved bit, and no link of this device that is unused (R342). An entry
with LOCAL names no link. -/
def State.entryValid (s : State) (e : Nat) : Bool :=
  bit e 7 && bits e 4 3 == 0 && (bit e 6 || (s.link (bits e 2 0)).role != 0)

/-! ### The channels of a link -/

/-- The channel of a link by lane and VC (R332). -/
def channelKey (lane vc : Nat) : Nat := if lane = 3 then 12 else lane * 4 + vc

/-- The lane and the VC of a channel. -/
def keyLane (key : Nat) : Nat := key / 4
def keyVc (key : Nat) : Nat := if key / 4 = 3 then 0 else key % 4

/-- The receiver's buffer of a channel, in flits (R332). -/
def channelBuffer (key : Nat) : Nat := if key / 4 ≤ 1 then 384 else 64

/-- Puts a transaction into a channel of a link. -/
def State.linkPush (s : State) (k key : Nat) (m : Msg) : State :=
  s.modLink k fun l => { l with txq := upd [] l.txq key (· ++ [(m, m.bytes)]) }

/-- Sends a synchronisation transaction over one hop (R299); a lost link takes none. -/
def State.linkSync (s : State) (k : Nat) (kind : MsgKind) (bar : Nat) (lost : Bool) : State :=
  if (s.link k).state = .lost then s
  else s.linkPush k 8 { kind := kind, ddev := (s.link k).peerDev, sdev := s.ol.devId, req := 1023, stepNo := bar
                        ep := s.ol.epoch % 2 == 1, lost := lost }

/-- Sends a management message on a port (R334): its kind, its number and its data. Its origin is the port. -/
def State.portSay (s : State) (p kind number : Nat) (data : List Byte) : State :=
  s.linkPush (p / 2) 12
    { kind := .management, ddev := (s.link (p / 2)).peerDev, sdev := s.ol.devId, req := 1023, ep := s.ol.epoch % 2 == 1
      part := kind, stepNo := number, data := data, from_ := p }

end Sys2Proof.Machine
end

