-- ==== Sys2Proof/Machine/Sync.lean ====
section
/-! DEFINITION. Synchronisation objects and the shutter tree (12_synchronisation.md). A signal, a
completion, an arrival or a notice is on its way until its own command delivers it. -/

namespace Sys2Proof.Machine

/-- The largest count (R284). -/
def maxCount : Nat := 0xFFFFFF

/-- Raises a synchronisation fault (R302). -/
def State.syncFault (s : State) (c cause : Nat) : State := s.raise c 11 6 cause

/-! ### Naming (R288, R289) -/

/-- What a translation entry names; none when it is invalid (R288). -/
def State.entryTarget (s : State) (e : Nat) : Option SigTarget :=
  let t := bits e 13 0
  if !bit e 15 then none
  else if !bit e 14 then some (.counter t)
  else if t ≤ 63 ∧ bit (s.bar t).cfg.toNat 31 then some (.barrier t) else none

/-- The state and the SYNCBASE of a context as a cluster's node sees them: the former ones while a notice is on its way to
it (R290, R296). -/
def State.nodeView (s : State) (node ctx : Nat) : CtxState × Nat :=
  match s.sync.notices.find? fun n => n.node == node && n.ctx == ctx with
  | some n => (n.former, n.base)
  | none => ((s.ctxRec ctx).state, (s.ctxRec ctx).syncBase)

/-- The node whose replica a core's identifiers go through; a number that no notice names for the supervisor complex and
the context engine (R288). -/
def replicaOf (c : Nat) : Nat := c / 32

/-- Translates an identifier of core c with the SYNCCTX word in force (R289). -/
def State.syncTarget (s : State) (c : Nat) (syncctx : Half) (glb : Bool) (ident : Nat) : Option SigTarget :=
  if glb then s.entryTarget (get 0 s.sync.xlatGlb ident).toNat
  else
    let (state, base) := s.nodeView (replicaOf c) (bits syncctx.toNat 11 0)
    let i := base + ident
    if !bit syncctx.toNat 15 ∨ state = .free ∨ 65535 < i then none
    else s.entryTarget (get 0 s.sync.xlat i).toNat

/-- Sends a signal: it is on its way to its node (R291). -/
def State.sendSig (s : State) (src : Nat) (t : SigTarget) (amount : Nat) (lost : Bool := false) : State :=
  { s with sync := { s.sync with sigs := s.sync.sigs ++ [⟨src, t, amount, lost⟩] } }

/-- A SIG, or the signal at the end of a DMA chain, of core c (R291). -/
def State.signal (s : State) (c : Nat) (syncctx : Half) (glb : Bool) (ident amount : Nat) : State :=
  match s.syncTarget c syncctx glb ident with
  | none => s.syncFault c 2
  | some t => s.sendSig c t amount

/-! ### Counters -/

/-- Examines the pending waits of a counter in registration order (R287). -/
def State.examine (s : State) (p : Nat) : State :=
  let x := s.ctr p
  let status := if x.lost then 1 else 0
  let (count, keep, wakes) := x.waits.foldl
    (fun (acc : Nat × List WaitReg × List WakeMsg) w =>
      if !w.frozen && decide (w.amount ≤ acc.1) then
        (acc.1 - w.amount, acc.2.1, acc.2.2 ++ [⟨w.who, status, p⟩])
      else (acc.1, acc.2.1 ++ [w], acc.2.2)) (x.count, [], [])
  let s := s.setCtr p { x with count := count, waits := keep }
  { s with sync := { s.sync with wakes := s.sync.wakes ++ wakes } }

/-- A signal takes effect at its counter (R285, R287, R294, R299). -/
def State.addCount (s : State) (p n : Nat) (lost : Bool) : State :=
  let x := s.ctr p
  let t := x.count + n
  let s := s.setCtr p { x with count := min t maxCount, lost := x.lost || lost }
  let s := if maxCount < t then s.syncFault x.home 1 else s
  s.examine p

/-- Sets a count by hand (R303). -/
def State.setCount (s : State) (p n : Nat) : State := (s.setCtr p { s.ctr p with count := n }).examine p

/-- The node that a signal goes to: a cluster's node, or the local node of its source (R284, R298). -/
def sigNode (m : SigMsg) : Nat :=
  match m.target with
  | .counter p => p % 24
  | .barrier _ => if m.src < 768 then m.src / 32 else 24

/-- Whether signal i may be delivered: the earlier ones of its source to its node have been (R287). -/
def State.sigReady (s : State) (i : Nat) : Bool :=
  match s.sync.sigs[i]? with
  | none => false
  | some m => (s.sync.sigs.take i).all fun e => !(e.src == m.src && sigNode e == sigNode m)

/-- Takes signal i off the way. -/
def State.takeSig (s : State) (i : Nat) : State :=
  { s with sync := { s.sync with sigs := dropAt s.sync.sigs i } }

/-- A wait registers at its counter's node, frozen while its context is parked there (R286, R295). One whose context is
free there completes at once with STATUS 2. -/
def State.registerWait (s : State) (who p amount : Nat) (tag : Option Nat) : State :=
  if tag.any fun c => (s.nodeView (p % 24) c).1 == .free then
    { s with sync := { s.sync with wakes := s.sync.wakes ++ [⟨who, 2, p⟩] } }
  else
    let frozen := tag.any fun c => get false s.sync.parked (p % 24 * 4096 + c)
    let x := s.ctr p
    (s.setCtr p { x with waits := x.waits ++ [⟨who, amount, tag, frozen⟩] }).examine p

/-- The signals of a source to a counter's node that are on their way. -/
def State.sigsBefore (s : State) (who p : Nat) : Nat :=
  (s.sync.sigs.filter fun m => m.src == who && sigNode m == p % 24).length

/-- Sends a wait to its counter's node: it comes there behind the signals that its source sent before (R179, R287). -/
def State.sendWait (s : State) (who p amount : Nat) (tag : Option Nat) : State :=
  let n := s.sigsBefore who p
  if 0 < n then
    { s with sync := { s.sync with
      regs := s.sync.regs ++ [{ ctr := p, wait := ⟨who, amount, tag, false⟩, ahead := n }] } }
  else s.registerWait who p amount tag

/-- A signal of a source has reached a node: the waits of that source with no other signal before them reach it too. -/
def State.dueWaits (s : State) (who node : Nat) : State :=
  let mine (e : SentWait) : Bool := e.wait.who == who && e.ctr % 24 == node
  let regs := s.sync.regs.map fun e => if mine e then { e with ahead := e.ahead - 1 } else e
  let due (e : SentWait) : Bool := mine e && e.ahead == 0
  (regs.filter due).foldl (fun t e => t.registerWait who e.ctr e.wait.amount e.wait.tag)
    { s with sync := { s.sync with regs := regs.filter (!due ·) } }

/-- A signal reaches its counter's node (R285). -/
def State.counterSignal (s : State) (i : Nat) : State :=
  match s.sync.sigs[i]? with
  | some ⟨src, .counter p, n, lost⟩ =>
    if s.sigReady i then ((s.takeSig i).addCount p n lost).dueWaits src (p % 24) else s
  | _ => s

/-- Withdraws the wait of a core (R293). -/
def State.withdraw (s : State) (who p : Nat) : State :=
  let x := s.ctr p
  s.setCtr p { x with waits := x.waits.filter (·.who != who) }

/-- Whether the wait of a core is on its way to its node, or its completion to the core. -/
def State.wakeInFlight (s : State) (who : Nat) : Bool :=
  s.sync.wakes.any (·.who == who) || s.sync.regs.any (·.wait.who == who)

/-- A completion reaches its waiter: WRES is written and the engine wakes; the context engine notes
that its wait is done and, on a primary, begins the close (R292, R294, R196, R202). -/
def State.waitComplete (s : State) (i : Nat) : State :=
  match s.sync.wakes[i]? with
  | none => s
  | some w =>
    let s := { s with sync := { s.sync with wakes := dropAt s.sync.wakes i } }
    if w.who = 776 then
      { s with cx := { s.cx with
        done := true
        phase := if s.cx.phase = .running ∧ s.cx.released ∧ !s.flag fCX_CFG_ROLE then .closing else s.cx.phase } }
    else s.modCore w.who fun x => { x with
      wres := BitVec.ofNat 16 (w.status * 0x4000 + w.cnt)
      pc := x.pc + 2
      waiting := .no }

/-! ### Parked and dropped contexts (R295, R296) -/

/-- Sends the notice of a context's new state to every node (R296); x is its former record. -/
def State.sendNotice (s : State) (ctx : Nat) (x : CtxRec) (st : CtxState) : State :=
  { s with sync := { s.sync with
    notices := s.sync.notices ++ (List.range 24).map fun n => ⟨n, ctx, st, x.state, x.syncBase⟩ } }

/-- The counters of a node that hold a wait tagged with a context. -/
def State.taggedCounters (s : State) (node ctx : Nat) : List Nat :=
  (s.sync.counters.filter fun e =>
    decide (e.1 % 24 = node) && e.2.waits.any (·.tag == some ctx)).map (·.1)

/-- A notice takes effect at its node (R295). -/
def State.applyNotice (s : State) (n : Notice) : State :=
  let parkedNow := n.state == .parked
  let s := { s with sync := { s.sync with
    parked := put false s.sync.parked (n.node * 4096 + n.ctx) parkedNow } }
  (s.taggedCounters n.node n.ctx).foldl (fun t p =>
    let x := t.ctr p
    if n.state == CtxState.free then
      let gone := x.waits.filter (·.tag == some n.ctx)
      let t := t.setCtr p { x with waits := x.waits.filter (·.tag != some n.ctx) }
      { t with sync := { t.sync with wakes := t.sync.wakes ++ gone.map fun w => ⟨w.who, 2, p⟩ } }
    else
      let waits := x.waits.map fun w => if w.tag == some n.ctx then { w with frozen := parkedNow } else w
      (t.setCtr p { x with waits := waits }).examine p) s

/-- The earliest notice of a context on its way to a node reaches it (R296). -/
def State.contextNotice (s : State) (node ctx : Nat) : State :=
  match s.sync.notices.findIdx? fun n => n.node == node && n.ctx == ctx with
  | none => s
  | some i =>
    match s.sync.notices[i]? with
    | none => s
    | some n => { s with sync := { s.sync with notices := dropAt s.sync.notices i } }.applyNotice n

/-! ### The shutter tree -/

/-- The local nodes with an expectation (R297). -/
def Barrier.locals (b : Barrier) : Nat := ((List.range 25).filter fun n => get 0 b.exp n ≠ 0).length

/-- The die node's expectation (R297). -/
def Barrier.expectation (b : Barrier) : Nat := b.locals + b.children.length

/-- The exit counter and its home core. -/
def Barrier.exitCounter (b : Barrier) : Nat := bits b.cfg.toNat 13 0
def Barrier.homeCore (b : Barrier) : Nat := bits b.cfg.toNat 23 14

/-- An arrival at a local node (R298). -/
def State.localArrival (s : State) (src bn amount : Nat) : State :=
  let b := s.bar bn
  let n := if src < 768 then src / 32 else 24
  let e := get 0 b.exp n
  if e = 0 then (if src < 776 then s.syncFault src 4 else s)
  else
    let t := get 0 b.acc n + amount
    let s := if maxCount < t then s.syncFault b.homeCore 1 else s
    let held := min t maxCount
    let s := s.setBar bn { b with acc := put 0 b.acc n (held % e) }
    if held / e = 0 then s
    else { s with sync := { s.sync with dieArrivals := s.sync.dieArrivals ++ [(bn, n, held / e)] } }

/-- A barrier signal reaches its local node (R298). -/
def State.localNodeArrival (s : State) (i : Nat) : State :=
  match s.sync.sigs[i]? with
  | some ⟨src, .barrier b, n, _⟩ => if s.sigReady i then ((s.takeSig i).localArrival src b n).dueWaits src (sigNode ⟨src, .barrier b, n, false⟩) else s
  | _ => s

/-- Releases a round with a status: the exit counter, then each child (R299). -/
def State.releaseRound (s : State) (bn : Nat) (lost : Bool) : State :=
  let b := s.bar bn
  let s := s.sendSig 777 (.counter b.exitCounter) (bits b.inc.toNat 23 0) lost
  b.children.foldl (fun t k =>
    t.linkSync k .barRelease bn lost) s

/-- Whether a child has arrived in the round in progress, or is substituted (R299, R301). -/
def Barrier.childHere (b : Barrier) (k : Nat) : Bool := b.lostKids.contains k || get [] b.kids k != []

/-- Arrivals the die node counts in the round in progress. -/
def Barrier.counted (b : Barrier) : Nat := b.die + (b.children.filter b.childHere).length

/-- Completes one round of the die node when its count reaches its expectation (R298, R299, R301); none when no round is
due. A LOST round counts once: where it is released (R294). -/
def State.oneRound (s : State) (bn : Nat) : Option State :=
  let b := s.bar bn
  let e := b.expectation
  if e = 0 ∨ b.counted < e then none
  else
    let here := b.children.filter b.childHere
    let lost := b.lostParent || here.any fun k => b.lostKids.contains k || (get [] b.kids k).head? == some true
    let b := { b with
      die := b.die - (e - here.length)
      kids := here.foldl (fun m k => upd [] m k List.tail) b.kids
      rounds := (b.rounds + 1) % 0x1000000
      lastLost := lost }
    let release (s : State) : State :=
      ((if lost then s.count fSY_STATUS_LOSTRND else s).setBar bn b).releaseRound bn lost
    match b.parent with
    | some k =>
      if b.lostParent then some (release s)
      else some ((s.setBar bn { b with pendingUp := b.pendingUp ++ [lost] }).linkSync k .barArrival bn lost)
    | none => some (release s)

/-- Completes up to n rounds that are due. -/
def State.rounds (bn : Nat) : Nat → State → State
  | 0, s => s
  | n + 1, s =>
    match s.oneRound bn with
    | none => s
    | some t => State.rounds bn n t

/-- Arrivals that the die node keeps, of its own device and of its children. -/
def Barrier.kept (b : Barrier) : Nat := b.kids.foldl (fun n e => n + e.2.length) b.die

/-- Completes every round that is due (R298): each takes an arrival that the die node keeps, but for one whose every
arrival is substituted. -/
def State.tryRound (s : State) (bn : Nat) : State := State.rounds bn ((s.bar bn).kept + 1) s

/-- An arrival of a local node reaches the die node (R298). -/
def State.dieNodeArrival (s : State) (i : Nat) : State :=
  match s.sync.dieArrivals[i]? with
  | none => s
  | some (bn, n, c) =>
    let rest := if c ≤ 1 then dropAt s.sync.dieArrivals i else putAt s.sync.dieArrivals i (bn, n, c - 1)
    let s := { s with sync := { s.sync with dieArrivals := rest } }
    let b := s.bar bn
    let s := if maxCount ≤ b.die then s.syncFault b.homeCore 1 else s
    (s.setBar bn { b with die := min (b.die + 1) maxCount }).tryRound bn

/-- A child's arrival over its link (R299). -/
def State.childArrival (s : State) (link bn : Nat) (lost : Bool) : State :=
  let b := s.bar bn
  if b.children.contains link then
    (s.setBar bn { b with kids := upd [] b.kids link (· ++ [lost]) }).tryRound bn
  else s

/-- A release from the parent (R299): passed on for the oldest round sent up. -/
def State.parentRelease (s : State) (bn : Nat) (lost : Bool) : State :=
  let b := s.bar bn
  match b.pendingUp with
  | [] => s
  | _ :: r =>
    let b := { b with pendingUp := r, lastLost := lost }
    let s := if lost then s.count fSY_STATUS_LOSTRND else s
    (s.setBar bn b).releaseRound bn lost

/-- A neighbour is lost: substitution in every barrier that depends on it (R301). -/
def State.barriersLose (s : State) (link : Nat) : State :=
  (List.range 64).foldl (fun t bn =>
    let b := t.bar bn
    let t :=
      if b.children.contains link ∧ !b.lostKids.contains link then
        (t.setBar bn { b with lostKids := b.lostKids ++ [link] }).tryRound bn
      else t
    let b := t.bar bn
    if b.parent = some link ∧ !b.lostParent then
      let t := t.setBar bn { b with lostParent := true, pendingUp := [], lastLost := b.lastLost || b.pendingUp ≠ [] }
      b.pendingUp.foldl (fun u _ => (u.count fSY_STATUS_LOSTRND).releaseRound bn true) t
    else t) s

/-! ### The trees over the torus (R300, R301, R340) -/

/-- The coordinate of dimension d, 0 for A to 3 for D, of a coordinate word. -/
def coordOf (c d : Nat) : Nat := bits c (15 - 4 * d) (12 - 4 * d)

/-- The torus neighbour across link k (R340). -/
def torusNeighbour (sizes : List Nat) (c k : Nat) : Nat :=
  let d := k / 2
  let n := sizes.getD d 1
  setBits c (15 - 4 * d) (12 - 4 * d) ((coordOf c d + (if k % 2 = 0 then 1 else n - 1)) % n)

/-- First coordinate and count of a barrier's box in a dimension. -/
def Barrier.boxLo (b : Barrier) (d : Nat) : Nat := bits b.box.toNat (31 - 8 * d) (28 - 8 * d)
def Barrier.boxCount (b : Barrier) (d : Nat) : Nat := bits b.box.toNat (27 - 8 * d) (24 - 8 * d) + 1

/-- Whether a device's coordinates lie in the box. -/
def Barrier.inBox (b : Barrier) (sizes : List Nat) (c : Nat) : Bool :=
  (List.range 4).all fun d =>
    let n := sizes.getD d 1
    decide ((coordOf c d + 16 * n - b.boxLo d) % n < b.boxCount d)

/-- The link to the parent of a device: the first dimension of D, C, B, A that differs, one step towards the
root. -/
def Barrier.parentLink (b : Barrier) (sizes : List Nat) (c : Nat) : Option Nat :=
  let root := b.root.toNat
  ([3, 2, 1, 0].find? fun d => coordOf c d != coordOf root d).map fun d =>
    let n := sizes.getD d 1
    let up :=
      if n ≤ b.boxCount d then
        let f := (coordOf root d + 16 * n - coordOf c d) % n
        decide (f ≤ n - f)
      else decide ((coordOf c d + 16 * n - b.boxLo d) % n < (coordOf root d + 16 * n - b.boxLo d) % n)
    2 * d + (if up then 0 else 1)

/-- Whether the current route table has a valid route to the device across a torus link. -/
def State.inTree (s : State) (k : Nat) : Bool :=
  let e := (get 0 s.ol.cur (s.link k).peerDev.toNat).toNat
  (s.link k).role == 1 && s.entryValid e

/-- The parent and the children by link of a barrier on this device (R300). -/
def State.treeOf (s : State) (b : Barrier) : Option Nat × List Nat :=
  let sizes := s.ol.domain.sizes
  if !bit b.cfg.toNat 30 ∨ !s.ol.mapped ∨ !b.inBox sizes s.ol.coord then (none, [])
  else
    ((b.parentLink sizes s.ol.coord).filter s.inTree,
     (List.range 8).filter fun k =>
      let c := torusNeighbour sizes s.ol.coord k
      s.inTree k && b.inBox sizes c && b.parentLink sizes c == some (k ^^^ 1))

/-- Recomputes the tree of every defined barrier at the load and at an epoch switch (R301). -/
def State.buildTrees (s : State) : State :=
  (List.range 64).foldl (fun t bn =>
    let b := t.bar bn
    if !bit b.cfg.toNat 31 then t
    else
      let (parent, children) := t.treeOf b
      (t.setBar bn { b with
        parent := parent, children := children, lostKids := [], lostParent := false
        kids := b.kids.filter fun e => children.contains e.1 }).tryRound bn) s

/-! ### Writes of the SY_ block (R290, R303) -/

/-- HAND_SETTING: the count of the selected counter (R303). -/
def State.handSetting (s : State) (v : Nat) : State := s.setCount (s.fld fSY_CNT_SEL_CNT) (bits v 23 0)

/-- TRANSLATION_WRITE: a per-context entry in every replica; a write to the device-wide table is ignored. -/
def State.translationWrite (s : State) (v : Nat) : State :=
  if s.flag fSY_XLAT_SEL_GLB then s
  else { s with sync := { s.sync with xlat := put 0 s.sync.xlat (s.fld fSY_XLAT_SEL_ENTRY) (BitVec.ofNat 16 v) } }

/-! ### The commands of the table -/

def execBarrierArrival (link : LinkId) (bar : BarrierId) (lost : Bool) (s : State) :
    Host.Outcome State Fault Refusal := .next (s.childArrival link bar lost)
def execBarrierRelease (bar : BarrierId) (lost : Bool) (s : State) : Host.Outcome State Fault Refusal :=
  .next (s.parentRelease bar lost)
def execHandSetting (rq : Requester) (value : BitVec 32) (s : State) : Host.Outcome State Fault Refusal :=
  .next (s.regCommand rq 5 8 value.toNat fun t => t.handSetting value.toNat)
def execTranslationWrite (rq : Requester) (value : BitVec 32) (s : State) : Host.Outcome State Fault Refusal :=
  .next (s.regCommand rq 5 0x14 value.toNat fun t => t.translationWrite value.toNat)
def execCounterSignal (index : Nat) (s : State) : Host.Outcome State Fault Refusal := .next (s.counterSignal index)
def execWaitComplete (index : Nat) (s : State) : Host.Outcome State Fault Refusal := .next (s.waitComplete index)
def execContextNotice (node : ClusterId) (ctx : CtxId) (s : State) : Host.Outcome State Fault Refusal :=
  .next (s.contextNotice node ctx)
def execLocalNodeArrival (index : Nat) (s : State) : Host.Outcome State Fault Refusal :=
  .next (s.localNodeArrival index)
def execDieNodeArrival (index : Nat) (s : State) : Host.Outcome State Fault Refusal :=
  .next (s.dieNodeArrival index)

end Sys2Proof.Machine
end

