-- ==== Sys2Proof/Machine/Special.lean ====
section
/-! DEFINITION. The special functions of R85, correctly rounded to F32. RCP and RSQRT are rounded from an
integer quotient or root with a sticky bit. EXP2 is rounded from a 160-bit lower bound of 2^f, built
from the square roots of 2; LOG2 is the F32 value found by comparing 2^y with the input
(notes/assumptions/14.md). -/

namespace Sys2Proof.Machine

/-- Newton's steps for the integer square root, from above. -/
def sqrtStep : Nat → Nat → Nat → Nat
  | 0, _, x => x
  | fuel + 1, n, x =>
    let y := (x + n / x) / 2
    if y < x then sqrtStep fuel n y else x

/-- The integer square root. -/
def natSqrt (n : Nat) : Nat := if n = 0 then 0 else sqrtStep 400 n (2 ^ (bitLength n / 2 + 1))

/-- Fraction bits of the fixed-point arithmetic below. -/
def fixBits : Nat := 160

/-- Multiplies p by 2^(2^-1), 2^(2^-2), … for the set bits of a q-bit fraction, highest first. -/
def exp2Bits : Nat → Nat → Nat → Nat → Nat
  | 0, _, _, p => p
  | q + 1, frac, root, p =>
    let root' := natSqrt (root * 2 ^ fixBits)
    let p' := if frac.testBit q then p * root' / 2 ^ fixBits else p
    exp2Bits q frac root' p'

/-- A lower bound of 2^(frac / 2^q) in units of 2^-160; exact when frac is 0. Its error is below 2^10
units for the fractions the functions below use. -/
def exp2Fix (q frac : Nat) : Nat :=
  if frac = 0 then 2 ^ fixBits else exp2Bits q frac (2 * 2 ^ fixBits) (2 ^ fixBits)

/-- 2^v for a finite value v: an integer exponent i and the fixed-point part of 2^(v − i). -/
def exp2Parts (v : Num) : Int × Nat :=
  if 0 ≤ v.x then
    let i : Int := v.n * 2 ^ v.x.toNat
    (if v.neg then -i else i, 2 ^ fixBits)
  else
    let q := (-v.x).toNat
    let i := v.n / 2 ^ q
    let r := v.n % 2 ^ q
    if !v.neg then ((i : Int), exp2Fix q r)
    else if r = 0 then (-(i : Int), 2 ^ fixBits)
    else (-(i : Int) - 1, exp2Fix q (2 ^ q - r))

/-- The place of the leading bit of a finite value. -/
def leadOf (v : Num) : Int := v.x + bitLength v.n - 1

/-- EXP2 (R85). -/
def sfnExp2 (code : Nat) : Nat :=
  let v := decodeExact .f32 code
  match v.cls with
  | .nan => canonNan .f32
  | .inf => if v.neg then 0 else infCode .f32 false
  | .zero => 0x3F800000
  | .finite =>
    if leadOf v < -26 then 0x3F800000
    else if 8 ≤ leadOf v then (if v.neg then 0 else infCode .f32 false)
    else
      let (i, l) := exp2Parts v
      roundCode .f32 .nearest false l (i - fixBits)

/-- Whether 2^y ≤ t, where t is n · 2^x or its inverse. -/
def exp2Le (y : Num) (n : Nat) (x : Int) (inverse : Bool) : Bool :=
  let (i, l) := if y.cls = .zero then ((0 : Int), 2 ^ fixBits) else exp2Parts y
  let e := i - fixBits
  if inverse then
    -- l · 2^e · n · 2^x ≤ 1
    let k := e + x
    if 0 ≤ k then decide (l * n * 2 ^ k.toNat ≤ 1) else decide (l * n ≤ 2 ^ (-k).toNat)
  else
    let k := e - x
    if 0 ≤ k then decide (l * 2 ^ k.toNat ≤ n) else decide (l ≤ n * 2 ^ (-k).toNat)

/-- The largest F32 code y below 2^(bits + 1) above c with 2^y ≤ t. -/
def log2Search : Nat → Nat → Nat → Int → Bool → Nat
  | 0, c, _, _, _ => c
  | b + 1, c, n, x, inv =>
    let c' := c + 2 ^ b
    let ok := decide (c' ≤ 0x43150000) && exp2Le (decodeExact .f32 c') n x inv
    log2Search b (if ok then c' else c) n x inv

/-- The value half-way between positive F32 code c and the next one. -/
def midAbove (c : Nat) : Num :=
  let v := decodeExact .f32 c
  if v.cls = .zero then { cls := .finite, n := 1, x := -150 }
  else { v with n := 2 * v.n + 1, x := v.x - 1 }

/-- LOG2 (R85). -/
def sfnLog2 (code : Nat) : Nat :=
  let v := decodeExact .f32 code
  match v.cls with
  | .nan => canonNan .f32
  | .zero => infCode .f32 true
  | .inf => if v.neg then canonNan .f32 else infCode .f32 false
  | .finite =>
    if v.neg then canonNan .f32
    else if v.n = 2 ^ (bitLength v.n - 1) then encodeNum .f32 .nearest (numOfInt (leadOf v))
    else
      let inv := decide (leadOf v < 0)
      let c := log2Search 31 0 v.n v.x inv
      let r := if exp2Le (midAbove c) v.n v.x inv then c + 1 else c
      if inv then r + 0x80000000 else r

/-- Rounds q · 2^x, with a sticky bit for what was cut off below q. -/
def roundSticky (neg : Bool) (q : Nat) (exact : Bool) (x : Int) : Nat :=
  roundCode .f32 .nearest neg (2 * q + (if exact then 0 else 1)) (x - 1)

/-- RCP (R85). -/
def sfnRcp (code : Nat) : Nat :=
  let v := decodeExact .f32 code
  match v.cls with
  | .nan => canonNan .f32
  | .inf => signBit .f32 v.neg
  | .zero => infCode .f32 v.neg
  | .finite =>
    let q := 2 ^ 80 / v.n
    roundSticky v.neg q (q * v.n == 2 ^ 80) (-v.x - 80)

/-- RSQRT (R85). -/
def sfnRsqrt (code : Nat) : Nat :=
  let v := decodeExact .f32 code
  match v.cls with
  | .nan => canonNan .f32
  | .zero => infCode .f32 v.neg
  | .inf => if v.neg then canonNan .f32 else 0
  | .finite =>
    if v.neg then canonNan .f32
    else
      let odd := v.x % 2 = 1
      let n := if odd then 2 * v.n else v.n
      let x := if odd then v.x - 1 else v.x
      let q := natSqrt (2 ^ 160 / n)
      roundSticky false q (q * q * n == 2 ^ 160) (-(x / 2) - 80)

/-- A special function by its FUNC code (R85). -/
def sfn : Nat → Nat → Nat
  | 0, x => sfnExp2 x
  | 1, x => sfnLog2 x
  | 2, x => sfnRcp x
  | _, x => sfnRsqrt x

end Sys2Proof.Machine
end

