-- ==== Sys2Proof/Machine/Vector.lean ====
section
/-! DEFINITION. The vector engine (04_vector_engine.md). -/

namespace Sys2Proof.Machine

/-! ### Registers (R76) -/

def Vx.reg (x : Vx) (n : Nat) : SMap Byte := get [] x.v n
def Vx.setReg (x : Vx) (n : Nat) (d : SMap Byte) : Vx := { x with v := put [] x.v n d }

/-- Element count of a format. -/
def elemCount (f : Fmt) : Nat := 256 / (fmtBits f / 8)

/-- The elements of a register in a format. -/
def Vx.elems (x : Vx) (n : Nat) (f : Fmt) : List Nat :=
  let es := fmtBits f / 8
  let d := x.reg n
  (List.range (elemCount f)).map fun k => leNat (getBytes 0 d (k * es) es)

/-- A register from its elements. -/
def packElems (f : Fmt) (l : List Nat) : SMap Byte := ofBytes 0 (l.flatMap fun c => leBytes (fmtBits f / 8) c)

/-! ### Fields (R78, R79) -/

/-- Lengths and settable bits of the vector opcodes; VBC's depend on its SRC bit. -/
def vxShape (src1 : Bool) : Nat → Option (Nat × List Nat)
  | 0x00 => some (4, [0xFFFF, 0x7FFF, 0x001F, 0])
  | 0x01 => some (4, [0xFFC0, 0x7FE0, 0xF00F, 0])
  | 0x02 | 0x03 => some (4, [0xFFFF, 0x7FE0, 0, 0])
  | 0x04 => some (4, if src1 then [0xFFE0, 0x7C00, 0xFFFF, 0xFFFF] else [0xFFE0, 0x7FE0, 0x00FF, 0])
  | 0x08 | 0x09 => some (8, [0xFC1F, 0x7CFF, 0, 0, 0xFFFF, 0xFFFF, 0xFFFF, 0])
  | 0x0C => some (8, [0xFFFE, 0x7FFF, 0x0FFF, 0x3FFF, 0xFFFF, 0xFFFF, 0xFFFF, 0])
  | 0x0D => some (8, [0xFE3F, 0x7C00, 0x0FFF, 0xFFFF, 0xFFFF, 0xFFFF, 0xFFFF, 0xFFFF])
  | _ => none

def EngineCmd.vd (c : EngineCmd) : Nat := bits (c.w 1) 14 10
def EngineCmd.vfa (c : EngineCmd) : Nat := bits (c.w 1) 9 5
def EngineCmd.vfb (c : EngineCmd) : Nat := bits (c.w 1) 4 0
def EngineCmd.vfmt (c : EngineCmd) : Option Fmt := fmtOfCode (bits (c.w 0) 9 6)
def EngineCmd.vfunc (c : EngineCmd) : Nat := bits (c.w 0) 5 0

/-- Chunks of a command (R78, R79). -/
def vxChunks (c : EngineCmd) : Nat :=
  match c.opcode with
  | 0x08 | 0x09 => bits (c.w 0) 4 0 + 1
  | 0x0C | 0x0D => bits (c.w 2) 11 0 + 1
  | _ => 1

/-- The virtual bytes that chunk n reads, or that VST's writes (R88). -/
def vxChunk (c : EngineCmd) (n : Nat) : Nat :=
  let va := 2 * addrAt c.words 4
  match c.opcode with
  | 0x08 | 0x09 => vbyte (va + 128 * bits (c.w 1) 7 0 * n)
  | _ => vbyte (va + 256 * n)

/-- The virtual bytes that VSTRM writes chunk n to (R88). A destination outside the address space wraps (DESIGN CHOICE,
notes/assumptions/138.md). -/
def vxDest (c : EngineCmd) (n : Nat) : Nat :=
  wrapTo 49 ((2 * addrAt c.words 4 + 256 * n : Nat) + 128 * signedOf 14 (c.w 3))

def vxReads (c : EngineCmd) : Bool := c.opcode == 8 || c.opcode == 0xC || c.opcode == 0xD

def vxWrites (c : EngineCmd) : Bool := c.opcode == 9 || (c.opcode == 0xC && bit (c.w 0) 9)

def vxReadPieces (c : EngineCmd) : List (Nat × Nat) :=
  if vxReads c then (List.range (vxChunks c)).map fun n => (vxChunk c n, 256) else []

def vxWritePieces (c : EngineCmd) : List (Nat × Nat) :=
  if vxWrites c then
    (List.range (vxChunks c)).map fun n => (if c.opcode = 9 then vxChunk c n else vxDest c n, 256)
  else []

/-! ### Formats by operation (R77, R80, R82) -/

def arithFmt : Fmt → Bool
  | .f32 | .f16 | .bf16 | .i32 | .i16 | .i8 => true
  | _ => false

def floatFmt : Fmt → Bool
  | .f32 | .f16 | .bf16 => true
  | _ => false

def intFmt : Fmt → Bool
  | .i32 | .i16 | .i8 => true
  | _ => false

def vopAllowed (func : Nat) (f : Fmt) : Bool :=
  if func ≤ 7 ∨ (9 ≤ func ∧ func ≤ 0x0B) ∨ func = 0x0D ∨ func = 0x0E then arithFmt f
  else if func = 8 ∨ func = 0x0C then floatFmt f
  else if 0x10 ≤ func ∧ func ≤ 0x14 then intFmt f
  else false

def bcFmt : Fmt → Bool
  | .i4 | .f4 => false
  | _ => true

/-- The pairs of R82. -/
def cvtAllowed (a b : Fmt) : Bool :=
  (a == b && bcFmt a) || (floatFmt a && floatFmt b) ||
    ((a == .e4m3 || a == .e5m2) && b == .f32) || (a == .f32 && (b == .e4m3 || b == .e5m2)) ||
    (floatFmt a && intFmt b) || (intFmt a && b == .f32) || (intFmt a && intFmt b)

/-- PART of a conversion (R83). -/
def partOk (a b : Fmt) (part : Nat) : Bool :=
  let na := elemCount a
  let nb := elemCount b
  decide (part < max na nb / min na nb)

/-- The lowest cause among the checks that a command breaks, causes 1 to 4; 0 for none (R78). -/
def vxCheck (c : EngineCmd) : Nat :=
  let src1 := bit (c.w 0) 5
  if !wellShaped (vxShape src1) c then 1
  else
    let fmtOk : Bool := match c.opcode with
      | 0x00 => c.vfmt.any (vopAllowed c.vfunc)
      | 0x01 => c.vfmt.any fun a => (fmtOfCode (bits (c.w 2) 15 12)).any (cvtAllowed a)
      | 0x02 => c.vfmt == some .f32 && decide (c.vfunc ≤ 3)
      | 0x03 => (c.vfmt == some .f32 || c.vfmt == some .i32) && decide (c.vfunc ≤ 3)
      | 0x04 => c.vfmt.any bcFmt
      | 0x0C => bits (c.w 0) 6 4 != 7 && decide (bits (c.w 0) 3 1 ≤ 4)
      | _ => true
    let rangeOk : Bool := match c.opcode with
      | 0x01 => c.vfmt.all fun a => (fmtOfCode (bits (c.w 2) 15 12)).all fun b =>
          partOk a b (bits (c.w 2) 3 2)
      | 0x04 => src1 || c.vfmt.all fun f => decide (bits (c.w 2) 7 0 < elemCount f)
      | 0x08 | 0x09 => decide (c.vd + vxChunks c ≤ 32)
      | 0x0C => c.vd != c.vfa && c.vd != c.vfb
      | 0x0D => decide (c.vd ≤ 30) &&
          decide (c.w 3 + 0x10000 * c.w 7 + 64 * vxChunks c - 1 ≤ 0xFFFFFFFE)
      | _ => true
    let spanOk : Bool := !(vxReads c || vxWrites c) || addrAt c.words 4 % 2 == 0
    if !fmtOk then 2 else if !rangeOk then 3 else if !spanOk then 4 else 0

/-! ### Element-wise operations (R80) -/

/-- Whether an element is non-zero at its width. -/
def truth (f : Fmt) (b : Bool) : Nat := if b then 2 ^ fmtBits f - 1 else 0

/-- A floating sum, difference, product or fused product, rounded once (R24). -/
def fAdd (f : Fmt) (a b : Nat) : Nat := encodeNum f .nearest (sumNum (decodeExact f a) (decodeExact f b))
def fSub (f : Fmt) (a b : Nat) : Nat :=
  encodeNum f .nearest (sumNum (decodeExact f a) (negNum (decodeExact f b)))
def fMul (f : Fmt) (a b : Nat) : Nat := encodeNum f .nearest (mulNum (decodeExact f a) (decodeExact f b))
def fFma (f : Fmt) (a b c : Nat) : Nat :=
  encodeNum f .nearest (sumNum (mulNum (decodeExact f a) (decodeExact f b)) (decodeExact f c))

/-- One element of VOP; answers the code and whether it saturated (R80). SEL takes a when the bits of the mask element are
not all 0, so also when it is -0 (DESIGN CHOICE, notes/assumptions/112.md). -/
def vopElem (func : Nat) (f : Fmt) (a b c : Nat) : Nat × Bool :=
  let n := fmtBits f
  let sa := signedOf n a
  let sb := signedOf n b
  let sc := signedOf n c
  let top := 2 ^ (n - 1)
  match func with
  | 0x00 => if isInt f then saturate f (sa + sb) else (fAdd f a b, false)
  | 0x01 => if isInt f then saturate f (sa - sb) else (fSub f a b, false)
  | 0x02 => if isInt f then saturate f (sa * sb) else (fMul f a b, false)
  | 0x03 => if isInt f then saturate f (sa * sb + sc) else (fFma f a b c, false)
  | 0x04 => (numMin f a b, false)
  | 0x05 => (numMax f a b, false)
  | 0x06 => if isInt f then saturate f sa.natAbs else (a % top, false)
  | 0x07 => if isInt f then saturate f (-sa) else (if a < top then a + top else a - top, false)
  | 0x08 => (a % top + b / top * top, false)
  | 0x09 => (truth f (numEqual f a b), false)
  | 0x0A => (truth f (numLess f a b), false)
  | 0x0B => (truth f (numLess f a b || numEqual f a b), false)
  | 0x0C => (truth f (isNan f a || isNan f b), false)
  | 0x0D => (if c ≠ 0 then a else b, false)
  | 0x0E => (a, false)
  | 0x10 => (a &&& b, false)
  | 0x11 => (a ||| b, false)
  | 0x12 => (a ^^^ b, false)
  | 0x13 => (a * 2 ^ (b % n) % 2 ^ n, false)
  | _ => (wrapTo n (sa / (2 ^ (b % n) : Nat)), false)

/-- VOP on whole registers. -/
def vopResult (x : Vx) (c : EngineCmd) (f : Fmt) : List (Nat × Bool) :=
  let as := x.elems c.vfa f
  let bs := x.elems c.vfb f
  let cs := x.elems (bits (c.w 2) 4 0) f
  List.zipWith (fun ab cc => vopElem c.vfunc f ab.1 ab.2 cc) (List.zip as bs) cs

/-! ### Conversions (R82–R84) -/

/-- One element converted (R82). The bits of a NaN stay in a conversion to the same format (DEDUCED,
notes/assumptions/137.md). -/
def cvtElem (a b : Fmt) (rm code : Nat) : Nat × Bool :=
  if a = b then (code, false) else convert a b (roundingOf rm) code

/-- The elements of VD after a conversion, and whether one saturated. -/
def cvtResult (x : Vx) (c : EngineCmd) (a b : Fmt) : List Nat × Bool :=
  let rm := bits (c.w 2) 1 0
  let part := bits (c.w 2) 3 2
  let src := x.elems c.vfa a
  let old := x.elems c.vd b
  if elemCount a ≤ elemCount b then
    let n := elemCount a
    let r := src.map (cvtElem a b rm)
    (old.take (part * n) ++ r.map (·.1) ++ old.drop (part * n + n), r.any (·.2))
  else
    let n := elemCount b
    let r := ((src.drop (part * n)).take n).map (cvtElem a b rm)
    (r.map (·.1), r.any (·.2))

/-! ### Reductions (R86, R87) -/

/-- Combines neighbours, one level of the tree. -/
def pairUp {α : Type} (f : α → α → α) : List α → List α
  | a :: b :: r => f a b :: pairUp f r
  | l => l

/-- Six levels of the tree reduce 64 lanes (R86). -/
def reduceLanes {α : Type} (f : α → α → α) (l : List α) : List α := (List.range 6).foldl (fun l _ => pairUp f l) l

/-- The combination of two lanes: 0 sum, 1 max, 2 min; with whether it saturated. -/
def combineLane (f : Fmt) (func : Nat) (a b : Nat × Bool) : Nat × Bool :=
  match func with
  | 0 =>
    let r := vopElem 0 f a.1 b.1 0
    (r.1, a.2 || b.2 || r.2)
  | 1 => (numMax f a.1 b.1, a.2 || b.2)
  | _ => (numMin f a.1 b.1, a.2 || b.2)

/-- The first lane of highest rank: value and lane (R87). -/
def argmaxLanes (f : Fmt) : List (Nat × Nat) → Nat × Nat
  | [] => (0, 0)
  | p :: r => r.foldl (fun best q => if selectRank f best.1 < selectRank f q.1 then q else best) p

/-- A NaN in its canonical form. -/
def canonical (f : Fmt) (c : Nat) : Nat := if !isInt f && isNan f c then canonNan f else c

/-- Lanes 0 and 1 of a reduction, and whether it saturated (R86). -/
def vredResult (x : Vx) (c : EngineCmd) (f : Fmt) : Nat × Nat × Bool :=
  let l := x.elems c.vfa f
  if c.vfunc = 3 then
    let p := argmaxLanes f (List.zip l (List.range l.length))
    (canonical f p.1, p.2, false)
  else
    match reduceLanes (combineLane f c.vfunc) (l.map fun v => (v, false)) with
    | (v, sat) :: _ => (v, 0, sat)
    | [] => (0, 0, false)

/-! ### Streams and top-k (R89, R90) -/

def streamOp1 (op x b c : Nat) : Nat :=
  match op with
  | 1 => fAdd .f32 x b
  | 2 => fSub .f32 x b
  | 3 => fMul .f32 x b
  | 4 => fFma .f32 x b c
  | 5 => numMax .f32 x b
  | 6 => numMin .f32 x b
  | _ => x

def streamOp2 (op x : Nat) : Nat := if op = 0 then x else sfn (op - 1) x

def streamRed (red acc y : Nat) : Nat :=
  match red with
  | 1 => fAdd .f32 acc y
  | 2 => numMax .f32 acc y
  | 3 => numMin .f32 acc y
  | _ => acc

/-- The words of 256 bytes. -/
def lanesOf (d : List Byte) : List Nat := (chunks 4 64 d).map leNat

/-- The results of one chunk of a stream. -/
def streamChunk (x : Vx) (c : EngineCmd) (d : List Byte) : List Nat :=
  let bs := x.elems c.vfa .f32
  let cs := x.elems c.vfb .f32
  List.zipWith (fun v bc => streamOp2 (bits (c.w 0) 3 1) (streamOp1 (bits (c.w 0) 6 4) v bc.1 bc.2))
    (lanesOf d) (List.zip bs cs)

/-- Whether entry p ranks before entry q in a top-k list (R87): value and index. -/
def topBefore (p q : Nat × Nat) : Bool :=
  let a := selectRank .f32 p.1
  let b := selectRank .f32 q.1
  decide (b < a) || (a == b && decide (p.2 < q.2))

/-- Inserts an entry into a ranked list. -/
def topInsert (p : Nat × Nat) : List (Nat × Nat) → List (Nat × Nat)
  | [] => [p]
  | q :: r => if topBefore p q then p :: q :: r else q :: topInsert p r

/-- The entries of a stored list (R90): those that are not empty. -/
def topList (x : Vx) (c : EngineCmd) : List (Nat × Nat) :=
  ((List.zip (x.elems c.vd .f32) (x.elems (c.vd + 1) .i32)).filter (·.2 != 0xFFFFFFFF)).foldl
    (fun l p => topInsert (canonical .f32 p.1, p.2) l) []

/-- Stores a list: empty lanes hold −∞ and 0xFFFF_FFFF (R90). -/
def topStore (x : Vx) (c : EngineCmd) (l : List (Nat × Nat)) : Vx :=
  let pad := 64 - l.length
  let x := x.setReg c.vd (packElems .f32 (l.map (·.1) ++ List.replicate pad 0xFF800000))
  x.setReg (c.vd + 1) (packElems .i32 (l.map (·.2) ++ List.replicate pad 0xFFFFFFFF))

/-- The list after one chunk (R90). -/
def topChunk (c : EngineCmd) (start : List (Nat × Nat)) (n : Nat) (d : List Byte) : List (Nat × Nat) :=
  let base := c.w 3 + 0x10000 * c.w 7 + 64 * n
  let k := bits (c.w 0) 5 0 + 1
  (List.zip (lanesOf d) (List.range 64)).foldl (fun l p =>
    (topInsert (canonical .f32 p.1, base + p.2) l).take k) (start.take k)

/-! ### Faults (R94) -/

/-- Stops the head command with a fault (R94). The address is 0 for the causes to which the table gives none (DESIGN CHOICE,
notes/assumptions/111.md). -/
def State.vxFault (s : State) (k cause pfCause done v : Nat) : State :=
  let op := match (s.vxOf k).queue with | c :: _ => c.opcode | [] => 0
  let s := s.setReg .vxFault k 0 (0x80000000 + cause * 0x8000000 + op * 0x400000 + done % 0x2000)
  let fa := wordOfByte v
  let s := s.setReg .vxFaultVaLo k 0 (fa.toNat % 0x100000000)
  let s := s.setReg .vxFaultVaHi k 0 (fa.toNat / 0x100000000)
  let s := s.modVx k fun x => { x with held := true }
  if cause = 6 then s.raise k 3 2 pfCause fa else s.raise k 7 2 cause

/-- Stops the head command on a poisoned granule (R107). -/
def State.vxPoison (s : State) (k g v : Nat) : State :=
  let s := s.modVx k fun x => { x with held := true }
  s.engineSpFault k 2 1 0 0 (g / 32) (wordOfByte v)

/-- Takes the head command off the queue; the recorded progress moves with the queue (R93). -/
def State.vxPop (s : State) (k : Nat) : State :=
  s.modVx k fun x => { x with
    queue := x.queue.tail
    progress := match x.progress with
      | some p => if p.pidx = 0 then none else some { p with pidx := p.pidx - 1 }
      | none => none }

/-- Sets VX_STATUS.SAT (R80, R84). -/
def State.vxSat (s : State) (k : Nat) (sat : Bool) : State :=
  if sat then s.setFlag fVX_STATUS_SAT true k else s

/-! ### Chunks -/

/-- One chunk of a command (R88–R90). -/
def State.vxChunkRun (s : State) (k : Nat) (c : EngineCmd) (rd wr : List (Nat × PageIs)) (n : Nat) :
    Met × State :=
  match c.opcode with
  | 0x08 =>
    let (d, met, t) := s.readSpan k rd (vxChunk c n) 256
    (match met with
      | .fine => (.fine, t.modVx k fun x => x.setReg (c.vd + n) (ofBytes 0 d))
      | e => (e, t))
  | 0x09 => s.writeWhole k wr (vxChunk c n) (getBytes 0 ((s.vxOf k).reg (c.vd + n)) 0 256)
  | 0x0C =>
    let (d, met, t) := s.readSpan k rd (vxChunk c n) 256
    (match met with
      | .fine =>
        let y := streamChunk (t.vxOf k) c d
        let (met, t) : Met × State :=
          if vxWrites c then t.writeWhole k wr (vxDest c n) (y.flatMap (leBytes 4)) else (.fine, t)
        (match met with
          | .fine =>
            let red := bits (c.w 0) 8 7
            if red = 0 then (.fine, t)
            else (.fine, t.modVx k fun x =>
              x.setReg c.vd (packElems .f32 (List.zipWith (streamRed red) (x.elems c.vd .f32) y)))
          | e => (e, t))
      | e => (e, t))
  | _ =>
    let (d, met, t) := s.readSpan k rd (vxChunk c n) 256
    (match met with
      | .fine => (.fine, t.modVx k fun x =>
          let start := if n = 0 ∧ !bit (c.w 0) 9 then [] else topList x c
          topStore x c (topChunk c start n d))
      | e => (e, t))

/-- n chunks from one on; a chunk that stops leaves those before it complete. -/
def State.vxRunChunks (s : State) (k : Nat) (c : EngineCmd) (rd wr : List (Nat × PageIs)) (first n : Nat) :
    Nat × Met × State :=
  (span first n).foldl (fun (acc : Nat × Met × State) n =>
    match acc.2.1 with
    | .fine =>
      let (met, t) := acc.2.2.vxChunkRun k c rd wr n
      (match met with
        | .fine => (n + 1, .fine, t)
        | e => (n, e, t))
    | _ => acc) (first, .fine, s)

/-- The chunk with which the command at a queue position starts: the recorded one of a multi-chunk command (R93). -/
def Vx.firstChunk (x : Vx) (c : EngineCmd) (i : Nat) : Nat :=
  match x.progress with
  | some p => if p.pidx = i ∧ 1 < vxChunks c then p.chunk else 0
  | none => 0

/-- Executes the head command, which has passed its checks and admission. -/
def State.vxRun (s : State) (k : Nat) (c : EngineCmd) (rd wr : List (Nat × PageIs)) : Issue :=
  let x := s.vxOf k
  match c.opcode, c.vfmt with
  | 0x00, some f =>
    let r := vopResult x c f
    .done (((s.modVx k fun x => x.setReg c.vd (packElems f (r.map (·.1)))).vxSat k (r.any (·.2))).vxPop k)
  | 0x01, some a =>
    match fmtOfCode (bits (c.w 2) 15 12) with
    | none => .wait
    | some b =>
      let (l, sat) := cvtResult x c a b
      .done (((s.modVx k fun x => x.setReg c.vd (packElems b l)).vxSat k sat).vxPop k)
  | 0x02, _ =>
    .done ((s.modVx k fun x => x.setReg c.vd (packElems .f32 ((x.elems c.vfa .f32).map (sfn c.vfunc)))).vxPop k)
  | 0x03, some f =>
    let (v, l, sat) := vredResult x c f
    .done (((s.modVx k fun x => x.setReg c.vd (packElems .i32 [v, l])).vxSat k sat).vxPop k)
  | 0x04, some f =>
    let v := if bit (c.w 0) 5 then c.w 2 + 0x10000 * c.w 3 else (x.elems c.vfa f).getD (bits (c.w 2) 7 0) 0
    .done ((s.modVx k fun x => x.setReg c.vd (packElems f (List.replicate (elemCount f) v))).vxPop k)
  | _, _ =>
    let first := x.firstChunk c 0
    let (done, met, t) := s.vxRunChunks k c rd wr first (vxChunks c - first)
    let stop (t : State) : State :=
      if 1 < vxChunks c then t.modVx k fun x => { x with progress := some ⟨0, done⟩ } else t
    match met with
    | .fine => .done (t.vxPop k)
    | .fault cause v => .fault (stop (t.vxFault k 6 cause done v))
    | .poison g v => .fault (stop (t.vxPoison k g v))

/-- The page lists of a command (R88): the pages of what it writes, for writing; every other page from the first to the
last byte it touches, and those of what it reads, for reading. None while a walk waits. -/
def State.vxPages (s : State) (k : Nat) (c : EngineCmd) : Option (List (Nat × PageIs) × List (Nat × PageIs)) × State :=
  let rp := spanPages (vxReadPieces c)
  let wp := spanPages (vxWritePieces c)
  let rest := (spanPages (vxReadPieces c ++ vxWritePieces c)).filter fun p => rp.contains p || !wp.contains p
  match s.pageTable k rest .read c.ring.toNat with
  | (none, t) => (none, t)
  | (some rd, t) =>
    match t.pageTable k wp .write c.ring.toNat with
    | (none, t) => (none, t)
    | (some wr, t) => (some (rd, wr), t)

/-- What the head of the vector queue may do (R78, R88, R91): wait, be refused, or run under its page lists. -/
inductive VxHead where
  | wait
  | refused (s : State)
  | go (c : EngineCmd) (rd wr : List (Nat × PageIs)) (s : State)

/-- Looks at the head of the vector queue (R78, R88, R91). -/
def State.vxLook (s : State) (k : Nat) : VxHead :=
  let x := s.vxOf k
  match x.queue with
  | [] => .wait
  | c :: _ =>
    if x.held || x.saving.any (·.restore) then .wait
    else
      let cause := vxCheck c
      if cause ≠ 0 then .refused (s.vxFault k cause 0 0 (if cause = 4 then 2 * addrAt c.words 4 else 0))
      else
        match s.vxPages k c with
        | (none, _) => .wait
        | (some (rd, wr), t) =>
          match (outsideByte rd (vxReadPieces c)).orElse fun _ => outsideByte wr (vxWritePieces c) with
          | some v => .refused (t.vxFault k 5 0 0 v)
          | none =>
            let reads := (rowsRect rd (vxReadPieces c)).toList
            if !t.slotsFull k reads || !t.sbAdmits k reads (rowsRect wr (vxWritePieces c)) then .wait
            else .go c rd wr t

/-- Tries to issue the head of the vector queue (R78, R88, R91). -/
def State.vxTry (s : State) (k : Nat) : Issue :=
  match s.vxLook k with
  | .wait => .wait
  | .refused t => .fault t
  | .go c rd wr t => t.vxRun k c rd wr

/-! ### Commands in flight that an entry stops (R93) -/

/-- The registers that a command reads and writes (R91). -/
def vxRegs (c : EngineCmd) : List Nat × List Nat :=
  match c.opcode with
  | 0x00 =>
    let unary := c.vfunc = 6 ∨ c.vfunc = 7 ∨ c.vfunc = 0xE
    (c.vfa :: if unary then [] else c.vfb :: (if c.vfunc = 3 ∨ c.vfunc = 0xD then [bits (c.w 2) 4 0] else []), [c.vd])
  | 0x01 => ([c.vfa, c.vd], [c.vd])
  | 0x02 | 0x03 => ([c.vfa], [c.vd])
  | 0x04 => (if bit (c.w 0) 5 then [] else [c.vfa], [c.vd])
  | 0x08 => ([], span c.vd (vxChunks c))
  | 0x09 => (span c.vd (vxChunks c), [])
  | 0x0C => ([c.vfa, c.vfb, c.vd], [c.vd])
  | _ => (if bit (c.w 0) 9 then [c.vd, c.vd + 1] else [], [c.vd, c.vd + 1])

/-- Whether the commands may all be in flight at once (R91). -/
def vxApart : List EngineCmd → Bool
  | [] => true
  | c :: r =>
    let (rc, wc) := vxRegs c
    r.all (fun d =>
      let (rd, wd) := vxRegs d
      wc.all (fun v => !(rd ++ wd).contains v) && wd.all fun v => !rc.contains v) && vxApart r

/-- The rectangles that a command declares under its page lists (R51, R88). -/
def vxEntry (c : EngineCmd) (rd wr : List (Nat × PageIs)) : SbEntry :=
  { owner := .vector, reads := (rowsRect rd (vxReadPieces c)).toList, write := rowsRect wr (vxWritePieces c) }

/-- The commands that may be in flight, at most n, behind those that are (R91): each one may issue with the rectangles
of those before it declared, and at most one has several chunks. -/
def State.vxFlying (s : State) (k : Nat) (l : List EngineCmd) : Nat → List EngineCmd
  | 0 => l
  | n + 1 =>
    match s.vxLook k with
    | .go c rd wr t =>
      if vxApart (l ++ [c]) && (decide (vxChunks c ≤ 1) || l.all fun d => decide (vxChunks d ≤ 1)) then
        ((t.sbAdd k (vxEntry c rd wr)).vxPop k).vxFlying k (l ++ [c]) n
      else l
    | _ => l

/-- An entry stops the commands in flight, which stay at the head of the queue (R93): single-chunk commands leave nothing,
and a multi-chunk command leaves its completed chunks. Whether one was in flight, and how many chunks it had
completed, is free (notes/assumptions/15.md). -/
def State.vxStop (s : State) (k : Nat) : State :=
  let x := s.vxOf k
  let pre := x.queue.takeWhile fun c => decide (vxChunks c ≤ 1)
  match x.queue.drop pre.length with
  | [] => s
  | c :: _ =>
    let (r, s) := s.drawNat
    let first := x.firstChunk c pre.length
    let n := r % (vxChunks c - first + 1)
    if n = 0 ∨ (s.vxFlying k [] 16).length ≤ pre.length then s
    else
      match (s.modVx k fun x => { x with queue := x.queue.drop pre.length, progress := none }).vxLook k with
      | .go c rd wr t =>
        match t.vxRunChunks k c rd wr first (n - 1) with
        | (done, .fine, u) =>
          u.modVx k fun x => { x with queue := pre ++ x.queue, progress := some ⟨pre.length, done⟩ }
        | _ => s
      | _ => s

/-- The vector engine is held at an entry, which records the TSR (R93, R250): one that is held already and has recorded one
keeps it. -/
def State.vxHold (s : State) (k : Nat) (tsr : Addr) : State :=
  let x := s.vxOf k
  let s := if x.held then s else s.vxStop k
  s.modVx k fun y => { y with held := true, heldTsr := heldNow x.held x.heldTsr tsr }

/-- Issues the head of the vector queue of core k when it has this opcode and passes a test. -/
def State.vxIssue (s : State) (k op : Nat) (p : EngineCmd → Bool := fun _ => true) : State :=
  match (s.vxOf k).queue with
  | c :: _ => if c.opcode == op && p c then (s.vxTry k).state s else s
  | [] => s

/-- Issues a VOP of this function. -/
def State.vopIssue (s : State) (k func : Nat) : State := s.vxIssue k 0 fun c => c.vfunc == func

/-! ### Abandoning, saving and restoring (R95, R96) -/

/-- VX_CTRL.ABANDON (R95): ignored while not held. -/
def State.vxAbandon (s : State) (k : Nat) : State :=
  if (s.vxOf k).held then s.modVx k fun x => { x with queue := [], progress := none } else s

/-- VX_PROGRESS as its register shows it (R98). -/
def Vx.progressWord (x : Vx) : Nat :=
  match x.progress with
  | some p => 0x80000000 + p.pidx * 0x10000 + p.chunk
  | none => 0

/-- The vector save image (R96). -/
def Vx.image (x : Vx) (sat : Bool) : List Byte :=
  padTo 128 (leBytes 2 1 ++ leBytes 2 x.queue.length ++ leBytes 2 (if sat then 1 else 0) ++
    leBytes 4 x.progressWord) ++ padTo 256 (x.queue.flatMap queueImage) ++
    (List.range 32).flatMap fun n => getBytes 0 (x.reg n) 0 256

/-- VX_CTRL.SAVE (R69, R96). -/
def State.vxSaveStart (s : State) (k : Nat) : State :=
  let x := s.vxOf k
  if x.saving.isSome then s
  else
    let base := s.fld fVX_SAVE_BASE_ROW k
    if !x.held || 8192 < base + 67 then s.setFlag fVX_STATUS_SRERR true k
    else
      let j : SaveJob := ⟨false, base, 67, x.image (s.flag fVX_STATUS_SAT k)⟩
      (s.setVx k { x with saving := some j }).declareImage k .saveVector j

/-- VX_CTRL.RESTORE (R70, R96; notes/assumptions/109.md, notes/assumptions/110.md). -/
def State.vxRestoreStart (s : State) (k : Nat) : State :=
  let x := s.vxOf k
  if x.saving.isSome then s
  else if !x.held then s.setFlag fVX_STATUS_SRERR true k
  else
    let base := s.fld fVX_SAVE_BASE_ROW k
    if 8192 < base + 67 then s.setFlag fVX_STATUS_SRERR true k
    else
      match s.spRead k (base * 128) 128 with
      | (_, some g, t) => t.vxPoison k g 0
      | (h, none, t) =>
        let p := leNat ((h.drop 6).take 4)
        if byteWord h 0 ≠ 1 ∨ 16 < byteWord h 1 ∨ (bit p 31 ∧ byteWord h 1 ≤ bits p 19 16) then
          t.setFlag fVX_STATUS_SRERR true k
        else
          let j : SaveJob := ⟨true, base, 67, h⟩
          (t.setVx k { x with saving := some j }).declareImage k .saveVector j

/-- Finishes a restore (R96; notes/assumptions/110.md). -/
def State.vxRestoreEnd (s : State) (k : Nat) (j : SaveJob) : State :=
  match s.spRead k (j.base * 128) (j.rows * 128) with
  | (_, some g, t) => (t.modVx k fun x => { x with saving := none }).vxPoison k g 0
  | (d, none, t) =>
    let h := j.image
    let p := leNat ((h.drop 6).take 4)
    let (q, t) := t.restoreQueue (byteWord h 1) (d.drop 128)
    let regs := (List.range 32).foldl (fun m n => put [] m n (ofBytes 0 ((d.drop (384 + 256 * n)).take 256))) []
    let t := t.modVx k fun x => { x with
      v := regs, queue := q, saving := none
      progress := if bit p 31 then some ⟨bits p 19 16, bits p 11 0⟩ else none }
    t.setFlag fVX_STATUS_SAT (bit (byteWord h 2) 0) k

/-- A vector save or restore finishes its last row (R96). -/
def State.vxSaveEnd (s : State) (k : Nat) : State :=
  match (s.vxOf k).saving with
  | none => s
  | some j =>
    let s := if (s.spOf k).scoreboard.any (·.owner == .saveVector) then s else s.declareImage k .saveVector j
    if !(s.spOf k).scoreboard.any (·.owner == .saveVector) then s
    else if j.restore then (s.vxRestoreEnd k j).sbRelease k .saveVector
    else
      let s := s.spStore k (j.base * 128) j.image
      (s.modVx k fun x => { x with saving := none }).sbRelease k .saveVector

/-! ### The commands of the table -/

def execVopAdd (k : CcId) (s : State) : Host.Outcome State Fault Refusal := .next (s.vopIssue k 0x00)
def execVopSub (k : CcId) (s : State) : Host.Outcome State Fault Refusal := .next (s.vopIssue k 0x01)
def execVopMul (k : CcId) (s : State) : Host.Outcome State Fault Refusal := .next (s.vopIssue k 0x02)
def execVopFma (k : CcId) (s : State) : Host.Outcome State Fault Refusal := .next (s.vopIssue k 0x03)
def execVopMin (k : CcId) (s : State) : Host.Outcome State Fault Refusal := .next (s.vopIssue k 0x04)
def execVopMax (k : CcId) (s : State) : Host.Outcome State Fault Refusal := .next (s.vopIssue k 0x05)
def execVopAbs (k : CcId) (s : State) : Host.Outcome State Fault Refusal := .next (s.vopIssue k 0x06)
def execVopNeg (k : CcId) (s : State) : Host.Outcome State Fault Refusal := .next (s.vopIssue k 0x07)
def execCpsgn (k : CcId) (s : State) : Host.Outcome State Fault Refusal := .next (s.vopIssue k 0x08)
def execCmpeq (k : CcId) (s : State) : Host.Outcome State Fault Refusal := .next (s.vopIssue k 0x09)
def execCmplt (k : CcId) (s : State) : Host.Outcome State Fault Refusal := .next (s.vopIssue k 0x0A)
def execCmple (k : CcId) (s : State) : Host.Outcome State Fault Refusal := .next (s.vopIssue k 0x0B)
def execCmpun (k : CcId) (s : State) : Host.Outcome State Fault Refusal := .next (s.vopIssue k 0x0C)
def execSel (k : CcId) (s : State) : Host.Outcome State Fault Refusal := .next (s.vopIssue k 0x0D)
def execVopMov (k : CcId) (s : State) : Host.Outcome State Fault Refusal := .next (s.vopIssue k 0x0E)
def execVopAnd (k : CcId) (s : State) : Host.Outcome State Fault Refusal := .next (s.vopIssue k 0x10)
def execVopOr (k : CcId) (s : State) : Host.Outcome State Fault Refusal := .next (s.vopIssue k 0x11)
def execVopXor (k : CcId) (s : State) : Host.Outcome State Fault Refusal := .next (s.vopIssue k 0x12)
def execVopShl (k : CcId) (s : State) : Host.Outcome State Fault Refusal := .next (s.vopIssue k 0x13)
def execVopShr (k : CcId) (s : State) : Host.Outcome State Fault Refusal := .next (s.vopIssue k 0x14)
def execVcvt (k : CcId) (s : State) : Host.Outcome State Fault Refusal := .next (s.vxIssue k 0x01)
def execExp2 (k : CcId) (s : State) : Host.Outcome State Fault Refusal :=
  .next (s.vxIssue k 0x02 fun c => c.vfunc == 0)
def execLog2 (k : CcId) (s : State) : Host.Outcome State Fault Refusal :=
  .next (s.vxIssue k 0x02 fun c => c.vfunc == 1)
def execRcp (k : CcId) (s : State) : Host.Outcome State Fault Refusal :=
  .next (s.vxIssue k 0x02 fun c => c.vfunc == 2)
def execRsqrt (k : CcId) (s : State) : Host.Outcome State Fault Refusal :=
  .next (s.vxIssue k 0x02 fun c => c.vfunc == 3)
def execVredSum (k : CcId) (s : State) : Host.Outcome State Fault Refusal :=
  .next (s.vxIssue k 0x03 fun c => c.vfunc == 0)
def execVredMax (k : CcId) (s : State) : Host.Outcome State Fault Refusal :=
  .next (s.vxIssue k 0x03 fun c => c.vfunc == 1)
def execVredMin (k : CcId) (s : State) : Host.Outcome State Fault Refusal :=
  .next (s.vxIssue k 0x03 fun c => c.vfunc == 2)
def execArgmax (k : CcId) (s : State) : Host.Outcome State Fault Refusal :=
  .next (s.vxIssue k 0x03 fun c => c.vfunc == 3)
def execVbc (k : CcId) (s : State) : Host.Outcome State Fault Refusal := .next (s.vxIssue k 0x04)
def execVld (k : CcId) (s : State) : Host.Outcome State Fault Refusal := .next (s.vxIssue k 0x08)
def execVst (k : CcId) (s : State) : Host.Outcome State Fault Refusal := .next (s.vxIssue k 0x09)
def execVstrm (k : CcId) (s : State) : Host.Outcome State Fault Refusal := .next (s.vxIssue k 0x0C)
def execVtopkS (k : CcId) (s : State) : Host.Outcome State Fault Refusal := .next (s.vxIssue k 0x0D)

/-- The head command is refused or page-faults (R94); a head that would run or wait is left for its own
row. -/
def execVectorFault (k : CcId) (s : State) : Host.Outcome State Fault Refusal :=
  .next (match s.vxTry k with
    | .fault t => t
    | _ => s)

/-- A save or restore of an engine image finishes its last row (R69, R70, R96). -/
def execSaveRestoreComplete (k : CcId) (engine : SaveEngine) (s : State) : Host.Outcome State Fault Refusal :=
  .next (match engine with
    | .matrix => s.mxSaveEnd k
    | .vector => s.vxSaveEnd k)

end Sys2Proof.Machine
end

