-- ==== Sys2Proof/Machine/Arrivals.lean ====
section
/-! DEFINITION. Arrivals at a scratchpad: writes, remote reads and read responses at its exits, held
writes, slot releases, timeouts and closing apertures (R115–R121, R170, R174). -/

namespace Sys2Proof.Machine

/-- A scalar store to another core's scratchpad has ended there: 0, or the cause of its store error. -/
def State.endSentStore (s : State) (c cause : Nat) : State :=
  s.modCore c fun x => { x with stores := x.stores.map fun e => if e.sent then { e with ended := some cause } else e }

/-- A held word of a frame has ended at another core's scratchpad: 0, or the cause of its error (R121, R247). -/
def State.endFrameWrite (s : State) (c cause : Nat) : State :=
  s.modCore c fun x => { x with frameWrite := x.frameWrite.map fun w => { w with ended := some cause } }

/-- An accepted write is complete: its sender is told (R143, R173). -/
def State.writeDone (s : State) (k plane : Nat) (m : Msg) : State :=
  if m.chan = 9 then s.endSentStore m.req 0
  else if m.chan = 12 then s.endFrameWrite m.req 0
  else if plane < 3 then s.streamAck k m else s.ack k m

/-- A refused write: its sender is told (R115, R174). -/
def State.writeRefused (s : State) (k : Nat) (m : Msg) (reason : Nat) : State :=
  if m.chan = 9 then s.endSentStore m.req 4
  else if m.chan = 12 then s.endFrameWrite m.req 4
  else s.refuse k m reason 0

/-- The head of an exit. -/
def State.exitHead (s : State) (k plane : Nat) : Option Msg := (get [] (s.spOf k).arrivals plane).head?

/-- Takes the head of an exit. -/
def State.exitPop (s : State) (k plane : Nat) : State :=
  s.modSp k fun p => { p with arrivals := put [] p.arrivals plane (get [] p.arrivals plane).tail }

/-- The beat in the link latch before an exit follows into it, when it has room (R153, R155). -/
def State.exitRefill (s : State) (k plane : Nat) : State := if plane < 3 then s.crossLink k plane 4 else s

/-- A write meets the apertures of core k at offset o (R115, R117, R121). -/
def State.meetApertures (s : State) (k plane : Nat) (m : Msg) (answered : Bool) : State :=
  let o := m.addr % 0x100000
  match s.arriveWrite k o m with
  | (.done, t) => if answered then t.writeDone k plane m else t
  | (.refused r, t) => if answered then t.writeRefused k m r else t
  | (.held ap sl, t) =>
    t.modSp k fun p => { p with held := p.held ++ [⟨ap, sl, plane, if answered then m else { m with chan := 10 }⟩] }

/-- APERTURE_WRITE (R115). -/
def State.apertureWrite (s : State) (k plane : Nat) : State :=
  match s.exitHead k plane with
  | none => s
  | some m =>
    if m.kind ≠ .write ∨ s.planeHeld k plane then s
    else ((s.exitPop k plane).meetApertures k plane m true).exitRefill k plane

/-- REMOTE_READ (R115): data, or a refusal; to a channel of this device a refused read is an access error
(R104, R146). -/
def State.remoteRead (s : State) (k plane : Nat) : State :=
  match s.exitHead k plane with
  | none => s
  | some m =>
    if m.kind ≠ .readReq ∨ s.planeHeld k plane then s
    else
      let s := s.exitPop k plane
      let (reason, d, t) := s.arriveRead k (m.addr % 0x100000) m.len m.sdev.toNat m.req
      (if reason = 0 then t.respond k m d
        else t.refuse k m reason (if m.sdev = s.ol.devId then 6 else 0)).exitRefill k plane

/-- A read response lands at its requester's channel (R170). -/
def State.responseLands (s : State) (m : Msg) : State :=
  let c := s.chan m.req m.chan
  match c.readOf m (decide (m.sdev ≠ s.ol.devId)) with
  | none => s
  | some r => s.readComes m.req m.chan r m.data m.poison

/-- READ_RESPONSE (R170, R175, R177): the head of a stream exit lands at its requester; at every other core a
forked response meets the apertures and is not acknowledged. A response of plane V lands at its requester,
or takes the place that a relay slice kept for it. -/
def State.readResponse (s : State) (src : ResponseSource) : State :=
  match src with
  | .stream k plane =>
    match s.exitHead k plane with
    | none => s
    | some m =>
      if m.kind ≠ .readResp ∨ s.planeHeld k plane then s
      else
        let s := s.exitPop k plane
        let d := (m.data.drop m.part).take m.count
        (if m.req = k.val then s.responseLands m
          else s.meetApertures k plane { m with addr := m.dest, data := d, be := d.map fun _ => true } false).exitRefill
            k plane
  | .service i =>
    match s.vResp[i]? with
    | none => s
    | some m =>
      if m.kind ≠ .readResp ∨ !inOrder responseDest s.vResp i then s
      else match s.responseTravels i with
      | (false, s) => s
      | (true, s) =>
        if m.relay = 0 then s.responseLands m
        else s.modSlice (m.relay - 1) fun x =>
          let l := (get [] x.relaySeq m.vc).map fun r =>
            if r = .awaiting m.stepNo then .ready { m with relay := 0, hop := 0 } else r
          Slice.fillOut { x with relaySeq := put [] x.relaySeq m.vc l } m.vc 4

/-- Writes that were held and have proceeded are complete. -/
def State.heldDone (s : State) (k : Nat) (l : List HeldWrite) : State :=
  l.foldl (fun t h => if h.msg.chan = 10 then t else t.writeDone k h.plane h.msg) s

/-- SLOT_RELEASE_EFFECT (R118): the oldest release takes effect once no read in flight touches its slots. One whose
aperture is no longer open in slotted mode by then changes nothing (DESIGN CHOICE, notes/assumptions/104.md). -/
def State.slotRelease (s : State) (k : Nat) : State :=
  match (s.spOf k).releases with
  | [] => s
  | q :: rest =>
    if !s.releaseReady k q then s
    else
      let s := s.modSp k fun p => { p with releases := rest }
      if (s.ap k q.ap).state = .opened ∧ (s.apDesc k q.ap).mode = 2 then
        let (l, t) := s.applyRelease k q
        t.heldDone k l
      else s

/-- ECC_WRITE_BACK (R106): the corrected code word of the oldest corrected granule. -/
def State.eccWriteBack (s : State) (k : Nat) : State :=
  match (s.spOf k).corrected with
  | [] => s
  | g :: rest =>
    let s := s.modSp k fun p => { p with corrected := rest }
    if s.codeOf k g = .single then s.setCode k g .good else s

/-- An aperture closes: its held writes are refused with reason 7 (R116). -/
def State.refuseHeld (s : State) (k n : Nat) : State :=
  let mine := (s.spOf k).held.filter (·.ap == n)
  let s := s.modSp k fun p => { p with held := p.held.filter (·.ap != n) }
  mine.foldl (fun t h =>
    let t := t.noteRefused k (h.msg.addr % 0x100000) 7 h.msg.sdev.toNat h.msg.req
    if h.msg.chan = 10 then t else t.writeRefused k h.msg 7) s

/-- A write to SP_APn_CTRL that passed its access checks (R114, R116). -/
def State.apCtrlWrite (s : State) (k n v : Nat) : State :=
  let was := (s.ap k n).state
  let t := s.writeApCtrl k n v
  if was = .opened ∧ (t.ap k n).state = .closing then t.refuseHeld k n else t

/-- APERTURE_CLOSED (R116). -/
def State.apertureClosed (s : State) (k n : Nat) : State :=
  let a := s.ap k n
  if a.state = .closing ∧ s.apDrained k n then s.setAp k n {} else s

/-- HELD_WRITE_TIMEOUT (R121): the oldest write held at a slot is refused, and the core takes a scratchpad
interrupt. -/
def State.heldTimeout (s : State) (k ap slot : Nat) : State :=
  match (s.spOf k).held.find? fun h => h.ap == ap && h.slot == slot with
  | none => s
  | some h =>
    let s := s.modSp k fun p => { p with held := p.held.erase h }
    let s := s.noteRefused k (h.msg.addr % 0x100000) 6 h.msg.sdev.toNat h.msg.req
    let s := if h.msg.chan = 10 then s else s.writeRefused k h.msg 6
    (s.spFault k 3 ap slot 0).raise k 9 5 3

/-! ### Commands that wait for slots (R119, R120) -/

/-- The slot the head of the matrix queue waits for. -/
def State.mxGate (s : State) (k : Nat) : Option (Nat × Nat × Addr) :=
  let m := s.mxOf k
  match m.queue with
  | [] => none
  | c :: _ =>
    if m.held ∨ m.saving.any (·.restore) ∨ mxCheck m c ≠ 0 ∨ !m.free c ∨ mxWrites c then none
    else
      let ps := mxPieces m c
      match s.pageTable k (spanPages ps) .read c.ring.toNat with
      | (some pt, t) =>
        if (outsideByte pt ps).isSome then none
        else (rowsRect pt ps).bind fun r => (t.slotGate k r).map fun g => (g.1, g.2, wordOfByte (2 * mxVa c))
      | (none, _) => none

/-- The slot the head of the vector queue waits for. -/
def State.vxGate (s : State) (k : Nat) : Option (Nat × Nat × Addr) :=
  let x := s.vxOf k
  match x.queue with
  | [] => none
  | c :: _ =>
    if x.held ∨ x.saving.any (·.restore) ∨ vxCheck c ≠ 0 then none
    else
      let ps := vxReadPieces c
      match s.vxPages k c with
      | (some (rd, wr), t) =>
        if (outsideByte rd ps).isSome ∨ (outsideByte wr (vxWritePieces c)).isSome then none
        else (rowsRect rd ps).bind fun r => (t.slotGate k r).map fun g =>
          (g.1, g.2, wordOfByte ((ps.head?.map (·.1)).getD 0))
      | (none, _) => none

/-- SLOT_WAIT_TIMEOUT (R120): the engine holds and the core takes a scratchpad fault with cause 0x2. -/
def State.slotTimeout (s : State) (k : Nat) (w : SlotWaiter) : State :=
  match w with
  | .matrix =>
    match s.mxGate k with
    | none => s
    | some (ap, sl, fa) => (s.modMx k fun m => { m with held := true }).engineSpFault k 1 2 ap sl 0 fa
  | .vector =>
    match s.vxGate k with
    | none => s
    | some (ap, sl, fa) => (s.modVx k fun x => { x with held := true }).engineSpFault k 2 2 ap sl 0 fa
  | .channel ch =>
    match s.chanGate k ch with
    | none => s
    | some (ap, sl, fa) =>
      let s := if (s.chan k ch).dgo.isSome then s.recordStop k ch else s
      (s.modDm k fun d => { d with held := true }).engineSpFault k (3 + ch) 2 ap sl 0 fa

/-! ### The commands of the table -/

def execApertureWrite (k : CcId) (plane : Fin 4) (s : State) : Host.Outcome State Fault Refusal :=
  .next (s.apertureWrite k plane)
def execRemoteRead (k : CcId) (plane : Fin 4) (s : State) : Host.Outcome State Fault Refusal :=
  .next (s.remoteRead k plane)
def execEccWriteBack (k : CcId) (s : State) : Host.Outcome State Fault Refusal := .next (s.eccWriteBack k)
def execApertureClosed (k : CcId) (ap : Fin 16) (s : State) : Host.Outcome State Fault Refusal :=
  .next (s.apertureClosed k ap)
def execSlotReleaseEffect (k : CcId) (s : State) : Host.Outcome State Fault Refusal := .next (s.slotRelease k)
def execSlotWaitTimeout (k : CcId) (waiter : SlotWaiter) (s : State) : Host.Outcome State Fault Refusal :=
  .next (s.slotTimeout k waiter)
def execHeldWriteTimeout (k : CcId) (ap : Fin 16) (slot : BitVec 8) (s : State) : Host.Outcome State Fault Refusal :=
  .next (s.heldTimeout k ap slot.toNat)
def execReadResponse (src : ResponseSource) (s : State) : Host.Outcome State Fault Refusal :=
  .next (s.readResponse src)
def execChainComplete (k : CcId) (ch : ChanId) (s : State) : Host.Outcome State Fault Refusal :=
  .next (s.chainComplete k ch fun t c sync glb ident => t.signal c sync glb ident 1)

end Sys2Proof.Machine
end

