-- ==== Sys2Proof/Machine/Caches.lean ====
section
/-! DEFINITION. The caches of the die (11_caches_and_memory_model.md): lookups, fills, store hits, enabling
and range operations. -/

namespace Sys2Proof.Machine

/-! ### Geometry (R263) -/

/-- Ways of a cache. -/
def cacheWays : CacheName → Nat
  | .l2 => 16
  | _ => 4

/-- Sets of a cache. -/
def cacheSets : CacheName → Nat
  | .instr c => if c.val < 768 then 128 else 256
  | .data c => if c.val < 768 then 32 else 256
  | .l2 => 4096

/-- The line that a local byte address lies in. -/
def lineOf (a : Nat) : Nat := a / 64 * 64

/-- The set of a line. -/
def cacheSet (n : CacheName) (line : Nat) : Nat := line / 64 % cacheSets n

/-- Miss registers of each cache. -/
def missRegisters : Nat := 8

def State.cache (s : State) : CacheName → Cache
  | .instr c => (s.core c).icache
  | .data c => (s.core c).dcache
  | .l2 => s.l2

def State.setCache (s : State) (n : CacheName) (x : Cache) : State :=
  match n with
  | .instr c => s.modCore c fun k => { k with icache := x }
  | .data c => s.modCore c fun k => { k with dcache := x }
  | .l2 => { s with l2 := x }

/-- The enable bit of a cache (R270). -/
def State.cacheOn (s : State) : CacheName → Bool
  | .instr c => s.flag fCF_CTRL_IEN c
  | .data c => s.flag fCF_CTRL_DEN c
  | .l2 => s.flag fCF_L2CTRL_EN

/-- The lines of a set, most recently used first (R264). -/
def Cache.lines (x : Cache) (set : Nat) : List CacheLine := get [] x.sets set

/-- Replaces the lines of a set. -/
def State.setLines (s : State) (n : CacheName) (set : Nat) (l : List CacheLine) : State :=
  let x := s.cache n
  s.setCache n { x with sets := put [] x.sets set l }

/-- Counts a parity error (R267). -/
def State.parityError (s : State) : CacheName → State
  | .instr c => s.count fCF_PARITY_IERR c
  | .data c => s.count fCF_PARITY_DERR c
  | .l2 => s.count fCF_L2PARITY_ERR

/-! ### Lookups and stores (R264–R267) -/

/-- Whether n bytes of a line from an offset meet bad parity: that of its tag, or of a group of 8 data bytes (R263). -/
def CacheLine.bad (l : CacheLine) (o n : Nat) : Bool :=
  l.badTag || l.badGroups.any fun g => decide (8 * g < o + n ∧ o < 8 * g + 8)

/-- The cores whose range operation a cache serves now: the L2 serves one, in the order they were started (R272). -/
def State.serving (s : State) : CacheName → List Nat
  | .instr c => if (s.core c).range.any (·.i) then [c.val] else []
  | .data c => if (s.core c).range.any (·.d) then [c.val] else []
  | .l2 => (span 768 8).filter fun c => (s.core c).range.any fun r => r.l2 && r.ahead.isEmpty

/-- Removes the lines that the operation of a core marked, in the sets below a bound; counts those whose parity it found
bad (R267, R272). -/
def State.sweep (s : State) (n : CacheName) (c bound : Nat) : State :=
  let x := s.cache n
  let goes (set : Nat) (l : CacheLine) : Bool := decide (set < bound) && l.doomed.contains c
  let bad := x.sets.flatMap fun e => e.2.filter fun l => goes e.1 l && l.bad 0 64
  let s := s.setCache n { x with sets := (x.sets.map fun e => (e.1, e.2.filter fun l => !goes e.1 l)).filter (·.2 != []) }
  bad.foldl (fun t _ => t.parityError n) s

/-- Before a lookup in a set, the range operations that a cache serves may have reached it, or not yet: a free value
(R272). -/
def State.rangeReaches (s : State) (n : CacheName) (set : Nat) : State :=
  (s.serving n).foldl (fun t c =>
    if ((t.cache n).lines set).any (·.doomed.contains c) then
      let (r, t) := t.drawNat
      if r % 2 = 0 then t else t.sweep n c (set + 1)
    else t) s

/-- Looks up n bytes of a line from an offset: the line's data on a hit. A parity error makes the lookup a miss and drops
the line. -/
def State.lookup (s : State) (n : CacheName) (line o len : Nat) : Option (List Byte) × State :=
  if !s.cacheOn n then (none, s)
  else
    let set := cacheSet n line
    let s := s.rangeReaches n set
    let all := (s.cache n).lines set
    match all.find? (·.line == line) with
    | none => (none, s)
    | some l =>
      let rest := all.filter (·.line != line)
      if l.bad o len then (none, (s.setLines n set rest).parityError n)
      else (some l.data, s.setLines n set (l :: rest))

/-- Replaces bytes of a line's data from an offset. -/
def patch (data : List Byte) (o : Nat) (new : List Byte) : List Byte :=
  data.take o ++ new ++ data.drop (o + new.length)

/-- A store to bytes of one line meets a cache: a hit updates the line and makes it the most recently used, a
line with bad parity is dropped, and an outstanding fill takes the bytes too (R264, R266, R267). -/
def State.storeTo (s : State) (n : CacheName) (a : Nat) (bytes : List Byte) : State :=
  if !s.cacheOn n then s
  else
    let line := lineOf a
    let set := cacheSet n line
    let x := s.cache n
    let s := (s.setCache n { x with miss := x.miss.map fun m =>
      if m.line = line then { m with data := patch m.data (a - line) bytes } else m }).rangeReaches n set
    let all := (s.cache n).lines set
    match all.find? (·.line == line) with
    | none => s
    | some l =>
      let rest := all.filter (·.line != line)
      if l.bad (a - line) bytes.length then (s.setLines n set rest).parityError n
      else s.setLines n set ({ l with data := patch l.data (a - line) bytes } :: rest)

/-- The way that a fill takes: the lowest-numbered invalid one, else that of the least recently used line. -/
def fillWay (ways : Nat) (l : List CacheLine) : Nat :=
  match (List.range ways).find? fun w => !l.any (·.way == w) with
  | some w => w
  | none => (l.getLast?.map (·.way)).getD 0

/-- Allocates a line (R264). -/
def State.allocate (s : State) (n : CacheName) (line : Nat) (data : List Byte) : State :=
  let set := cacheSet n line
  let l := ((s.cache n).lines set).filter (·.line != line)
  let w := fillWay (cacheWays n) l
  s.setLines n set ({ way := w, line := line, data := data } :: if l.length < cacheWays n then l else l.dropLast)

/-- Drops a line from a cache and keeps an outstanding fill of it from being allocated (R276). -/
def State.dropLine (s : State) (n : CacheName) (line : Nat) : State :=
  if !s.cacheOn n then s
  else
    let set := cacheSet n line
    let s := s.setLines n set (((s.cache n).lines set).filter (·.line != line))
    let x := s.cache n
    s.setCache n { x with miss := x.miss.map fun m => if m.line = line then { m with cancelled := true } else m }

/-! ### Reading a home -/

/-- What a core's read of its home gives. -/
inductive HomeRead where
  | ok (data : List Byte)
  | err (cause : Nat)
  /-- A poisoned granule of the own scratchpad (R107). -/
  | poison (granule : Nat)
  | wait
  deriving DecidableEq, Repr

/-- Reads bytes of memory at their home for core c (R104, R107, R237, R252). -/
def State.homeRead (s : State) (c a n : Nat) : HomeRead × State :=
  match spPlace a with
  | some (k, o) =>
    if k = c then
      let (data, bad, t) := s.spRead k o n
      (match bad with | some g => .poison g | none => .ok data, t)
    else
      match s.memRead c a n with
      | (.ok d, t) => (.ok d, t)
      | (.err e, t) => (.err e, t)
      | (.wait, _) => (.wait, s)
  | none =>
    match s.memRead c a n with
    | (.ok d, t) => (.ok d, t)
    | (.err e, t) => (.err e, t)
    | (.wait, _) => (.wait, s)

/-- The bytes of a line as the stores of a core's buffer leave them: a line holds no data older than a store
of its own core (R266). -/
def applyStores (line : Nat) (data : List Byte) (l : List StoreEntry) : List Byte :=
  l.foldl (fun d e => if lineOf e.la = line then patch d (e.la - line) e.bytes else d) data

/-- The buffered stores that a fill of the L2 meets: those of every supervisor core. -/
def State.supervisorStores (s : State) : List StoreEntry :=
  (List.range 8).flatMap fun j => (s.core (768 + j)).stores

/-! ### Misses (R265) -/

/-- Whether two cores share a cache level below their L1: the supervisor cores do. -/
def isSupervisor (c : CoreId) : Bool := decide (768 ≤ c.val)

/-- A miss of the L2 requests the line from its home in an L2 miss register. -/
def State.l2Miss (s : State) (c : CoreId) (line : Nat) : HomeRead × State :=
  match s.l2.miss.find? fun m => m.line == line && !m.cancelled with
  | some m => (.ok m.data, s)
  | none =>
    if missRegisters ≤ s.l2.miss.length then (.wait, s)
    else match s.homeRead c line 64 with
      | (.ok d, t) =>
        let d := applyStores line d t.supervisorStores
        (.ok d, { t with l2 := { t.l2 with miss := t.l2.miss ++ [{ line := line, data := d, core := c.val }] } })
      | r => r

/-- The line that an L1 miss brings: from the L2 when it serves, else from its home. -/
def State.lineSource (s : State) (c : CoreId) (line : Nat) : HomeRead × State :=
  if isSupervisor c ∧ s.cacheOn .l2 then
    match s.lookup .l2 line 0 64 with
    | (some d, t) => (.ok d, t)
    | (none, t) => t.l2Miss c line
  else s.homeRead c line 64

/-- Counts a miss that sent a request. -/
def State.countMiss (s : State) : CacheName → State
  | .instr c => s.count fCF_MISS_IMISS c
  | .data c => s.count fCF_MISS_DMISS c
  | .l2 => s

/-- A miss of an L1 cache: it joins the miss register of the line or takes a free one. -/
def State.missLine (s : State) (c : CoreId) (n : CacheName) (line : Nat) : HomeRead × State :=
  match (s.cache n).miss.find? fun m => m.line == line && !m.cancelled with
  | some m => (.ok m.data, s)
  | none =>
    if missRegisters ≤ (s.cache n).miss.length then (.wait, s)
    else match s.lineSource c line with
      | (.ok d, t) =>
        let d := match n with
          | .data _ => applyStores line d (t.core c).stores
          | _ => d
        let x := t.cache n
        (.ok d, (t.setCache n { x with miss := x.miss ++ [{ line := line, data := d, core := c.val }] }).countMiss n)
      | (.wait, _) => (.wait, s)
      | (r, t) => (r, t.countMiss n)

/-- The bytes an access wants of a line whose fill met an error: the words whose own granules are good are still
delivered. -/
def State.partOf (s : State) (a n : Nat) (r : HomeRead) : HomeRead :=
  match r with
  | .poison _ =>
    match spPlace a with
    | some (k, o) =>
      match (granulesOf o n).find? fun g => s.codeOf k g == .poisoned with
      | some g => .poison g
      | none => .ok (getBytes 0 (s.spOf k).mem o n)
    | none => r
  | .err e =>
    match sramPlace a with
    | some o =>
      match s.sramRead o n with
      | .ok d => .ok d
      | _ => .err e
    | none => .err e
  | _ => r

/-- Whether a local address may be served from the data cache of a core, or from its instruction cache (R262). -/
def cacheable (c : CoreId) (a : Nat) : Bool :=
  match targetOf a with
  | .dram => true
  | .sram _ => true
  | .scratchpad k _ => k == c.val
  | _ => false

/-- Reads bytes of one line through a cache of a core (R262, R264, R265). -/
def State.cachedRead (s : State) (c : CoreId) (n : CacheName) (a len : Nat) : HomeRead × State :=
  if !s.cacheOn n then s.homeRead c a len
  else
    let line := lineOf a
    match s.lookup n line (a - line) len with
    | (some d, t) => (.ok ((d.drop (a - line)).take len), t)
    | (none, t) =>
      match t.missLine c n line with
      | (.ok d, u) => (.ok ((d.drop (a - line)).take len), u)
      | (.wait, _) => (.wait, s)
      | (r, u) => (u.partOf a len r, u)

/-- LINE_FILL (R265, R270, R272): a line requested arrives whole. It is not allocated when a range operation or a
volatile load has cancelled it, or the cache is disabled. -/
def State.lineFill (s : State) (n : CacheName) (line : Nat) : State :=
  let x := s.cache n
  match x.miss.find? (·.line == line) with
  | none => s
  | some m =>
    let s := s.setCache n { x with miss := x.miss.erase m }
    if m.cancelled ∨ !s.cacheOn n then s else s.allocate n line m.data

/-! ### Enabling and disabling (R270) -/

/-- A write meets an enable bit with its clean flag and its refusal flag. -/
def State.enableBit (s : State) (en clean refuse : Field) (u : Nat) (on : Bool) : State :=
  if on then
    if s.flag en u then s
    else if s.flag clean u then s.setFlag en true u
    else s.setFlag refuse true u
  else if s.flag en u then (s.setFlag en false u).setFlag clean false u
  else s

/-- A write of CF_CTRL. -/
def State.writeCfCtrl (s : State) (c v : Nat) : State :=
  (s.enableBit fCF_CTRL_IEN fCF_STATUS_ICLEAN fCF_STATUS_ENREF c (bit v 0)).enableBit
    fCF_CTRL_DEN fCF_STATUS_DCLEAN fCF_STATUS_ENREF c (bit v 1)

/-- A write of CF_L2CTRL. -/
def State.writeL2Ctrl (s : State) (v : Nat) : State :=
  s.enableBit fCF_L2CTRL_EN fCF_L2STATUS_CLEAN fCF_L2STATUS_ENREF 0 (bit v 0)

/-! ### Range operations (R271–R273) -/

/-- The first byte and the bytes of the range of a core. -/
def State.rangeOf (s : State) (c : Nat) : Nat × Nat :=
  (s.pairAddr .cfRangeLo .cfRangeHi c, 64 * (s.reg .cfRangeLen c 0 + 1))

/-- Marks what the range operation of a core will remove: the lines of the range, the lines of bad parity in the sets that
it examines, and fills that are outstanding. -/
def Cache.doom (x : Cache) (c : Nat) (inRange examined : Nat → Bool) : Cache :=
  { sets := x.sets.map fun e => (e.1, e.2.map fun l =>
      if inRange l.line || (examined e.1 && l.bad 0 64) then { l with doomed := c :: l.doomed } else l)
    miss := x.miss.map fun m => if inRange m.line then { m with cancelled := true } else m }

/-- Whether n lines from a byte address have one in a set (R263, R273). -/
def setInRange (name : CacheName) (a n set : Nat) : Bool :=
  decide ((set + cacheSets name - a / 64 % cacheSets name) % cacheSets name < n)

/-- The caches that an operation of a core names. -/
def RangeOp.caches (r : RangeOp) (c : CoreId) : List CacheName :=
  (if r.i then [.instr c] else []) ++ (if r.d then [.data c] else []) ++ (if r.l2 then [.l2] else [])

/-- A write of CF_RANGE_CTRL (R271): it starts an operation, or is refused. -/
def State.rangeStart (s : State) (c : CoreId) (v : Nat) : State :=
  let r : RangeOp := { i := bit v 0, d := bit v 1, l2 := bit v 2 && isSupervisor c, all := bit v 3 }
  if (s.core c).range.isSome ∨ (!r.i ∧ !r.d ∧ !r.l2) then s.setFlag fCF_STATUS_RERR true c
  else
    let (a, n) := s.rangeOf c
    let inRange (line : Nat) : Bool := r.all || (decide (a ≤ line) && decide (line < a + n))
    let earlier := ((List.range 8).map (768 + ·)).filter fun k => ((s.core k).range.any (·.l2)) && r.l2
    let s := (r.caches c).foldl (fun t k =>
      t.setCache k ((t.cache k).doom c inRange fun set => r.all || setInRange k a (n / 64) set)) s
    s.modCore c fun x => { x with range := some { r with ahead := earlier } }

/-- Sets the clean flag of a cache whose every line has been invalidated (R270). -/
def State.setClean (s : State) : CacheName → State
  | .instr c => s.setFlag fCF_STATUS_ICLEAN true c
  | .data c => s.setFlag fCF_STATUS_DCLEAN true c
  | .l2 => s.setFlag fCF_L2STATUS_CLEAN true

/-- A core's operation no longer stands before those of others. -/
def State.l2Passed (s : State) (c : Nat) : State :=
  (List.range 8).foldl (fun t j => t.modCore (768 + j) fun x =>
    { x with range := x.range.map fun r => { r with ahead := r.ahead.filter (· != c) } }) s

/-- RANGE_COMPLETE (R271–R273): every named cache has finished. The L2 serves operations in the order they were
started. -/
def State.rangeComplete (s : State) (c : CoreId) : State :=
  match (s.core c).range with
  | none => s
  | some r =>
    if r.ahead ≠ [] then s
    else
      let s := (r.caches c).foldl (fun t k =>
        let t := t.sweep k c (cacheSets k)
        if r.all then t.setClean k else t) s
      (s.modCore c fun x => { x with range := none }).l2Passed c

/-! ### The commands of the table -/

def execLineFill (cache : CacheName) (line : Nat) (s : State) : Host.Outcome State Fault Refusal :=
  .next (s.lineFill cache (lineOf line))
def execCacheEnable (rq : Requester) (target : CacheTarget) (value : BitVec 32) (s : State) :
    Host.Outcome State Fault Refusal :=
  .next (match target with
    | .core c => s.regCommand rq 12 (c * 0x100) value.toNat fun t => t.writeCfCtrl c value.toNat
    | .l2 => s.regCommand rq 12 0x80000 value.toNat fun t => t.writeL2Ctrl value.toNat)
def execRangeOperation (rq : Requester) (c : CoreId) (value : BitVec 32) (s : State) :
    Host.Outcome State Fault Refusal :=
  .next (s.regCommand rq 12 (c * 0x100 + 0x14) value.toNat fun t => t.rangeStart c value.toNat)
def execRangeComplete (c : CoreId) (s : State) : Host.Outcome State Fault Refusal := .next (s.rangeComplete c)

end Sys2Proof.Machine
end

