-- ==== Sys2Proof/Machine/Blocks.lean ====
section
/-! DEFINITION. The blocks of an optical port: eight codewords of the Reed–Solomon (544,514) code that hold the control
bits and twenty flits (R326), and their way over the wavelengths of the port (R327). -/

namespace Sys2Proof.Machine

/-- The message symbols and the check symbols of a codeword of a block (R326). -/
def blockSymbols : Nat := 514
def blockChecks : Nat := 30

/-- The control bits of a block as a number: the marker, the width and the block count (R326). -/
def blockControl (width count : Nat) : Nat := 0x4C1E9A73 + width % 16 * 2 ^ 32 + count % 2 ^ 16 * 2 ^ 36

/-- The message bits of a block as a number: the control bits, then the bytes of the twenty flits (R326). -/
def blockMessage (width count : Nat) (flits : List (List Byte)) : Nat :=
  blockControl width count + 2 ^ 160 * leNat (flits.flatMap (fit 256))

/-- The message symbols of a number, its bits [9:0] first (notes/assumptions/120.md). -/
def symbolsOf (n v : Nat) : List Nat := (List.range n).map fun j => bits v (10 * j + 9) (10 * j)

/-- The number of message symbols. -/
def ofSymbols : List Nat → Nat
  | [] => 0
  | a :: r => a + 1024 * ofSymbols r

/-- A codeword: the message symbols, then the check symbols (R326). -/
def codewordOf (msg : List Nat) : List Nat := msg ++ blockField.check blockChecks msg

/-- The eight codewords of a block: message bit m belongs to codeword m div 5,140 (R326). -/
def blockWords (width count : Nat) (flits : List (List Byte)) : List (List Nat) :=
  let n := blockMessage width count flits
  (List.range 8).map fun c => codewordOf (symbolsOf blockSymbols (bits n (5140 * c + 5139) (5140 * c)))

/-- The five PAM4 symbols of a symbol, the most significant first (R327). -/
def pam4 (a : Nat) : List Nat := [8, 6, 4, 2, 0].map fun k => bits a (k + 1) k

/-- What a block puts on the wavelengths of a group of w: the codewords c with c mod w = q follow each other on the qth,
the one of round c div w in its turn (R327). -/
def blockWaves (lanes : List Nat) (words : List (List Nat)) : List (Nat × List Nat) :=
  let w := lanes.length
  (List.range w).map fun q =>
    (lanes.getD q 0, (List.range (8 / w)).flatMap fun round => (words.getD (round * w + q) []).flatMap pam4)

/-- A received codeword as the decoder corrects it: its message as a number, and whether it had to correct; none where
it cannot (R326). -/
def wordMessage (word : List Nat) : Option (Nat × Bool) :=
  if word.length ≠ blockSymbols + blockChecks then none
  else (blockField.decode blockChecks (word.map (· % 1024)) []).map fun d => (ofSymbols (d.1.take blockSymbols), d.2 != 0)

/-- The first and the last codeword that hold bits of a flit of a block. -/
def flitFirst (i : Nat) : Nat := (160 + 2048 * i) / 5140
def flitLast (i : Nat) : Nat := (160 + 2048 * i + 2047) / 5140

/-- What a port gets of a flit of a received block: its bytes, none where one of its codewords cannot be corrected
(R329), and how many codewords it reports as corrected and as uncorrectable: a codeword is reported with the first
flit that has bits in it, so once (R359). -/
structure FlitTake where
  bytes     : Option (List Byte)
  corrected : Nat
  bad       : Nat
  deriving DecidableEq, Repr

/-- Takes flit i out of a received block. -/
def blockFlit (words : List (List Nat)) (i : Nat) : FlitTake :=
  let f := flitFirst i
  let got := (span f (flitLast i + 1 - f)).map fun c => (c, wordMessage (words.getD c []))
  let told := got.filter fun g => i == 0 || flitLast (i - 1) < g.1
  { bytes :=
      if got.all (·.2.isSome) then
        let n := got.foldr (fun g v => (g.2.getD (0, false)).1 + 2 ^ 5140 * v) 0
        some (leBytes 256 (n / 2 ^ (160 + 2048 * i - 5140 * f)))
      else none
    corrected := (told.filter fun g => (g.2.getD (0, false)).2).length
    bad := (told.filter fun g => g.2.isNone).length }

end Sys2Proof.Machine
end

