-- ==== Sys2Proof/Machine/Contexts.lean ====
section
/-! DEFINITION. The context engine (08_contexts_and_batching.md): records, rings, commands, the step cycle,
and slot maps between modules. -/

namespace Sys2Proof.Machine

/-! ### Records (R187, R189) -/

/-- The code of a state (R187). -/
def CtxState.code : CtxState → Nat
  | .free => 0 | .idle => 1 | .ready => 2 | .running => 3 | .parked => 4

/-- Register n of a record: words 2n and 2n + 1 (R187, R190). -/
def CtxRec.view (x : CtxRec) (n : Nat) : Nat :=
  match n with
  | 0 => x.state.code * 0x2000 + oneIf x.portB 0x1000 + x.func * 0x80 + x.prio * 0x10 + oneIf x.handover 8
      + oneIf x.parkReq 4 + oneIf x.dropReq 2 + oneIf x.ien 1 + (x.inHead * 0x100 + x.inTail) * 0x10000
  | 1 => x.outHead * 0x100 + x.outTail + x.tokens % 0x10000 * 0x10000
  | 2 => x.tokens / 0x10000 + x.kvroot % 0x10000 * 0x10000
  | 3 => x.kvroot / 0x10000
  | 4 => x.syncBase + (oneIf x.slotV 0x8000 + x.slot) * 0x10000
  | 5 => x.readyStep
  | 6 => x.userTag
  | 7 => x.ivec
  | _ => 0

/-- When a record field may be written (R189). -/
inductive Writable where
  | never | held | settled
  deriving DecidableEq, Repr

/-- The fields of register n: their bits in the register, and when they may be written (R189). -/
def recFields : Nat → List (Nat × Nat × Writable)
  | 0 => [(31, 24, .never), (23, 16, .never), (15, 13, .never), (12, 12, .never), (11, 7, .never),
      (6, 4, .held), (3, 3, .held), (2, 2, .never), (1, 1, .never), (0, 0, .held)]
  | 1 => [(31, 16, .settled), (15, 8, .never), (7, 0, .never)]
  | 2 => [(31, 24, .settled), (15, 0, .settled)]
  | 3 => [(31, 0, .settled)]
  | 4 => [(31, 31, .never), (24, 16, .never), (15, 0, .settled)]
  | 5 => [(31, 0, .never)]
  | 6 => [(31, 0, .held)]
  | 7 => [(10, 0, .held)]
  | _ => []

/-- Whether a field may be written in a state (R189). -/
def Writable.allows (w : Writable) (st : CtxState) : Bool :=
  match w with
  | .never => false
  | .held => st != .free
  | .settled => st == .idle || st == .parked

/-- Sets the writable fields of register n from its value. -/
def CtxRec.setView (x : CtxRec) (n v : Nat) : CtxRec :=
  match n with
  | 0 => { x with prio := bits v 6 4, handover := bit v 3, ien := bit v 0 }
  | 1 => { x with tokens := setBits x.tokens 15 0 (bits v 31 16) }
  | 2 => { x with tokens := setBits x.tokens 31 16 (bits v 15 0)
                  kvroot := setBits x.kvroot 15 0 (bits v 31 24 * 0x100) }
  | 3 => { x with kvroot := setBits x.kvroot 47 16 v }
  | 4 => { x with syncBase := bits v 15 0 }
  | 6 => { x with userTag := v }
  | 7 => { x with ivec := bits v 10 0 }
  | _ => x

/-- The bits of a 32-bit register that a write reaches. -/
def halfMask (lo hi : Bool) : Nat := oneIf lo 0xFFFF + oneIf hi 0xFFFF0000

/-- A value with the enabled halves replaced. -/
def mergeHalves (old new : Nat) (lo hi : Bool) : Nat :=
  (if lo then new % 0x10000 else old % 0x10000) + (if hi then new / 0x10000 % 0x10000 else old / 0x10000) * 0x10000

/-- Counts an ignored command or field write (R188, R189). -/
def State.cmdErr (s : State) (n : Nat := 1) : State := s.count fCX_EVENTS_CMDERR (d := n)

/-- A record write: allowed fields take effect, a refused field counts when its value differs (R189). -/
def State.recordWrite (s : State) (ctx n : Nat) (lo hi : Bool) (v : Nat) : State :=
  let x := s.ctxRec ctx
  let old := x.view n
  let new := mergeHalves old v lo hi
  let (value, refused) := (recFields n).foldl (fun (acc : Nat × Nat) f =>
    let (h, l, w) := f
    if w.allows x.state then (setBits acc.1 h l (bits new h l), acc.2)
    else (acc.1, acc.2 + oneIf (bits new h l != bits old h l) 1)) (old, 0)
  let s := s.setRec ctx (x.setView n value)
  if refused = 0 then s else s.cmdErr refused

/-! ### Rings (R191–R193) -/

/-- Entries in the input and output rings. -/
def CtxRec.inCount (x : CtxRec) : Nat := (x.inTail + 256 - x.inHead) % 256
def CtxRec.outCount (x : CtxRec) : Nat := (x.outTail + 256 - x.outHead) % 256

/-- The eligibility condition E (R193). -/
def CtxRec.eligible (x : CtxRec) : Bool := decide (1 ≤ x.inCount) && decide (x.outCount ≤ 63)

/-- Stores a record and tells every node when its context parks, resumes or becomes free (R296). -/
def State.moveRec (s : State) (ctx : Nat) (x : CtxRec) : State :=
  let old := s.ctxRec ctx
  let s := s.setRec ctx x
  if old.state ≠ x.state ∧ (old.state = .parked ∨ x.state = .parked ∨ x.state = .free) then s.sendNotice ctx old x.state else s

/-- An idle context that has become eligible is ready (R188). -/
def State.checkReady (s : State) (ctx : Nat) : State :=
  let x := s.ctxRec ctx
  if x.state = .idle ∧ x.eligible then
    s.setRec ctx { x with state := .ready, readyStep := s.reg .cxStep 0 0 }
  else s

/-- The device is a follower (CX_CFG.ROLE, R210). -/
def State.follower (s : State) : Bool := s.flag fCX_CFG_ROLE

/-- Whether a function owns a context. -/
def CtxRec.ownedBy (x : CtxRec) (portB : Bool) (func : Nat) : Bool :=
  x.state != .free && x.portB == portB && x.func == func

/-- The input doorbell (R192). -/
def State.inDoorbell (s : State) (ctx tail : Nat) : State :=
  let x := s.ctxRec ctx
  let new := (tail + 256 - x.inHead) % 256
  if x.inCount ≤ new ∧ new ≤ 128 then (s.setRec ctx { x with inTail := tail }).checkReady ctx
  else s.count fCX_EVENTS_BADDB

/-- The output doorbell (R192). -/
def State.outDoorbell (s : State) (ctx head : Nat) : State :=
  let x := s.ctxRec ctx
  if (x.outTail + 256 - head) % 256 ≤ x.outCount then (s.setRec ctx { x with outHead := head }).checkReady ctx
  else s.count fCX_EVENTS_BADDB

/-! ### Commands (R188, R204–R209) -/

/-- OPEN (R188, R207). -/
def State.ctxOpen (s : State) (portB : Bool) (func ctx : Nat) : State :=
  if (s.ctxRec ctx).state = .free then s.setRec ctx { state := .idle, portB := portB, func := func }
  else s.cmdErr

/-- PARK (R188, R206); ignored on a follower (R211). -/
def State.ctxPark (s : State) (ctx : Nat) : State :=
  let x := s.ctxRec ctx
  if s.follower then s.cmdErr
  else match x.state with
    | .idle => s.moveRec ctx { x with state := .parked }
    | .ready => s.moveRec ctx { x with state := .parked }
    | .running => s.setRec ctx { x with parkReq := true }
    | _ => s.cmdErr

/-- RESUME (R188); ignored on a follower (R211). -/
def State.ctxResume (s : State) (ctx : Nat) : State :=
  let x := s.ctxRec ctx
  if x.state = .parked ∧ !s.follower then
    s.moveRec ctx (if x.eligible then { x with state := .ready, readyStep := s.reg .cxStep 0 0 }
      else { x with state := .idle })
  else s.cmdErr

/-- DROP (R188, R206). -/
def State.ctxDrop (s : State) (ctx : Nat) : State :=
  let x := s.ctxRec ctx
  match x.state with
  | .free => s.cmdErr
  | .running => s.setRec ctx { x with dropReq := true }
  | _ => s.moveRec ctx {}

/-- A claim or an assignment gives a context a new owner (R208, R209). -/
def State.giveCtx (s : State) (portB : Bool) (func ctx : Nat) : State :=
  s.modRec ctx fun x => { x with portB := portB, func := func, handover := false, ien := false }

/-- CLAIM (R208). -/
def State.ctxClaim (s : State) (portB : Bool) (func ctx : Nat) : State :=
  let x := s.ctxRec ctx
  let lost := (s.pxOf (if x.portB then 1 else 0)).lost
  if x.state ≠ .free ∧ !x.ownedBy portB func ∧
      (x.handover ∨ (s.flag fCX_CFG_PEERCLAIM ∧ lost ∧ portB ≠ x.portB)) then s.giveCtx portB func ctx
  else s.cmdErr

/-- ASSIGN (R209). -/
def State.ctxAssign (s : State) (portB : Bool) (func ctx : Nat) : State :=
  if (s.ctxRec ctx).state = .free then s.cmdErr else s.giveCtx portB func ctx

/-- A command by its code (R204). Through a frame, PARK, RESUME, DROP and every other code act for the owner
only, and what a non-owner issues is not counted (R207). Through CX_CMD, FUNC above 16 makes the command
ignored (R213). -/
def State.ctxCommand (s : State) (code : Nat) (portB : Bool) (func : Nat) (frame : Bool) (ctx : Nat) : State :=
  let mine := !frame || (s.ctxRec ctx).ownedBy portB func
  if !frame && decide (16 < func) then s.cmdErr
  else match code with
    | 1 => s.ctxOpen portB func ctx
    | 5 => s.ctxClaim portB func ctx
    | _ =>
      if !mine then s
      else match code with
        | 2 => s.ctxPark ctx
        | 3 => s.ctxResume ctx
        | 4 => s.ctxDrop ctx
        | 6 => if frame then s.cmdErr else s.ctxAssign portB func ctx
        | _ => s.cmdErr

/-- A request takes effect at the context engine (R190, R192, R204). -/
def State.cxEffect (s : State) (r : CtxReq) : State :=
  match r with
  | .command code portB func frame ctx => s.ctxCommand code portB func frame ctx
  | .inDb portB func ctx tail =>
    if (s.ctxRec ctx).ownedBy portB func ∧ !s.follower then s.inDoorbell ctx tail else s
  | .outDb portB func ctx head =>
    if (s.ctxRec ctx).ownedBy portB func ∧ !s.follower then s.outDoorbell ctx head else s
  | .record frame portB func ctx n lo hi v =>
    if !frame || (s.ctxRec ctx).ownedBy portB func then s.recordWrite ctx n lo hi v else s

/-- A request reaches the context engine: during a close or a composition it waits for its end (R205). -/
def State.cxReach (s : State) (r : CtxReq) : State :=
  if s.cx.phase = .closing ∨ s.cx.phase = .composing then { s with cx := { s.cx with deferred := s.cx.deferred ++ [r] } }
  else s.cxEffect r

/-! ### The close (R202, R203) -/

/-- Records an uncorrectable entry read (R199, R202). -/
def State.cxReadError (s : State) (kind slot ctx : Nat) : State :=
  let s := s.count fCX_RERR_COUNT
  let s := s.setReg .cxRerr 0 0 (s.reg .cxRerr 0 0 / 0x1000000 * 0x1000000 + 0x800000 + kind * 0x400000
    + slot * 0x1000 + ctx)
  s.deviceEvent 6

/-- Address of a ring entry (R191). -/
def State.ringAddr (s : State) (ctx off : Nat) : Nat :=
  s.pairAddr .cxRingbaseLo .cxRingbaseHi + ctx * 0x3000 + off

/-- The state a running record moves to at the close (R188). -/
def State.closeRecord (s : State) (ctx : Nat) : State :=
  let x := s.ctxRec ctx
  if x.dropReq then s.moveRec ctx {}
  else if x.parkReq then s.moveRec ctx { x with state := .parked, parkReq := false }
  else s.setRec ctx { x with state := if x.eligible then .ready else .idle }

/-- Closes one slot; answers whom to tell (R202, R203). -/
def State.closeSlot (s : State) (slot ctx : Nat) : List (Nat × Nat × Nat) × State :=
  let x := s.ctxRec ctx
  if x.dropReq then ([], s.closeRecord ctx)
  else match s.dramRead (s.pairAddr .cxSlotoutLo .cxSlotoutHi + 64 * slot) 64 with
    | (.ok e, t) =>
      let advance := byteWord2 e 0
      let emit := bit (byteWord2 e 1) 0
      let keep := bit (byteWord2 e 1) 1
      let t := if emit then
          (t.dramWrite (t.ringAddr ctx (0x2000 + 64 * (x.outTail % 64))) e (e.map fun _ => true)).2
        else t
      let tokens := x.tokens + advance
      let t := if 0xFFFFFFFF < tokens then t.count fCX_EVENTS_TOKSAT else t
      let t := t.setRec ctx { x with
        outTail := if emit then (x.outTail + 1) % 256 else x.outTail
        tokens := min tokens 0xFFFFFFFF
        inHead := if keep then x.inHead else (x.inHead + 1) % 256 }
      (if emit ∧ x.ien then [(if x.portB then 1 else 0, x.func, x.ivec)] else [], t.closeRecord ctx)
    | (_, t) => ([], (t.cxReadError 1 slot ctx).closeRecord ctx)
where
  /-- Word n of a list of bytes. -/
  byteWord2 (l : List Byte) (n : Nat) : Nat := leNat ((l.drop (2 * n)).take 2)

/-- What waited for the end of a close or a composition takes effect (R205). -/
def State.cxLate (s : State) : State :=
  s.cx.deferred.foldl State.cxEffect { s with cx := { s.cx with deferred := [] } }

/-- CLOSE (R196, R202, R203): the wait on DONEID has completed. -/
def State.closeStep (s : State) : State :=
  if s.cx.phase ≠ .closing ∨ s.level < 3 then s
  else
    let (who, s) := s.cx.occ.foldl (fun (acc : List (Nat × Nat × Nat) × State) e =>
      let (l, t) := acc.2.closeSlot e.1 (e.2 - 1)
      (acc.1 ++ l, t)) ([], s)
    let s := who.eraseDups.foldl (fun t w => t.raiseVector w.1 w.2.1 w.2.2) s
    State.cxLate { s with cx := { s.cx with phase := .gathering, gathered := false, done := false } }

/-! ### Composition (R197–R200) -/

/-- Slots of the batch: S (R197). -/
def State.batch (s : State) : Nat := s.fld fCX_CFG_SM1 + 1

/-- The ready contexts. -/
def State.readyList (s : State) : List Nat := (s.ctx.map (·.1)).eraseDups.filter fun c => (s.ctxRec c).state == .ready

/-- Whether context a comes before b in the order of selection (R198). -/
def State.before (s : State) (a b : Nat) : Bool :=
  let x := s.ctxRec a
  let y := s.ctxRec b
  if x.prio ≠ y.prio then decide (y.prio < x.prio)
  else if x.readyStep ≠ y.readyStep then decide (x.readyStep < y.readyStep)
  else decide (a < b)

/-- Inserts into an ordered list. -/
def insertBy (before : Nat → Nat → Bool) (a : Nat) : List Nat → List Nat
  | [] => [a]
  | b :: r => if before a b then a :: b :: r else b :: insertBy before a r

/-- GATHER_TIMEOUT (R197). -/
def State.gatherTimeout (s : State) : State :=
  if s.cx.phase = .gathering then { s with cx := { s.cx with gathered := true } } else s

/-- The slot that a context keeps (R198): its slot of the step just closed, or of the one that a warm reset interrupted
(R439). -/
def State.keptSlot (s : State) (c : Nat) : Option Nat :=
  let x := s.ctxRec c
  let last := if s.cx.kept = [] then s.cx.occ else s.cx.kept
  if x.slotV ∧ get 0 last x.slot = c + 1 then some x.slot else none

/-- Slots of the selected contexts: the kept ones, then the lowest free ones in order (R198). -/
def State.assignSlots (s : State) (sel : List Nat) : List (Nat × Nat) :=
  let keeps := s.keptSlot
  let kept := sel.filterMap fun c => (keeps c).map fun sl => (c, sl)
  let free := (List.range s.batch).filter fun sl => !kept.any (·.2 == sl)
  let others := sel.filter fun c => (keeps c).isNone
  kept ++ others.zip free

/-- The 8 bytes of a slot map entry (R199). -/
def mapEntry (ctx tokens : Nat) : List Byte := leBytes 2 (0x8000 + ctx) ++ leBytes 2 0 ++ leBytes 4 tokens

/-- Reads the input entries of the selected contexts; a context whose entry is uncorrectable parks (R199). Their order is
that of the list (DESIGN CHOICE, notes/assumptions/143.md). -/
def State.readInputs (s : State) (l : List (Nat × Nat)) : SMap (List Byte) × SMap Nat × State :=
  l.foldl (fun (acc : SMap (List Byte) × SMap Nat × State) p =>
    let (ctx, slot) := p
    let t := acc.2.2
    let x := t.ctxRec ctx
    match t.dramRead (t.ringAddr ctx (64 * (x.inHead % 128))) 64 with
    | (.ok e, u) =>
      (put [] acc.1 slot e, put 0 acc.2.1 slot (ctx + 1),
        u.setRec ctx { x with state := .running, slotV := true, slot := slot })
    | (_, u) =>
      (acc.1, acc.2.1, (u.moveRec ctx { x with state := .parked }).cxReadError 0 slot ctx)) ([], [], s)

/-- COMPOSE (R197–R199). -/
def State.compose (s : State) : State :=
  let ready := s.readyList
  let n := s.batch
  if s.cx.phase ≠ .gathering ∨ s.level < 3 ∨ s.follower ∨ ready = [] ∨ (ready.length < n ∧ !s.cx.gathered) then s
  else
    let sel := (ready.foldl (fun l c => insertBy s.before c l) []).take n
    let (inputs, occ, s) := s.readInputs (s.assignSlots sel)
    let map := (List.range 512).flatMap fun sl =>
      let c := get 0 occ sl
      if c = 0 then List.replicate 8 0 else mapEntry (c - 1) (s.ctxRec (c - 1)).tokens
    let table := (List.range 512).flatMap fun sl =>
      let e := get [] inputs sl
      if e = [] then List.replicate 64 0 else e
    let s := (s.dramWrite (s.pairAddr .cxSlotmapLo .cxSlotmapHi) map (map.map fun _ => true)).2
    let s := (s.dramWrite (s.pairAddr .cxSlotinLo .cxSlotinHi) table (table.map fun _ => true)).2
    { s with cx := { s.cx with phase := .composing, occ := occ, kept := [], map := map } }

/-! ### Slot maps between modules (R210–R212, R357) -/

/-- The 32 parts of a slot map. -/
def mapParts (map : List Byte) : List (List Byte) := chunks 128 32 map

/-- Sends the parts of a map to a receiver. -/
def State.sendParts (s : State) (m : SentMap) : State :=
  (m.parts.zip (List.range 32)).foldl (fun t p =>
    t.toHub { kind := .mapPart, ddev := m.dev, sdev := t.ol.devId, req := 1023, data := p.1, len := 128,
              stepNo := m.stepNo, part := p.2 }) s

/-- Sends the map of a step to every device named (R210); it waits while the receiver's credit is out (R357). -/
def State.forwardMap (s : State) (step : Nat) (map : List Byte) : State :=
  (List.range 4).foldl (fun t i =>
    if t.flag fCX_FWD_VALID 0 i then
      let m : SentMap := ⟨BitVec.ofNat 16 (t.fld fCX_FWD_DEV 0 i), step, mapParts map⟩
      if t.cx.sent.any (·.dev == m.dev) then { t with cx := { t.cx with waitingMaps := t.cx.waitingMaps ++ [m] } }
      else ({ t with cx := { t.cx with sent := t.cx.sent ++ [m] } }).sendParts m
    else t) s

/-- MAP_CREDIT (R212, R357): the receiver has released the step; its next map goes out. -/
def State.mapCredit (s : State) (dev : Half) (step : Nat) : State :=
  if s.cx.sent.any fun m => m.dev == dev && m.stepNo == step then
    let s := { s with cx := { s.cx with sent := s.cx.sent.filter fun m => !(m.dev == dev && m.stepNo == step) } }
    match s.cx.waitingMaps.find? (·.dev == dev) with
    | none => s
    | some m =>
      ({ s with cx := { s.cx with sent := s.cx.sent ++ [m], waitingMaps := s.cx.waitingMaps.erase m } }).sendParts m
  else s

/-- Sends an outstanding map again (R212). -/
def State.resendMap (s : State) (m : SentMap) : State :=
  ((s.count fCX_MAPSTAT_RESENDS).deviceEvent 6).sendParts m

/-- MAP_RESEND (R212). -/
def State.mapResend (s : State) (dev : Half) : State :=
  (s.cx.sent.filter (·.dev == dev)).foldl State.resendMap s

/-- An epoch switch sends every outstanding map again (R212). -/
def State.resendAll (s : State) : State := s.cx.sent.foldl State.resendMap s

/-- Returns the credit of a step to the sender of its map (R357). -/
def State.sendCredit (s : State) (dev : Half) (step : Nat) : State :=
  s.toHub { kind := .mapCredit, ddev := dev, sdev := s.ol.devId, req := 1023, stepNo := step }

/-- SLOT_MAP_PART (R210, R212): a part arrives. While a whole map is held, a part of its step or of an older one is
discarded, and one of a later step waits in the hub. A whole map of a step already released that comes again brings its
credit back. -/
def State.slotMapPart (s : State) (dev : Half) (step part : Nat) (data : List Byte) : State :=
  let now := s.reg .cxStep 0 0
  if !s.follower then s
  else if step ≤ now then
    let seen := get 0 s.cx.again step ||| 2 ^ part
    if seen = 2 ^ 32 - 1 then ({ s with cx := { s.cx with again := put 0 s.cx.again step 0 } }).sendCredit dev step
    else { s with cx := { s.cx with again := put 0 s.cx.again step seen } }
  else if s.cx.heldMap.any fun h => decide (step ≤ h.1) then s
  else if s.cx.heldMap.isSome then
    s.toHub { kind := .mapPart, ddev := s.ol.devId, sdev := dev, req := 1023, data := data, len := 128, stepNo := step,
              part := part }
  else
    let parts := put [] s.cx.rxParts (step * 32 + part) data
    let all := (List.range 32).map fun p => get [] parts (step * 32 + p)
    if all.any (· == []) then { s with cx := { s.cx with rxParts := parts, rxDev := dev } }
    else { s with cx := { s.cx with
      rxParts := parts.filter fun e => decide (step < e.1 / 32), rxDev := dev, heldMap := some (step, all.flatten) } }

/-! ### The release (R196, R200, R210, R211) -/

/-- Signals RELID and registers the wait on DONEID for the next step (R196). An identifier whose device-wide
entry is invalid signals and waits on nothing. -/
def State.signalRelease (s : State) : State :=
  let s := match s.syncTarget 776 0 true (s.fld fCX_SYNC_RELID) with
    | some t => s.sendSig 776 t (s.fld fCX_RELINC_INC)
    | none => s
  match s.syncTarget 776 0 true (s.fld fCX_SYNC_DONEID) with
  | some (.counter p) => s.sendWait 776 p 1 none
  | _ => s

/-- RELEASE (R200): the writes of the composition are acknowledged. What waited for its end takes effect. -/
def State.release (s : State) : State :=
  if s.cx.phase ≠ .composing then s
  else
    let step := (s.reg .cxStep 0 0 + 1) % 0x100000000
    let s := (s.setReg .cxStep 0 0 step).forwardMap step s.cx.map
    let s := s.signalRelease
    State.cxLate { s with cx := { s.cx with phase := .running, released := true, done := false } }

/-- A follower's own slot map entry for a received one (R211). -/
def State.followEntry (s : State) (slot : Nat) (e : List Byte) : List Byte × State :=
  let w := leNat (e.take 2)
  let ctx := bits w 11 0
  let x := s.ctxRec ctx
  if !bit w 15 then (List.replicate 8 0, s)
  else if x.state = .free then (List.replicate 8 0, s.count fCX_EVENTS_MISMATCH)
  else (e, s.setRec ctx { x with slotV := true, slot := slot })

/-- FOLLOWER_RELEASE (R210, R211): the slots of its own map are the occupied ones of the step (R213). It forwards the map
as it received it (DEDUCED, notes/assumptions/144.md). -/
def State.followerRelease (s : State) : State :=
  match s.cx.heldMap with
  | none => s
  | some (step, map) =>
    if !s.follower ∨ s.level < 3 ∨ (s.cx.released ∧ !s.cx.done) then s
    else
      let (own, s) := ((chunks 8 512 map).zip (List.range 512)).foldl (fun (acc : List Byte × State) p =>
        let (e, t) := acc.2.followEntry p.2 p.1
        (acc.1 ++ e, t)) ([], s)
      let s := (s.dramWrite (s.pairAddr .cxSlotmapLo .cxSlotmapHi) own (own.map fun _ => true)).2
      let s := (s.setReg .cxStep 0 0 step).forwardMap step map
      let s := s.signalRelease
      let occ := (List.range 512).foldl (fun m sl =>
        let w := leNat ((own.drop (8 * sl)).take 2)
        put 0 m sl (if bit w 15 then bits w 11 0 + 1 else 0)) []
      let s := { s with cx := { s.cx with heldMap := none, occ := occ, released := true, done := false } }
      s.sendCredit s.cx.rxDev step

/-! ### The commands of the table -/

def execCloseStep (s : State) : Host.Outcome State Fault Refusal := .next s.closeStep
def execGatherTimeout (s : State) : Host.Outcome State Fault Refusal := .next s.gatherTimeout
def execCompose (s : State) : Host.Outcome State Fault Refusal := .next s.compose
def execRelease (s : State) : Host.Outcome State Fault Refusal := .next s.release
def execFollowerRelease (s : State) : Host.Outcome State Fault Refusal := .next s.followerRelease
def execSlotMapPart (sender : BitVec 16) (stepNo : BitVec 32) (part : Fin 32) (data : List Byte) (s : State) :
    Host.Outcome State Fault Refusal := .next (s.slotMapPart sender stepNo.toNat part data)
def execMapCredit (sender : BitVec 16) (stepNo : BitVec 32) (s : State) : Host.Outcome State Fault Refusal :=
  .next (s.mapCredit sender stepNo.toNat)
def execMapResend (receiver : BitVec 16) (s : State) : Host.Outcome State Fault Refusal := .next (s.mapResend receiver)

end Sys2Proof.Machine
end

