-- ==== Sys2Proof/Machine/Shake.lean ====
section
/-! DEFINITION. SHAKE256 of FIPS 202, which R380 names for every digest, and SHAKE128, which ML-DSA-65 uses beside it:
sponges over Keccak-f[1600]. The 1,600 bits stand as five rows of five 64-bit lanes. -/

namespace Sys2Proof.Machine

/-- Rotates a 64-bit lane left. -/
def rol64 (x n : Nat) : Nat := (x <<< n ||| x >>> (64 - n)) % 2 ^ 64

/-- Exclusive or of two rows, lane by lane. -/
def xorRow (a b : List Nat) : List Nat := List.zipWith (· ^^^ ·) a b

/-- Each lane takes in the parity of the column before its own and, rotated by one, of the column after it. -/
def theta (rows : List (List Nat)) : List (List Nat) :=
  let parity := rows.foldl xorRow (List.replicate 5 0)
  let mix := xorRow (parity.rotateRight 1) ((parity.rotateLeft 1).map (rol64 · 1))
  rows.map (xorRow mix)

/-- Where the lanes go: for each place, the place its lane comes from and how far that lane is rotated on the way. The
walk (x, y) → (y, 2x + 3y) from (1, 0) visits every lane but the first; its t-th lane turns by t(t + 1)/2. -/
def laneMoves : List (Nat × Nat) :=
  ((List.range 24).foldl (fun (w : (Nat × Nat) × List (Nat × Nat)) t =>
    let here := w.1
    let next := (here.2, (2 * here.1 + 3 * here.2) % 5)
    (next, w.2.set (next.1 + 5 * next.2) (here.1 + 5 * here.2, (t + 1) * (t + 2) / 2 % 64))) ((1, 0), List.replicate 25 (0, 0))).2

/-- The lanes rotated and moved. -/
def moveLanes (rows : List (List Nat)) : List (List Nat) :=
  let lanes := rows.flatten
  chunks 5 5 (laneMoves.map fun m => rol64 (lanes.getD m.1 0) m.2)

/-- The one step that is not linear: a lane changes where the next lane of its row is 0 and the one after it is 1. -/
def chi (row : List Nat) : List Nat :=
  xorRow row (List.zipWith (fun next after => after ^^^ (next &&& after)) (row.rotateLeft 1) (row.rotateLeft 2))

/-- Seven bits of the shift register x^8 + x^6 + x^5 + x^4 + 1 make a round constant, at the places 2^j − 1. -/
def roundConstant (r : Nat) : Nat × Nat :=
  (List.range 7).foldl (fun (a : Nat × Nat) j =>
    let shifted := 2 * a.1
    (if shifted < 0x100 then shifted else shifted ^^^ 0x171, a.2 + (a.1 % 2) <<< (2 ^ j - 1))) (r, 0)

/-- The constants of a number of rounds, from a register on. -/
def roundConstants : Nat → Nat → List Nat
  | 0, _ => []
  | n + 1, r =>
    let next := roundConstant r
    next.2 :: roundConstants n next.1

/-- One round with its constant. -/
def keccakRound (rows : List (List Nat)) (rc : Nat) : List (List Nat) :=
  ((moveLanes (theta rows)).map chi).modify 0 fun row => row.modify 0 (· ^^^ rc)

/-- Keccak-f[1600]. -/
def keccakF (rows : List (List Nat)) : List (List Nat) := (roundConstants 24 1).foldl keccakRound rows

/-- The bytes of the state, the lowest lane first. -/
def spongeBytes (rows : List (List Nat)) : List Byte := rows.flatten.flatMap (leBytes 8)

/-- A block of rate bytes enters the state. -/
def absorb (rate : Nat) (rows : List (List Nat)) (block : List Byte) : List (List Nat) :=
  let lanes := (chunks 8 (rate / 8) block).map leNat
  keccakF (List.zipWith xorRow rows (chunks 5 5 (lanes ++ List.replicate (25 - lanes.length) 0)))

/-- The first n bytes that leave the state, rate bytes at a time. -/
def squeeze (rate : Nat) : Nat → Nat → List (List Nat) → List Byte
  | 0, _, _ => []
  | fuel + 1, n, rows =>
    let out := (spongeBytes rows).take (min n rate)
    if n ≤ rate then out else out ++ squeeze rate fuel (n - rate) (keccakF rows)

/-- The message with the suffix 1111 of SHAKE and the padding 10…01, in whole blocks. -/
def spongePad (rate : Nat) (m : List Byte) : List Byte :=
  let room := rate - m.length % rate
  if room = 1 then m ++ [0x9F] else m ++ 0x1F :: List.replicate (room - 2) 0 ++ [0x80]

/-- SHAKE with a rate in bytes, to n bytes. -/
def shake (rate n : Nat) (m : List Byte) : List Byte :=
  let p := spongePad rate m
  squeeze rate (n / rate + 1) n ((chunks rate (p.length / rate) p).foldl (absorb rate) (List.replicate 5 (List.replicate 5 0)))

/-- SHAKE256 with an output of n bytes (R380). -/
def shake256 (n : Nat) (m : List Byte) : List Byte := shake 136 n m

/-- SHAKE128 with an output of n bytes. -/
def shake128 (n : Nat) (m : List Byte) : List Byte := shake 168 n m

end Sys2Proof.Machine
end

