-- ==== Sys2Proof/Machine/MlDsa.lean ====
section
/-! DEFINITION. ML-DSA-65 of FIPS 204, which R380 names for every signature: key generation, deterministic signing in
the pure form with an empty context, and verification. Coefficients stand as numbers below q. -/

namespace Sys2Proof.Machine

/-! ### Parameters -/

/-- The modulus, the bound of y and z, and the width of a low-order part. -/
def dsaQ : Nat := 8380417
def dsaG1 : Nat := 2 ^ 19
def dsaG2 : Nat := 261888

/-- Rows and columns of the matrix, nonzero coefficients of a challenge, the bound of a challenge times a secret, and the
most ones of a hint. -/
def dsaK : Nat := 6
def dsaL : Nat := 5
def dsaTau : Nat := 49
def dsaBeta : Nat := 196
def dsaOmega : Nat := 55

/-- A polynomial by its 256 coefficients, lowest power first. -/
abbrev DsaPoly := List Nat

/-! ### Arithmetic -/

/-- A number to a power of at most 10 bits, modulo q. -/
def dsaPow (a n : Nat) : Nat :=
  (List.range 10).foldl (fun v i => v * v % dsaQ * (if bit n (9 - i) then a else 1) % dsaQ) 1

/-- The low 8 bits of a number in reverse order. -/
def reverse8 (m : Nat) : Nat := (List.range 8).foldl (fun v i => 2 * v + (if bit m i then 1 else 0)) 0

/-- Sum, difference and product of polynomials, coefficient by coefficient. -/
def dsaAdd (a b : DsaPoly) : DsaPoly := List.zipWith (fun x y => (x + y) % dsaQ) a b
def dsaSub (a b : DsaPoly) : DsaPoly := List.zipWith (fun x y => (x + dsaQ - y) % dsaQ) a b
def dsaDot (a b : DsaPoly) : DsaPoly := List.zipWith (fun x y => x * y % dsaQ) a b

/-- A polynomial times a number. -/
def dsaScale (c : Nat) (a : DsaPoly) : DsaPoly := a.map fun x => c * x % dsaQ

/-- The number-theoretic transform: a block of 2^n coefficients, the mth of its layer counted from 2^(8 − n). -/
def ntt : Nat → Nat → DsaPoly → DsaPoly
  | 0, _, l => l
  | n + 1, m, l =>
    let a := l.take (2 ^ n)
    let b := dsaScale (dsaPow 1753 (reverse8 m)) (l.drop (2 ^ n))
    ntt n (2 * m) (dsaAdd a b) ++ ntt n (2 * m + 1) (dsaSub a b)

/-- The inverse transform, but for the factor 256. -/
def nttBack : Nat → Nat → DsaPoly → DsaPoly
  | 0, _, l => l
  | n + 1, m, l =>
    let a := nttBack n (2 * m) (l.take (2 ^ n))
    let b := nttBack n (2 * m + 1) (l.drop (2 ^ n))
    dsaAdd a b ++ dsaScale (dsaPow 1753 (512 - reverse8 m)) (dsaSub a b)

/-- The transform of a polynomial and its inverse. -/
def toNtt (a : DsaPoly) : DsaPoly := ntt 8 1 a
def ofNtt (a : DsaPoly) : DsaPoly := dsaScale 8347681 (nttBack 8 1 a)

/-- The zero polynomial. -/
def dsaZero : DsaPoly := List.replicate 256 0

/-- A row of a matrix times a vector, all transformed. -/
def dsaRow (r v : List DsaPoly) : DsaPoly := (List.zipWith dsaDot r v).foldl dsaAdd dsaZero

/-- A matrix times a vector, both transformed. -/
def dsaMatrix (a : List (List DsaPoly)) (v : List DsaPoly) : List DsaPoly := a.map fun r => dsaRow r v

/-- A transformed polynomial times a transformed vector, back in coefficients. -/
def dsaTimes (c : DsaPoly) (v : List DsaPoly) : List DsaPoly := v.map fun p => ofNtt (dsaDot c p)

/-- Whether the coefficients of a vector lie below a bound in absolute value. -/
def dsaBelow (bound : Nat) (v : List DsaPoly) : Bool := v.all fun p => p.all fun x => decide (min x (dsaQ - x) < bound)

/-! ### Parts of a coefficient -/

/-- The high-order part, in units of 2 γ2, and the low-order part. -/
def highPart (r : Nat) : Nat := (r + dsaG2 - 1) / (2 * dsaG2) % 16
def lowPart (r : Nat) : Nat := (r + dsaQ - highPart r * (2 * dsaG2)) % dsaQ

/-- The high-order part that a hint corrects. -/
def useHint (h r : Nat) : Nat :=
  if h = 0 then highPart r
  else if 0 < lowPart r ∧ lowPart r ≤ dsaG2 then (highPart r + 1) % 16
  else (highPart r + 15) % 16

/-- The parts of a public coefficient above and below 2^13. -/
def upper13 (r : Nat) : Nat := (r + 4095) / 8192
def lower13 (r : Nat) : Nat := (r + dsaQ - upper13 r * 8192) % dsaQ

/-! ### Encodings -/

/-- Numbers of n bits as bytes, the lowest bit first, and back. -/
def packBits (n : Nat) (l : List Nat) : List Byte := leBytes (l.length * n / 8) (l.foldr (fun a v => a + 2 ^ n * v) 0)
def unpackBits (n count : Nat) (bs : List Byte) : List Nat :=
  let v := leNat bs
  (List.range count).map fun i => v / 2 ^ (n * i) % 2 ^ n

/-- A polynomial whose coefficients lie above −γ1, as bytes, and back. -/
def packZ (a : DsaPoly) : List Byte := packBits 20 (a.map fun x => (dsaG1 + dsaQ - x) % dsaQ)
def unpackZ (bs : List Byte) : DsaPoly := (unpackBits 20 256 bs).map fun v => (dsaG1 + dsaQ - v) % dsaQ

/-- The high-order parts of a vector as bytes. -/
def packHigh (v : List DsaPoly) : List Byte := v.flatMap (packBits 4)

/-- A hint as bytes: the places of its ones, and after them where each polynomial's end. -/
def packHint (h : List DsaPoly) : List Byte :=
  let ones (p : DsaPoly) : List Nat := (List.range 256).filter fun j => p.getD j 0 != 0
  let places := h.flatMap ones
  let ends := (List.range dsaK).map fun i => ((h.take (i + 1)).flatMap ones).length
  ((places ++ List.replicate (dsaOmega - places.length) 0) ++ ends).map (BitVec.ofNat 8)

/-- Whether numbers rise strictly. -/
def rising : List Nat → Bool
  | a :: b :: r => decide (a < b) && rising (b :: r)
  | _ => true

/-- The hint of bytes: none for bytes that encode none. -/
def unpackHint (bs : List Byte) : Option (List DsaPoly) :=
  let y := bs.map (·.toNat)
  let stop (i : Nat) : Nat := if i = 0 then 0 else y.getD (dsaOmega + i - 1) 0
  let part (i : Nat) : List Nat := (y.take (stop (i + 1))).drop (stop i)
  if (List.range dsaK).all fun i => decide (stop i ≤ stop (i + 1) ∧ stop (i + 1) ≤ dsaOmega) && rising (part i) then
    if ((y.take dsaOmega).drop (stop dsaK)).all (· == 0) then
      some ((List.range dsaK).map fun i => (List.range 256).map fun j => if (part i).contains j then 1 else 0)
    else none
  else none

/-! ### Sampling -/

/-- The matrix of a public seed, transformed: of each polynomial's 23-bit candidates those below q. -/
def expandA (rho : List Byte) : List (List DsaPoly) :=
  (List.range dsaK).map fun r => (List.range dsaL).map fun c =>
    (((unpackBits 24 336 (shake128 1008 (rho ++ leBytes 1 c ++ leBytes 1 r))).map (· % 2 ^ 23)).filter (· < dsaQ)).take 256

/-- The nth secret polynomial of a seed: of its half bytes those below 9. -/
def secretPoly (seed : List Byte) (n : Nat) : DsaPoly :=
  ((unpackBits 4 1088 (shake256 544 (seed ++ leBytes 2 n))).filter (· < 9)).take 256 |>.map fun b => (dsaQ + 4 - b) % dsaQ

/-- The masking vector of a seed and a counter. -/
def maskVector (seed : List Byte) (kappa : Nat) : List DsaPoly :=
  (List.range dsaL).map fun r => unpackZ (shake256 640 (seed ++ leBytes 2 (kappa + r)))

/-- The challenge of a digest: 49 coefficients of 1 or −1, each put where the next byte not above i says. -/
def challenge (digest : List Byte) : DsaPoly :=
  let s := shake256 272 digest
  let signs := leNat (s.take 8)
  ((List.range dsaTau).foldl (fun (a : DsaPoly × List Byte) n =>
    let i := 256 - dsaTau + n
    let rest := a.2.dropWhile fun b => decide (i < b.toNat)
    let j := (rest.headD 0).toNat
    ((a.1.set i (a.1.getD j 0)).set j (if bit signs n then dsaQ - 1 else 1), rest.tail)) (dsaZero, s.drop 8)).1

/-! ### Keys -/

/-- A key pair in its parts. -/
structure DsaKey where
  rho : List Byte
  key : List Byte
  s1  : List DsaPoly
  s2  : List DsaPoly
  t   : List DsaPoly

/-- The public key: the seed of the matrix and the upper parts of t. -/
def DsaKey.public (x : DsaKey) : List Byte := x.rho ++ x.t.flatMap fun p => packBits 10 (p.map upper13)

/-- Key generation from a seed of 32 bytes. -/
def dsaKeys (seed : List Byte) : DsaKey :=
  let h := shake256 128 (seed ++ leBytes 1 dsaK ++ leBytes 1 dsaL)
  let secret := (h.drop 32).take 64
  let s1 := (List.range dsaL).map (secretPoly secret)
  let s2 := (List.range dsaK).map fun r => secretPoly secret (dsaL + r)
  let rows := dsaMatrix (expandA (h.take 32)) (s1.map toNtt)
  ⟨h.take 32, h.drop 96, s1, s2, List.zipWith (fun p e => dsaAdd (ofNtt p) e) rows s2⟩

/-- The public key of a seed. -/
def mldsaPublic (seed : List Byte) : List Byte := (dsaKeys seed).public

/-- What is signed for a message under a public key: the pure form with an empty context. -/
def messageDigest (pub m : List Byte) : List Byte := shake256 64 (shake256 64 pub ++ [0, 0] ++ m)

/-! ### Signing -/

/-- One try of the signing loop: the signature, unless it is rejected. -/
def signTry (x : DsaKey) (a : List (List DsaPoly)) (mu mask : List Byte) (kappa : Nat) : Option (List Byte) :=
  let y := maskVector mask kappa
  let w := (dsaMatrix a (y.map toNtt)).map ofNtt
  let digest := shake256 48 (mu ++ packHigh (w.map (·.map highPart)))
  let c := toNtt (challenge digest)
  let z := List.zipWith dsaAdd y (dsaTimes c (x.s1.map toNtt))
  let r := List.zipWith dsaSub w (dsaTimes c (x.s2.map toNtt))
  let ct0 := dsaTimes c (x.t.map fun p => toNtt (p.map lower13))
  let hint := List.zipWith (fun p e => List.zipWith (fun u v => if highPart u = highPart ((u + v) % dsaQ) then 0 else 1) p e) r ct0
  if dsaBelow (dsaG1 - dsaBeta) z && dsaBelow (dsaG2 - dsaBeta) (r.map (·.map lowPart)) && dsaBelow dsaG2 ct0
      && decide ((hint.map fun p => p.foldl (· + ·) 0).foldl (· + ·) 0 ≤ dsaOmega) then
    some (digest ++ z.flatMap packZ ++ packHint hint)
  else none

/-- The signing loop, for at most fuel tries. -/
def signLoop (x : DsaKey) (a : List (List DsaPoly)) (mu mask : List Byte) : Nat → Nat → List Byte
  | 0, _ => []
  | fuel + 1, kappa =>
    match signTry x a mu mask kappa with
    | some g => g
    | none => signLoop x a mu mask fuel (kappa + dsaL)

/-- The deterministic signature of a seed's private key over a message. FIPS 204 allows a bound of 814 tries, which none
reaches but with a negligible chance. -/
def mldsaSign (seed m : List Byte) : List Byte :=
  let x := dsaKeys seed
  let mu := messageDigest x.public m
  signLoop x (expandA x.rho) mu (shake256 64 (x.key ++ List.replicate 32 0 ++ mu)) 814 0

/-! ### Verification -/

/-- Whether a signature over a message verifies with a public key. -/
def mldsaVerify (pub m sig : List Byte) : Bool :=
  let digest := sig.take 48
  let z := (List.range dsaL).map fun r => unpackZ ((sig.drop (48 + 640 * r)).take 640)
  match unpackHint (sig.drop 3248) with
  | none => false
  | some hint =>
    if pub.length ≠ 1952 ∨ sig.length ≠ 3309 ∨ !dsaBelow (dsaG1 - dsaBeta) z then false
    else
      let t1 := (List.range dsaK).map fun r => (unpackBits 10 256 ((pub.drop (32 + 320 * r)).take 320)).map (· * 8192)
      let c := toNtt (challenge digest)
      let w := List.zipWith (fun p t => ofNtt (dsaSub p (dsaDot c (toNtt t)))) (dsaMatrix (expandA (pub.take 32)) (z.map toNtt)) t1
      digest == shake256 48 (messageDigest pub m ++ packHigh (List.zipWith (List.zipWith useHint) hint w))

end Sys2Proof.Machine
end

