-- ==== Sys2Proof/Machine/Identity.lean ====
section
/-! DEFINITION. The device's identity, its device data and the attestation bundle (R380, R384, R391, R396, R397,
R400). -/

namespace Sys2Proof.Machine

/-- The key digest of a public key (R380). -/
def keyDigest (key : List Byte) : List Byte := shake256 32 key

/-- The identity public key (R396). -/
def Sec.publicKey (x : Sec) : List Byte := (x.seed.map fun r => fit 1952 (mldsaPublic r)).getD []

/-- The identity digest (R396). -/
def Sec.identity (x : Sec) : List Byte := if x.seed.isSome then keyDigest x.publicKey else []

/-- The device-data key (R396). -/
def deviceDataKey (seed : List Byte) : List Byte := shake256 32 (seed ++ [1])

/-- A field of the device-data area: its length, then its bytes. -/
def ddField (l : List Byte) : List Byte := leBytes 4 l.length ++ l

/-- The contents of a copy as bytes, in the order of R381 (notes/assumptions/128.md). -/
def DeviceData.bytes (d : DeviceData) : List Byte :=
  ddField d.helper ++ ddField d.vendorKey ++ ddField d.cert ++ ddField (d.owner.getD []) ++ leBytes 4 d.ownerGen
    ++ ddField (d.pending.getD []) ++ leBytes 4 d.pendingGen ++ leBytes 2 d.svnFloor ++ leBytes 8 d.dbgCtr
    ++ (List.range 24).flatMap (fun c => leBytes 2 (get 340 d.targets c)) ++ leBytes 4 d.resetCount
    ++ leBytes 1 (if d.retired then 1 else 0)

/-- The tag of contents under a seed (R384). -/
def ddTag (seed : List Byte) (d : DeviceData) : List Byte := shake256 32 (deviceDataKey seed ++ d.bytes)

/-- Whether pages of module flash from a byte on are all good. -/
def Sec.pagesGood (x : Sec) (o n : Nat) : Bool :=
  x.badPages.all fun p => !decide (o / 4096 ≤ p ∧ p * 4096 < o + n)

/-- Whether the area of a device-data copy is good. -/
def Sec.copyGood (x : Sec) (second : Bool) : Bool := x.pagesGood (0x40000000 + (if second then 0x800000 else 0)) 0x800000

/-- Whether a copy can be read and its tag verifies; without a seed none does (R384, R396). -/
def Sec.verifies (x : Sec) (second : Bool) : Bool :=
  let c := if second then x.copy1 else x.copy0
  match x.seed with
  | none => false
  | some seed => x.copyGood second && c.tag == ddTag seed c.body

/-- The device-data copy with the higher sequence number among those whose tag verifies (R384). -/
def Sec.newer (x : Sec) : Option Bool :=
  match x.verifies false, x.verifies true with
  | false, false => none
  | true, false => some false
  | false, true => some true
  | true, true => some (decide (x.copy0.seq < x.copy1.seq))

/-- The copy in force: the one that level 0 found, or the one written since (R384). -/
def Sec.inForce (x : Sec) : Option Bool := x.area

/-- The contents of a copy. -/
def Sec.copyOf (x : Sec) : Option Bool → DeviceData
  | some false => x.copy0.body
  | some true => x.copy1.body
  | none => {}

/-- The contents of the device-data area as the device reads them. -/
def Sec.dd (x : Sec) : DeviceData := x.copyOf x.inForce

/-- Whether the device-data area can be written: a copy is in force, and the flash of the other one is good. -/
def Sec.canWriteDd (x : Sec) : Bool :=
  match x.inForce with
  | some second => x.copyGood !second
  | none => false

/-- Writes the device-data area: the other copy, with the next sequence number and its tag (R384). Where it cannot be
written nothing changes. -/
def Sec.writeDd (x : Sec) (d : DeviceData) : Sec :=
  let tag := ddTag (x.seed.getD []) d
  if !x.canWriteDd then x
  else match x.inForce with
    | some true => { x with copy0 := ⟨x.copy1.seq + 1, tag, d⟩, area := some false }
    | some false => { x with copy1 := ⟨x.copy0.seq + 1, tag, d⟩, area := some true }
    | none => x

/-- Changes the device-data area. -/
def State.modDd (s : State) (f : DeviceData → DeviceData) : State :=
  { s with sec := s.sec.writeDd (f s.sec.dd) }

/-- The vendor public key, when its digest is that of die ROM (R384). -/
def Sec.vendor (x : Sec) : Option (List Byte) :=
  if keyDigest x.dd.vendorKey = Config.vendorRoot then some x.dd.vendorKey else none

/-- Whether a certificate of 3,349 bytes verifies with a vendor key (R397). -/
def certVerifies (vendor cert : List Byte) : Bool := mldsaVerify vendor (cert.take 40) ((cert.drop 40).take 3309)

/-- The proof digest (R391). -/
def State.proofDigest (s : State) : List Byte :=
  shake256 64 (leBytes 4 (s.reg .mgProofHdr 0 0) ++ s.proof.flatten)

/-- Bytes 0–767 of the attestation bundle (R400). -/
def State.bundleBody (s : State) (nonce : List Byte) : List Byte :=
  let x := s.sec
  let configured := x.bank.isSome
  leBytes 2 1 ++ leBytes 1 (if x.debug then 1 else 0) ++ leBytes 1 s.level
    ++ leBytes 2 (if configured then s.ol.devId.toNat else 0) ++ leBytes 1 (x.bank.getD 0xFF) ++ leBytes 1 0
    ++ leBytes 8 (if configured then x.imgSeq else 0) ++ leBytes 2 (if configured then x.imgSvn else 0)
    ++ leBytes 2 x.dd.svnFloor ++ leBytes 4 s.rs.count ++ List.replicate 8 0
    ++ fit 32 nonce ++ fit 32 x.identity ++ fit 32 ((x.owner.map keyDigest).getD [])
    ++ fit 64 (if configured then x.imgDig else []) ++ s.proofDigest
    ++ (List.range 8).flatMap fun j => fit 64 (get [] x.meas j)

/-- The attestation bundle on a nonce, as SC_RPT bytes 0–9,471 hold it (R400). -/
def State.bundle (s : State) (nonce : List Byte) : List Byte :=
  let body := s.bundleBody nonce
  let sig := fit 3309 (mldsaSign (s.sec.seed.getD []) body)
  fit 9472 (fit 4096 (body ++ sig) ++ fit 1952 s.sec.publicKey ++ fit 3349 s.sec.dd.cert)

/-- Writes a bundle into SC_RPT. -/
def State.writeRpt (s : State) (b : List Byte) : State :=
  { s with sec := { s.sec with rpt := putBytes 0 s.sec.rpt 0 b } }

/-- Whether a bundle verifies to the vendor root on a nonce (R400). -/
def Sec.bundleVerifies (x : Sec) (b nonce : List Byte) : Bool :=
  let key := (b.drop 4096).take 1952
  let cert := (b.drop 6048).take 3349
  match x.vendor with
  | none => false
  | some v =>
    certVerifies v cert && keyDigest key == cert.take 32 && keyDigest key == (b.drop 64).take 32
      && mldsaVerify key (b.take 768) ((b.drop 768).take 3309) && (b.drop 32).take 32 == nonce

end Sys2Proof.Machine
end

