-- ==== Sys2Proof/Machine/Optical.lean ====
section
/-! DEFINITION. The optical ports, links and hub: bring-up and attestation (R348–R350), loss (R351, R352),
epochs (R353–R356), blocks and flits (R326–R332) and routing (R341–R347). -/

namespace Sys2Proof.Machine

/-! ### Events and widths -/

/-- Sets a bit of OL_EVSTAT; each bit that sets raises device event 2 (R359). -/
def State.olEvent (s : State) (f : Field) : State := (s.setFlag f true).deviceEvent 2

/-- An event of a port. -/
def State.olPortEvent (s : State) (p : Nat) (f : Field) : State := (s.setFld fOL_EVSTAT_PORT p).olEvent f

/-- Whether a port has block lock: its management lane runs (R348, R350). -/
def OPort.locked (x : OPort) : Bool := x.state == .attesting || x.state == .ready || x.state == .inService

/-- The first aligned group of w wavelengths that all work (R327): the wavelengths of the group. -/
def group (waves w : Nat) : Option (List Nat) :=
  if w = 0 then none
  else ((List.range (8 / w)).map fun i => span (w * i) w).find? fun g => g.all fun k => bit waves k

/-- The greatest width at most w with a group that works (R327). -/
def widthAtMost (waves w : Nat) : Option Nat := [8, 4, 2, 1].find? fun v => decide (v ≤ w) && (group waves v).isSome

/-! ### Taking ports out of service (R351) -/

/-- Empties a link that carries nothing: its sequence numbers start again. -/
def OLink.fresh (l : OLink) : OLink :=
  { l with txSeq := 0, rxNext := 0, retry := [], replay := [], nakDue := false, txq := [], rxBytes := [], used := []
           owed := [] }

/-- The management messages of a port that have not begun to leave are dropped with it; no flit sent is (R331). -/
def OLink.dropManagement (l : OLink) (p : Nat) : OLink :=
  { l with txq := upd [] l.txq 12 fun q => q.filter fun e => e.1.from_ != p || e.2.length != e.1.bytes.length }

/-- A port leaves service (R351): with its causes, and with AUTORETRAIN it trains again at once. -/
def State.portDown (s : State) (p down att : Nat) (retrain : Bool := false) : State :=
  let x := s.port p
  if x.state = .dark ∨ x.state = .unused ∨ x.state = .outOfService then s
  else
    let next : PortState := if retrain || s.flag fOL_CTRL_AUTORETRAIN then .training else .outOfService
    let s := s.setPort p { state := next, downCause := down, attCause := att }
    let s := s.modLink (p / 2) fun l =>
      let l := l.dropManagement p
      if l.state = .notInService ∧ !(s.port (p ^^^ 1)).locked then l.fresh else l
    s.olPortEvent p fOL_EVSTAT_PORTDOWN

/-- An attestation fails (R349). -/
def State.attFail (s : State) (p cause : Nat) : State := (s.portDown p 4 cause).olPortEvent p fOL_EVSTAT_ATTFAIL

/-- LEAVE_SERVICE (R351): the uncorrectable rate counts at width 1 only. -/
def State.leaveService (s : State) (p : Nat) (c : DownCause) : State :=
  match c with
  | .noBlock => s.portDown p 1 0
  | .uncorrectable => if (s.port p).width = 1 then s.portDown p 2 0 else s
  | .noGroup => s.portDown p 3 0
  | .attestation => if (s.port p).locked then s.attFail p (s.port p).attCause else s

/-- RETRAIN (R351): a port out of service trains again too. -/
def State.retrain (s : State) (p : Nat) : State :=
  let x := s.port p
  if x.state = .outOfService then s.setPort p { state := .training, downCause := 5 }
  else s.portDown p 5 0 true

/-- A change of the debug state takes every ready and in-service port out, and each trains again (R399). -/
def State.debugPorts (s : State) : State :=
  (List.range 16).foldl (fun t p =>
    let x := t.port p
    if x.state = .ready ∨ x.state = .inService then t.portDown p 4 5 true else t) s

/-! ### Wavelengths (R324, R327) -/

/-- Clears bits of a map of wavelengths. -/
def lessWaves (waves bad : Nat) : Nat := (List.range 8).foldl (fun w k => if bit bad k then setBits w k k 0 else w) waves

/-- The width that a port goes on to when wavelengths go bad (R324, R327): none where the group in use and the one
agreed on stand; else the next narrower width that has a group, at width 1 another wavelength, and 0 for no group. -/
def OPort.narrower (x : OPort) (bad : Nat) : Option Nat :=
  let hit (g : List Nat) : Bool := g.any fun k => bit bad k
  let waves := lessWaves x.waves bad
  match x.nextWidth with
  | none => if hit x.lanes then some ((widthAtMost waves (max 1 (x.width / 2))).getD 0) else none
  | some v => if hit ((group x.waves v).getD []) then some ((widthAtMost waves v).getD 0) else none

/-- Wavelengths of a port go bad: where the group needs it the receiver names a narrower width and a block boundary at
least 4 blocks ahead, or no group is left (R327, R351). Which boundary is free. -/
def State.narrow (s : State) (p bad : Nat) : State :=
  let x := s.port p
  if !x.locked then s
  else
    let y := { x with waves := lessWaves x.waves bad }
    match x.narrower bad with
    | none => s.setPort p y
    | some 0 => s.portDown p 3 0
    | some w =>
      { s with freeCount := s.freeCount + 1 }.setPort p
        { y with nextWidth := some w, boundary := (x.blockCount + 4 + Config.freeNat s.freeCount) % 0x10000 }

/-- A control flit names a width and a boundary (R327): a port never widens while in service. -/
def State.controlArrives (s : State) (p : Nat) (payload : List Byte) : State :=
  let x := s.port p
  match Config.controlNames payload with
  | none => s
  | some (w, b) =>
    if (w = 4 ∨ w = 2 ∨ w = 1) ∧ w < x.width ∧ (group x.waves w).isSome then s.setPort p { x with nextWidth := some w, boundary := b % 0x10000 }
    else s

/-- WIDTH_CHANGE (R327): the agreed block boundary has come: the port has sent every block before it. -/
def State.widthChange (s : State) (p : Nat) : State :=
  let x := s.port p
  match x.nextWidth with
  | none => s
  | some w =>
    if x.txBlock ≠ [] ∨ x.blockCount ≠ x.boundary then s
    else (s.setPort p { x with width := w, lanes := (group x.waves w).getD [], nextWidth := none }).olPortEvent p fOL_EVSTAT_NARROW

/-- LASER_FAILOVER (R324): the spare takes over; when the spare has failed too, every port narrows to a group
without the wavelength. -/
def State.laserFailover (s : State) (k : Nat) : State :=
  let o := s.ol
  if !bit o.workingFailed.toNat k then
    { s with ol := { o with workingFailed := BitVec.ofNat 8 (setBits o.workingFailed.toNat k k 1) } }
  else
    let s := { s with ol := { o with spareFailed := BitVec.ofNat 8 (setBits o.spareFailed.toNat k k 1) } }
    (List.range 16).foldl (fun t p => t.narrow p (2 ^ k)) s

/-! ### Epochs (R353–R356) -/

/-- Switches to the next epoch (R354). -/
def State.switchEpoch (s : State) : State :=
  let o := s.ol
  let s := { s with ol := { o with
    epoch := (o.epoch + 1) % 0x10000, prev := o.cur, cur := o.next, armed := false, draining := true
    drainAt := s.clock } }
  let s := (List.range 16).foldl (fun t p =>
    if (t.port p).state = .ready ∨ (t.port p).state = .inService then
      t.modPort p fun x => { x with
        state := .inService, awaiting := (x.state == .ready || x.awaiting) && x.noticeEpoch != some t.ol.epoch }
    else t) s
  let s := (List.range 8).foldl (fun t k =>
    if (t.link k).role = 0 then t
    else
      let up := (t.port (2 * k)).state == .inService || (t.port (2 * k + 1)).state == .inService
      t.modLink k fun l => { l with state := if up then .inService else .notInService }) s
  let s := s.buildTrees
  let s := (List.range 16).foldl (fun t p =>
    if (t.port p).state = .inService then t.portSay p 4 t.ol.epoch [] else t) s
  s.resendAll.olEvent fOL_EVSTAT_SWITCHED

/-- A write of OL_EPOCH: ARM, then GO (R353, R354). -/
def State.epochWrite (s : State) (v : Nat) : State :=
  let s := if bit v 1 then { s with ol := { s.ol with armed := true } } else s
  if bit v 0 ∧ s.ol.armed ∧ !s.ol.draining then s.switchEpoch else s

/-- EPOCH_NOTICE (R354): one for the current epoch opens a port that entered service with it, one for the next epoch
switches an armed device or is kept for the port, and any other changes no port. -/
def State.epochNotice (s : State) (p e : Nat) : State :=
  if !(s.port p).locked then s
  else
    let ahead := (e + 0x10000 - s.ol.epoch) % 0x10000
    let s := if ahead ≤ 1 then s.modPort p fun x => { x with noticeEpoch := some e, awaiting := x.awaiting && ahead != 0 } else s
    if ahead = 1 then
      if s.ol.armed then s.switchEpoch else s.olEvent fOL_EVSTAT_UNARMED
    else if 2 ≤ ahead ∧ ahead < 0x8000 then s.olEvent fOL_EVSTAT_EPOCHSKIP
    else s

/-- A device at epoch 0 adopts the epoch that its first attested peer reports (R356). -/
def State.adoptEpoch (s : State) (p : Nat) : State :=
  let x := s.port p
  match x.repEpoch with
  | none => s
  | some e =>
    if !x.accepted ∨ s.ol.adopted then s
    else { s with ol := { s.ol with adopted := true, epoch := if s.ol.epoch = 0 then e else s.ol.epoch } }

/-- EPOCH_REPORT (R356). -/
def State.epochReport (s : State) (p e : Nat) : State :=
  if (s.port p).locked then (s.modPort p fun x => { x with repEpoch := some e }).adoptEpoch p else s

/-- ROUTE_TABLE_WRITE (R353): OL_RT changes the next table unless RTSEL shows the current one. -/
def State.routeWrite (s : State) (v : Nat) : State :=
  if s.flag fOL_RTSEL_CUR then s
  else { s with ol := { s.ol with
    armed := false, next := put 0 s.ol.next (s.fld fOL_RTSEL_DEV) (BitVec.ofNat 8 v) } }

/-- DRAIN_END (R355): the previous table is dropped, DRAINUS µs after the switch. -/
def State.drainEnd (s : State) : State :=
  if s.ol.draining ∧ s.ol.drainAt + s.fld fOL_TIMERS_DRAINUS ≤ s.clock then { s with ol := { s.ol with draining := false, prev := [] } } else s

/-! ### Attestation (R349) -/

/-- Answers a nonce of the peer: the bundle of SC_RPT in 74 parts. -/
def State.answerNonce (s : State) (p : Nat) (nonce : List Byte) : State :=
  let b := s.bundle nonce
  (chunks 128 74 b).foldl (fun t d => t.portSay p 2 0 d) (s.writeRpt b)

/-- Attestation begins at an end at block lock and level 1: its own nonce goes out, and a kept one is
answered. The device holds no random source and no rule gives the nonce: its bytes are free. -/
def State.startAttest (s : State) (p : Nat) : State :=
  let x := s.port p
  if s.level < 1 ∨ x.state ≠ .attesting ∨ x.ownNonce.isSome then s
  else
    let (nonce, s) := s.drawBytes 32
    let s := s.setPort p { x with ownNonce := some nonce, peerNonce := none, attAt := s.clock }
    let s := s.portSay p 1 0 nonce
    match x.peerNonce with
    | none => s
    | some n => s.answerNonce p n

/-- NONCE (R349). -/
def State.nonceArrives (s : State) (p : Nat) (nonce : List Byte) : State :=
  if !(s.port p).locked then s
  else if 1 ≤ s.level then s.answerNonce p nonce
  else s.modPort p fun x => { x with peerNonce := some nonce }

/-- The tests that an end makes of its peer (R349): the attestation cause, 0 when it accepts. The bundle has no
place for the link that a peer reports, so whether it is the opposite link is a free choice. -/
def State.attCause (s : State) (p : Nat) (b : List Byte) : Nat × State :=
  let k := p / 2
  let own := s.sec
  let ident := (b.drop 64).take 32
  let torus := (s.link k).role = 1
  let expected : Option (List Byte) :=
    if torus then
      (s.ol.domain.devices.find? fun d => d.coord == torusNeighbour s.ol.domain.sizes s.ol.coord k).map (·.digest)
    else (s.ol.domain.bridges.find? fun d => d.dev == s.ol.devId.toNat && d.link == k).map (·.digest)
  let other := s.port (p ^^^ 1)
  let (opposite, s') : Bool × State :=
    if torus then (Config.freeBool s.freeCount, { s with freeCount := s.freeCount + 1 }) else (true, s)
  if !own.bundleVerifies b (((s.port p).ownNonce).getD []) then (1, s)
  else if expected ≠ some ident then (2, s)
  else if torus ∧ (b.drop 128).take 64 ≠ fit 64 own.imgDig then (3, s)
  else if !torus ∧ (b.drop 96).take 32 ≠ fit 32 ((own.owner.map keyDigest).getD []) then (4, s)
  else if (b.getD 2 0).toNat ≠ (if own.debug then 1 else 0) then (5, s)
  else if other.accepted ∧ other.peerDigest ≠ ident then (6, s)
  else (if opposite then 0 else 6, s')

/-- REPORT_PART (R349): with the last part the end decides, tells its verdict and reports its epoch. -/
def State.reportPart (s : State) (p part : Nat) (data : List Byte) : State :=
  let x := s.port p
  if x.state ≠ .attesting ∨ x.ownNonce.isNone ∨ x.accepted then s
  else
    let x := { x with report := put [] x.report part (fit 128 data) }
    let s := s.setPort p x
    if x.report.length < 74 then s
    else
      let b := (List.range 74).flatMap fun i => get [] x.report i
      let (cause, s) := s.attCause p b
      if cause ≠ 0 then (s.portSay p 3 0 [0]).attFail p cause
      else
        let s := s.setPort p { x with accepted := true, peerDigest := (b.drop 64).take 32 }
        ((s.portSay p 3 0 [1]).portSay p 5 s.ol.epoch []).adoptEpoch p

/-- VERDICT (R349). -/
def State.verdict (s : State) (p : Nat) (ok : Bool) : State :=
  if (s.port p).state ≠ .attesting then s
  else if ok then s.modPort p fun x => { x with peerAccepted := true }
  else s.attFail p 0

/-- NOT_READY (R349): the limit starts again. -/
def State.notReady (s : State) (p : Nat) : State :=
  if (s.port p).state = .attesting then s.modPort p fun x => { x with attAt := s.clock } else s

/-- NOT_READY_NOTICE (R349). -/
def State.notReadyNotice (s : State) (p : Nat) : State :=
  if s.level = 0 ∧ (s.port p).locked ∧ (s.port p).peerNonce.isSome then s.portSay p 6 0 [] else s

/-- ATTESTATION_TIMEOUT (R349): 40 ms have passed since the own nonce or the peer's latest not-ready notice. -/
def State.attestationTimeout (s : State) (p : Nat) : State :=
  let x := s.port p
  if x.state = .attesting ∧ x.ownNonce.isSome ∧ !x.accepted ∧ x.attAt + 40000 ≤ s.clock then s.attFail p 7 else s

/-- Whether the ports may light and lock: powered, out of logic reset, not retired (R436) and not in standby (R437). -/
def State.portsLit (s : State) : Bool := s.pw.railsOn && !s.pw.mrst && !s.rs.retired && !s.rs.standby

/-- PORT_TRAINING (R348, R436, R440): a stage of bring-up completes. After a warm reset a port re-locks at its
kept width. -/
def State.portTraining (s : State) (p : Nat) (st : TrainStage) : State :=
  let x := s.port p
  match st with
  | .light => if x.state = .dark ∧ s.portsLit then s.setPort p { x with state := .training } else s
  | .lock =>
    if x.state ≠ .training ∨ !s.portsLit then s
    else
      let dead := s.ol.workingFailed.toNat &&& s.ol.spareFailed.toNat
      let waves := lessWaves (if x.final then x.waves else 3) dead
      match widthAtMost waves (if x.final then x.width else 2) with
      | none => s.portDown p 3 0
      | some w =>
        ((s.setPort p { x with state := .attesting, waves := waves, width := w, lanes := (group waves w).getD [] }).portSay
          p 0 0 []).startAttest p
  | .attest =>
    if x.state = .attesting ∧ x.accepted ∧ x.peerAccepted then
      (s.setPort p { x with state := .ready }).olPortEvent p fOL_EVSTAT_PORTREADY
    else s
  | .width w =>
    let dead := s.ol.workingFailed.toNat &&& s.ol.spareFailed.toNat
    let waves := lessWaves w.toNat dead
    if x.state = .ready then
      match widthAtMost waves 8 with
      | none => s.portDown p 3 0
      | some v => s.setPort p { x with waves := waves, width := v, lanes := (group waves v).getD [], final := true }
    else if x.state = .inService then s.setPort p { x with final := true }
    else s

/-- A heartbeat of a peer (R348): it shows that the peer's management lane runs and changes nothing here. -/
def State.heartbeat (s : State) (_port : Nat) : State := s

/-! ### The hub (R341–R347) -/

/-- The table that a transaction's parity selects (R345, R355). -/
def State.hubTable (s : State) (m : Msg) : Option (SMap Byte) :=
  if m.ep = (s.ol.epoch % 2 == 1) then some s.ol.cur else if s.ol.draining then some s.ol.prev else none

/-- A refusal by the hub or by a home, with a route reason (R336). Its source is the device that the
transaction named. -/
def State.routeRefuse (s : State) (m : Msg) (reason : Nat) : State :=
  s.sendResp { kind := .refusal, ddev := m.sdev, sdev := m.ddev, req := m.req, chan := m.chan, tag := m.tag
               route := reason, addr := m.addr, src := unitHub }

/-- A transaction that does not go on (R345): writes and read requests are refused, the rest discarded. -/
def State.hubDrop (s : State) (m : Msg) (reason : Nat) (f : Field) : State :=
  let s := s.count f
  if m.kind = .write ∨ m.kind = .readReq then s.routeRefuse m reason else s

/-- A transaction that is for this device (R341): onto plane V, to the context engine, or refused where its
target is no scratchpad (R133). -/
def State.hubDeliver (s : State) (m : Msg) : State :=
  let d := { m with ddev := s.ol.devId, vc := 0, src := unitHub, hop := 0 }
  match m.kind with
  | .write | .readReq =>
    match targetOf m.addr with
    | .scratchpad _ _ => s.sendV d
    | _ => s.routeRefuse m 5
  | .mapPart => s.slotMapPart m.sdev m.stepNo m.part m.data
  | .mapCredit => s.mapCredit m.sdev m.stepNo
  | _ => { s with vResp := s.vResp ++ [d] }

/-- The virtual channel of a hop over link k (R343). A bridge sets XB. -/
def State.hopOver (s : State) (m : Msg) (k : Nat) : Msg :=
  if (s.link k).role = 2 then { m with xb := true, vc := 2 }
  else
    let d := k / 2
    let n := s.ol.domain.sizes.getD d 1
    let c := coordOf s.ol.coord d
    let wrap := if k % 2 = 0 then c + 1 == n else c == 0
    let before := decide (m.from_ < 8) && m.from_ / 2 == d && m.vc % 2 == 1
    { m with vc := (if m.xb then 2 else 0) + (if wrap || before then 1 else 0) }

/-- Whether a slot-map part for this device waits in its link: one of a later step than the map that is held whole (R210,
R212). -/
def State.partWaits (s : State) (m : Msg) : Bool :=
  m.kind == .mapPart && s.follower && s.cx.heldMap.any fun h => decide (h.1 < m.stepNo)

/-- HUB_LOOKUP (R345): transaction i of the hub is routed, delivered, refused or discarded. Those of one lane and
channel from one link stay in order. -/
def State.hubLookup (s : State) (i : Nat) : State :=
  match s.ol.hub[i]? with
  | none => s
  | some m =>
    if (s.ol.hub.take i).any fun e => e.from_ == m.from_ && e.kind.lane == m.kind.lane && e.vc == m.vc then s
    else
      let t := { s with ol := { s.ol with hub := dropAt s.ol.hub i } }
      if m.kind = .void then t.count fOL_DROPS_NOROUTE
      else match s.hubTable m with
        | none => t.hubDrop m 3 fOL_DROPS_STALE
        | some tab =>
          let e := (get 0 tab m.ddev.toNat).toNat
          let k := bits e 2 0
          if !s.entryValid e then t.hubDrop m 1 fOL_DROPS_NOROUTE
          else if bit e 6 then if s.partWaits m then s else t.hubDeliver m
          else if (s.link k).state = .lost then t.hubDrop m 2 fOL_DROPS_LOSTLINK
          else if m.kind = .readReq ∧ bit e 5 then t.hubDrop m 4 fOL_DROPS_XBREAD
          else
            let m := s.hopOver m k
            t.linkPush k (channelKey m.kind.lane m.vc) m

/-! ### Losing a link (R352) -/

/-- LINK_LOST (R352): the transactions of the link's queues and retry buffer are dropped as for a lost link, and
every barrier loses the neighbour (R301). -/
def State.linkLost (s : State) (k : Nat) : State :=
  let l := s.link k
  if l.state ≠ .inService ∨ (s.port (2 * k)).state = .inService ∨ (s.port (2 * k + 1)).state = .inService then s
  else
    let gone := ((l.retry.flatMap (·.ends)) ++ l.txq.flatMap fun e => e.2.map (·.1)).filter fun m => decide (m.kind.lane < 2)
    let s := s.setLink k { l.fresh with state := .lost }
    let s := gone.foldl (fun t m => t.hubDrop m 2 fOL_DROPS_LOSTLINK) s
    let s := s.barriersLose k
    (s.setFld fOL_EVSTAT_LINK k).olEvent fOL_EVSTAT_LINKLOST

/-! ### Sending flits (R328, R330–R332) -/

/-- Whether a port may carry a channel of its link now (R350, R354). -/
def State.carries (s : State) (p key : Nat) : Bool :=
  let x := s.port p
  let l := s.link (p / 2)
  if keyLane key = 3 then x.locked
  else x.state == .inService && !x.awaiting && l.state == .inService
    && (keyLane key != 2 || l.role == 1)

/-- Whether the transactions in front of a channel may leave on a port: a management message leaves on the port that it
is for, and on either once that port's management lane has gone (notes/assumptions/122.md). -/
def State.leavesOn (s : State) (p key : Nat) : Bool :=
  match get [] (s.link (p / 2)).txq key with
  | [] => false
  | (m, _) :: _ => keyLane key != 3 || m.from_ == p || !(s.port m.from_).locked

/-- The channel whose flit a port sends next: the lanes in order, and within a lane the channels in turn, each
with a transaction that waits and with credit (R332). -/
def State.nextChannel (s : State) (p : Nat) : Option Nat :=
  let l := s.link (p / 2)
  let turns (lane : Nat) : List Nat := (List.range 4).map fun i => lane * 4 + (get 0 l.turn lane + 1 + i) % 4
  ([12, 8] ++ turns 1 ++ turns 0).find? fun key =>
    s.carries p key && s.leavesOn p key && decide (get 0 l.used key < channelBuffer key)

/-- Fills a payload: the bytes, the transactions that end in it, and what still waits. -/
def fillFlit : Nat → List (Msg × List Byte) → List Byte × List Msg × List (Msg × List Byte)
  | _, [] => ([], [], [])
  | room, (m, bs) :: r =>
    if room < bs.length then (bs.take room, [], (m, bs.drop room) :: r)
    else
      let (d, ends, rest) := fillFlit (room - bs.length) r
      (bs ++ d, m :: ends, rest)

/-- The transactions of a channel that one flit may hold, and those behind them: a management flit holds messages of
one port. -/
def flitQueue (key : Nat) (q : List (Msg × List Byte)) : List (Msg × List Byte) × List (Msg × List Byte) :=
  match q with
  | [] => ([], [])
  | (m, _) :: _ => if keyLane key = 3 then q.span fun e => e.1.from_ == m.from_ else (q, [])

/-- The acknowledgement and the credits that the next flit of a port returns. -/
def State.flitHead (s : State) (p : Nat) : FlitHead × State :=
  let k := p / 2
  let l := s.link k
  let h : FlitHead := { kind := 1, nak := l.nakDue, ackV := true, ackSeq := (l.rxNext + 4095) % 4096 }
  let l := { l with nakDue := false }
  match l.owed with
  | [] => (h, s.setLink k l)
  | (key, n) :: _ =>
    let c := min n 511
    ({ h with crLane := keyLane key, crVc := keyVc key, crCnt := c },
     s.setLink k { l with owed := put 0 l.owed key (n - c) })

/-- A flit enters the block that a port is sending; the twentieth closes it (R326, R327). At an agreed boundary the width
changes before the block begins. -/
def State.emitFlit (s : State) (p : Nat) (bs : List Byte) : State :=
  let s := s.widthChange p
  let x := s.port p
  let s := s.emit (.flit p bs)
  let flits := x.txBlock ++ [bs]
  if flits.length < 20 then s.setPort p { x with txBlock := flits }
  else
    (s.setPort p { x with txBlock := [], blockCount := (x.blockCount + 1) % 0x10000 }).emit
      (.block p (blockWaves x.lanes (blockWords x.width x.blockCount flits)))

/-- Sends a data flit that is in the retry buffer. -/
def State.sendData (s : State) (p : Nat) (f : Flit) : State :=
  let (h, s) := s.flitHead p
  let h : FlitHead :=
    { h with kind := 0, lane := keyLane f.key, vc := keyVc f.key, used := f.payload.length, seq := f.seq }
  s.emitFlit p (h.bytes f.payload)

/-- FLIT_SEND (R331, R332). New data waits while flits are to be sent again, and while 2,048 are not
acknowledged. A control flit names the width and the boundary that this end has agreed on (R327); without one its
payload is free. -/
def State.flitSend (s : State) (p : Nat) (c : FlitChoice) : State :=
  let k := p / 2
  let l := s.link k
  if !(s.port p).locked then s
  else match c with
    | .idle => let (h, s) := s.flitHead p; s.emitFlit p (h.bytes [])
    | .control =>
      let (h, s) := s.flitHead p
      let (d, s) :=
        match (s.port p).nextWidth with
        | some w => (Config.controlPayload w (s.port p).boundary, s)
        | none => s.drawBytes 244
      s.emitFlit p ({ h with kind := 2 }.bytes (d.take 244))
    | .replay =>
      match l.replay with
      | [] => s
      | f :: r =>
        if s.carries p f.key then (s.setLink k { l with replay := r }).sendData p f else s
    | .data lane vc =>
      let key := channelKey lane vc
      if l.replay ≠ [] ∨ 2048 ≤ l.retry.length ∨ s.nextChannel p ≠ some key then s
      else
        let (mine, others) := flitQueue key (get [] l.txq key)
        let (d, ends, rest) := fillFlit 244 mine
        let f : Flit := ⟨l.txSeq, key, d, ends⟩
        let s := s.setLink k { l with
          txq := put [] l.txq key (rest ++ others), txSeq := (l.txSeq + 1) % 4096, retry := l.retry ++ [f]
          used := put 0 l.used key (get 0 l.used key + 1), turn := put 0 l.turn lane (key % 4) }
        s.sendData p f

/-! ### Receiving flits (R328–R332) -/

/-- A management transaction reaches a port (R334). -/
def State.manage (s : State) (p : Nat) (m : Msg) : State :=
  match m.part with
  | 0 => s.heartbeat p
  | 1 => s.nonceArrives p m.data
  | 2 => s.reportPart p (s.port p).report.length m.data
  | 3 => s.verdict p (m.data == [1])
  | 4 => s.epochNotice p m.stepNo
  | 5 => s.epochReport p m.stepNo
  | 6 => s.notReady p
  | _ => s

/-- A transaction comes off a link: barriers and management act at once, the rest enters the hub. -/
def State.linkDeliver (s : State) (p vc : Nat) (m : Msg) : State :=
  let k := p / 2
  match m.kind with
  | .barArrival => s.childArrival k m.stepNo m.lost
  | .barRelease => if (s.bar m.stepNo).parent = some k then s.parentRelease m.stepNo m.lost else s
  | .management => s.manage p m
  | _ => { s with ol := { s.ol with hub := s.ol.hub ++ [{ m with from_ := k, vc := vc }] } }

/-- The acknowledgement and the credits of a received flit (R330, R332). -/
def OLink.acked (l : OLink) (h : FlitHead) : OLink :=
  let key := channelKey h.crLane h.crVc
  let l := { l with used := put 0 l.used key (get 0 l.used key - h.crCnt) }
  if !h.ackV then l
  else
    let retry :=
      match l.retry.findIdx? (·.seq == h.ackSeq) with
      | none => l.retry
      | some i => l.retry.drop (i + 1)
    { l with retry := retry, replay := if h.nak then retry else l.replay.filter retry.contains }

/-- A flit that arrived whole takes effect (R330, R327): its acknowledgement and credits, a control flit's names, a data
flit that has come before, or one whose payload is delivered in order. -/
def State.flitArrives (s : State) (p : Nat) (bs : List Byte) : State :=
  let k := p / 2
  let h := FlitHead.of bs
  let s := s.modLink k fun l => l.acked h
  let l := s.link k
  let behind := (l.rxNext + 4096 - h.seq) % 4096
  let payload := (bs.drop 8).take (min h.used 244)
  if h.kind = 2 then s.controlArrives p ((bs.drop 8).take 244)
  else if h.kind ≠ 0 ∨ (1 ≤ behind ∧ behind ≤ 2048) then s
  else if behind ≠ 0 ∨ (h.lane ≠ 3 ∧ (s.port p).state ≠ .inService) then s.setLink k { l with nakDue := true }
  else
    let key := channelKey h.lane h.vc
    let stream := get [] l.rxBytes key ++ payload
    let (ms, rest) := cutTransactions (stream.length / 16) stream
    let s := s.setLink k { l with
      rxNext := (l.rxNext + 1) % 4096, rxBytes := put [] l.rxBytes key rest
      owed := put 0 l.owed key (get 0 l.owed key + 1) }
    ms.foldl (fun t m => t.linkDeliver p h.vc m) s

/-- FLIT_RECEIVE (R326, R329): flit i of a received block. It counts the codewords that the decoder corrected and those
that it could not, and a flit that is not whole is discarded. -/
def State.flitReceive (s : State) (p : Nat) (words : List (List Nat)) (i : Nat) : State :=
  if !(s.port p).locked then s
  else
    let f := blockFlit words i
    let s := (s.count fOL_PORT_ERR_CORR p 0 f.corrected).count fOL_PORT_ERR_UNCORR p 0 f.bad
    match f.bytes with
    | none => s.modLink (p / 2) fun l => { l with nakDue := true }
    | some bs => if flitGood bs then s.flitArrives p bs else s.modLink (p / 2) fun l => { l with nakDue := true }

/-! ### The commands of the table -/

def execFlitSend (port : PortId) (what : FlitChoice) (s : State) : Host.Outcome State Fault Refusal :=
  .next (s.flitSend port what)
def execFlitReceive (port : PortId) (words : List (List Nat)) (index : Fin 20) (s : State) :
    Host.Outcome State Fault Refusal := .next (s.flitReceive port words index)
def execLaserFailover (wave : Fin 8) (s : State) : Host.Outcome State Fault Refusal := .next (s.laserFailover wave)
def execNarrow (port : PortId) (bad : BitVec 8) (s : State) : Host.Outcome State Fault Refusal :=
  .next (s.narrow port bad.toNat)
def execWidthChange (port : PortId) (s : State) : Host.Outcome State Fault Refusal := .next (s.widthChange port)
def execLeaveService (port : PortId) (cause : DownCause) (s : State) : Host.Outcome State Fault Refusal :=
  .next (s.leaveService port cause)
def execRetrain (rq : Requester) (port : PortId) (s : State) : Host.Outcome State Fault Refusal :=
  .next (s.regCommand rq 8 (0x200 + 0x20 * port.val) 1 fun t => t.retrain port)
def execPortTraining (port : PortId) (stage : TrainStage) (s : State) : Host.Outcome State Fault Refusal :=
  .next (s.portTraining port stage)
def execLinkLost (link : LinkId) (s : State) : Host.Outcome State Fault Refusal := .next (s.linkLost link)
def execHubLookup (index : Nat) (s : State) : Host.Outcome State Fault Refusal := .next (s.hubLookup index)
def execHeartbeat (port : PortId) (s : State) : Host.Outcome State Fault Refusal := .next (s.heartbeat port)
def execNonce (port : PortId) (value : List Byte) (s : State) : Host.Outcome State Fault Refusal :=
  .next (s.nonceArrives port value)
def execReportPart (port : PortId) (part : Fin 74) (data : List Byte) (s : State) :
    Host.Outcome State Fault Refusal := .next (s.reportPart port part data)
def execVerdict (port : PortId) (accepted : Bool) (s : State) : Host.Outcome State Fault Refusal :=
  .next (s.verdict port accepted)
def execNotReady (port : PortId) (s : State) : Host.Outcome State Fault Refusal := .next (s.notReady port)
def execNotReadyNotice (port : PortId) (s : State) : Host.Outcome State Fault Refusal :=
  .next (s.notReadyNotice port)
def execAttestationTimeout (port : PortId) (s : State) : Host.Outcome State Fault Refusal :=
  .next (s.attestationTimeout port)
def execEpochReport (port : PortId) (epoch : BitVec 16) (s : State) : Host.Outcome State Fault Refusal :=
  .next (s.epochReport port epoch.toNat)
def execEpochNotice (port : PortId) (epoch : BitVec 16) (s : State) : Host.Outcome State Fault Refusal :=
  .next (s.epochNotice port epoch.toNat)
def execArm (rq : Requester) (s : State) : Host.Outcome State Fault Refusal :=
  .next (s.regCommand rq 8 8 2 fun t => t.epochWrite 2)
def execGo (rq : Requester) (s : State) : Host.Outcome State Fault Refusal :=
  .next (s.regCommand rq 8 8 1 fun t => t.epochWrite 1)
def execRouteTableWrite (rq : Requester) (value : BitVec 32) (s : State) : Host.Outcome State Fault Refusal :=
  .next (s.regCommand rq 8 0x24 value.toNat fun t => t.routeWrite value.toNat)
def execDrainEnd (s : State) : Host.Outcome State Fault Refusal := .next s.drainEnd

end Sys2Proof.Machine
end

