-- ==== Sys2Proof/Machine/Pcie.lean ====
section
/-! DEFINITION. The PCI Express ports (R360–R379): configuration requests, host memory requests, host windows,
and losing and resetting a port. The registers of BAR0 are in Machine/Bar0.lean, errors in Machine/Aer.lean. -/

namespace Sys2Proof.Machine

/-! ### What a reset of a port, an FLR and a lost link do (R375, R376) -/

/-- Requests not yet accepted are never sent (R376): those a test picks by its function. -/
def State.refuseInbox (s : State) (p : Nat) (pick : Nat → Bool) : State :=
  let x := s.pxOf p
  let func (m : Msg) : Nat := s.fld fPX_HW_CTL_FUNC p (m.addr % 0x80000000000 / 0x8000000000)
  let gone := x.inbox.filter fun m => pick (func m)
  gone.foldl (fun t m => t.hostFails p m)
    (s.setPx p { x with inbox := x.inbox.filter fun m => !pick (func m) })

/-- Writes accepted but not sent are dropped, counted in DROPW, and vectors with them (R371, R376). -/
def State.dropWrites (s : State) (p : Nat) (pick : Nat → Bool) : State :=
  let x := s.pxOf p
  let gone := x.tx.filter fun r => pick r.func && r.vec.isNone
  (s.count fPX_ERR_DROPW p 0 gone.length).setPx p { x with tx := x.tx.filter fun r => !pick r.func }

/-- The link of a port is down: what has not left never leaves. -/
def State.linkDown (s : State) (p : Nat) : State :=
  let s := (s.dropWrites p fun _ => true)
  let s := s.modPx p fun x => { x with linkUp := false, speed := 0, width := 0 }
  s.refuseInbox p fun _ => true

/-- The host requests of the functions that a test picks, after a reset of theirs: accepted ones complete at their homes
and their completions are discarded (R376); the home of one to configuration space is reset with it. -/
def PxPort.resetWaits (x : PxPort) (pick : Nat → Bool) : List HostWait :=
  (x.waiting.filter fun w => !(pick w.func && w.op.isConfig)).map fun w => { w with mute := w.mute || pick w.func }

/-- PERST_N, a hot reset or link disable (R376): the link, the controller and the configuration space. Host requests
that have been accepted complete at their homes, and their completions are discarded. -/
def State.portReset (s : State) (p : Nat) : State :=
  let s := s.linkDown p
  let s := s.modPx p fun x => { x with
    numVfs := 0, vfEnable := false, vfBars := [], vfBar4sz := 16, fns := [], msix := [], pba := []
    waiting := x.resetWaits fun _ => true }
  (s.setFld fPX_PCTL_EVVEC 0 p).setFld fPX_PCTL_EVEN 0 p

/-- Drops the requests that carry a function's routing ID, as a reset of the port does (R376). -/
def State.dropFunction (s : State) (p f : Nat) : State := (s.dropWrites p (· == f)).refuseInbox p (· == f)

/-- FLR, and clearing Bus Master Enable (R376): the function's requests and its configuration space; SR-IOV stands in
that of the PF. -/
def State.flr (s : State) (p f : Nat) : State :=
  if !s.fnPresent p f then s
  else
    let s := s.dropFunction p f
    s.modPx p fun x => { x with
      fns := put {} x.fns f {}, msix := x.msix.filter fun e => e.1 / 8192 != f
      pba := x.pba.filter fun e => e.1 / 2048 != f
      numVfs := if f = 0 then 0 else x.numVfs, vfEnable := f != 0 && x.vfEnable
      vfBars := if f = 0 then [] else x.vfBars, vfBar4sz := if f = 0 then 16 else x.vfBar4sz
      waiting := x.resetWaits (· == f) }

/-- The port stops being lost (R375). -/
def State.found (s : State) (p : Nat) (beat : Bool) : State :=
  if (s.pxOf p).linkUp ∧ (beat ∨ !s.flag fPX_PCTL_HBEN p) then s.modPx p fun x => { x with lost := false } else s

/-- LINK_UP (R376, R377): the link is up, or has reached a speed and a width. -/
def State.linkComesUp (s : State) (p speed width : Nat) : State :=
  if (s.pxOf p).perst ∨ !s.pw.railsOn ∨ s.pw.mrst ∨ speed = 0 ∨ !([1, 2, 4, 8, 16].contains width) then s
  else (s.modPx p fun x => { x with linkUp := true, speed := speed, width := width }).found p false

/-- PORT_LOST (R375): the link is down, or with HBEN set no heartbeat has come, for PX_HLOST.MS. -/
def State.portLost (s : State) (p : Nat) : State :=
  let x := s.pxOf p
  if x.lost ∨ (x.linkUp ∧ !s.flag fPX_PCTL_HBEN p) then s
  else ((s.setPx p { x with lost := true }).deviceEvent (3 + p)).hostEvent (1 - p) fPX_HEVT_OTHERLOST

/-! ### Completions of device reads (R371) -/

/-- A device read fails: it counts in HOSTERR, and its requester is told. -/
def State.readFails (s : State) (p : Nat) (r : HostRead) : State :=
  let s := s.modPx p fun x => { x with reads := x.reads.erase r }
  (s.count fPX_ERR_HOSTERR p).hostFails p r.msg

/-- HOST_COMPLETION: data of an outstanding read, which completes with its last completion, or an error; one of no
outstanding read is unexpected (R379). -/
def State.hostCompletion (s : State) (p tag : Nat) (st : CompletionStatus) (data : List Byte) : State :=
  let x := s.pxOf p
  match x.reads.find? (·.tag == tag) with
  | none => if x.linkUp then s.aerError p 0 5 true else s
  | some r =>
    let next (t : State) : State := t.issueReads p (t.pxOf p).inbox.length
    match st with
    | .success =>
      let got := r.got ++ data
      if got.length < r.msg.len then
        s.setPx p { x with reads := x.reads.map fun q => if q.tag = tag then { q with got := got } else q }
      else
        let s := s.setPx p { x with reads := x.reads.erase r }
        next (if r.msg.chan < 2 then s.respond (unitHost p) r.msg (got.take r.msg.len)
              else s.endHostLoad r.msg.req (some (got.take r.msg.len)))
    | .poisoned => next ((s.readFails p r).aerError p r.func 2 true)
    | _ => next (s.readFails p r)

/-- COMPLETION_TIMEOUT: unless the function's Completion Timeout is disabled. -/
def State.completionTimeout (s : State) (p tag : Nat) : State :=
  match (s.pxOf p).reads.find? (·.tag == tag) with
  | none => s
  | some r =>
    if bit (s.fnCfg p r.func).cto 4 then s
    else
      let t := (s.readFails p r).aerError p r.func 4
      t.issueReads p (t.pxOf p).inbox.length

/-- HOST_WINDOW_WRITE (R370, R371): the oldest write that waits at a port is accepted, or fails at its window. -/
def State.hostWindowWrite (s : State) (p : Nat) : State :=
  match (s.pxOf p).inbox with
  | [] => s
  | m :: rest =>
    if m.kind ≠ .write then s
    else
      let s := s.modPx p fun x => { x with inbox := rest }
      let s := match s.hostAccept m.addr m.data with
        | none => s.hostFails p m
        | some t => t.ack (unitHost p) m
      s.issueReads p (s.pxOf p).inbox.length

/-! ### Configuration requests (R360–R362, R366, R376) -/

/-- The address bits of BAR k, 0 for BAR0, 1 for BAR2 and 2 for BAR4: those above its size (R362). -/
def barMask (code k : Nat) : Nat := 2 ^ 64 - 2 ^ (if k = 0 then 24 else if k = 1 then 26 else 20 + code)

/-- A DW of the BARs: all are 64-bit, and BAR4 is prefetchable (R362). -/
def barDw (bars : SMap Nat) (code dw : Nat) : Nat :=
  let a := get 0 bars (dw / 2) &&& barMask code (dw / 2)
  if dw % 2 = 1 then a / 2 ^ 32 else a % 2 ^ 32 + (if dw / 2 = 2 then 0xC else 4)

/-- Writes a DW of the BARs. -/
def setBarDw (bars : SMap Nat) (code dw v : Nat) : SMap Nat :=
  let a := get 0 bars (dw / 2)
  let a := if dw % 2 = 1 then setBits a 63 32 v else setBits a 31 0 v
  put 0 bars (dw / 2) (a &&& barMask code (dw / 2))

/-- The value of a field of a function's configuration space. The BARs of a VF are those of the PF's SR-IOV capability,
and its own read 0. -/
def State.configRead (s : State) (p f : Nat) (q : ConfigField) : Nat :=
  let x := s.pxOf p
  let c := s.fnCfg p f
  let pf (n : Nat) : Nat := if f = 0 then n else 0
  match q with
  | .vendorId => Config.vendorId % 0x10000
  | .deviceId => if f = 0 then 0x9600 else 0x9601
  | .classCode => 0x120000
  | .revision => 1
  | .totalVfs => pf 16
  | .initialVfs => pf 16
  | .firstVfOffset => pf 1
  | .vfStride => pf 1
  | .numVfs => pf x.numVfs
  | .vfEnable => pf (if x.vfEnable then 1 else 0)
  | .memorySpace => if c.mse then 1 else 0
  | .busMaster => if c.bme then 1 else 0
  | .msixEnable => if c.msixEn then 1 else 0
  | .functionMask => if c.fmask then 1 else 0
  | .relaxedOrdering => if c.ero then 1 else 0
  | .bar4Size => pf c.bar4sz
  | .maxPayload => c.mps
  | .maxRead => c.mrrs
  | .completionTimeout => c.cto
  | .tableSize => 2047
  | .powerState => if c.d3 then 3 else 0
  | .bar dw => if f = 0 then barDw c.bars c.bar4sz dw else 0
  | .vfBar dw => pf (barDw x.vfBars x.vfBar4sz dw)
  | .vfBar4Size => pf x.vfBar4sz
  | .deviceControl => c.aer.control
  | .deviceStatus => c.aer.status
  | .uncStatus => c.aer.unc
  | .uncMask => c.aer.uncMask
  | .uncSeverity => c.aer.severity
  | .corStatus => c.aer.cor
  | .corMask => c.aer.corMask
  | .firstError => c.aer.first
  | .headerLog dw => c.aer.header.getD dw 0

/-- Changes a function's configuration. -/
def State.setFn (s : State) (p f : Nat) (g : FnCfg → FnCfg) : State :=
  s.modPx p fun x => { x with fns := upd {} x.fns f g }

/-- Changes a function's error registers. -/
def State.setAer (s : State) (p f : Nat) (g : Aer → Aer) : State := s.setFn p f fun c => { c with aer := g c.aer }

/-- Writes a field of a function's configuration space; a value the field does not have changes nothing. -/
def State.configWrite (s : State) (p f : Nat) (q : ConfigField) (v : Nat) : State :=
  let on := decide (v % 2 = 1)
  match q with
  | .numVfs => if f = 0 ∧ v ≤ 16 then s.modPx p fun x => { x with numVfs := v } else s
  | .vfEnable => if f = 0 then s.modPx p fun x => { x with vfEnable := on } else s
  | .memorySpace => s.setFn p f fun c => { c with mse := on }
  | .busMaster =>
    if on then (s.setFn p f fun c => { c with bme := true }).sendPending p f
    else if (s.fnCfg p f).bme then s.flr p f
    else s
  | .msixEnable => (s.setFn p f fun c => { c with msixEn := on }).sendPending p f
  | .functionMask => (s.setFn p f fun c => { c with fmask := on }).sendPending p f
  | .relaxedOrdering => s.setFn p f fun c => { c with ero := on }
  | .bar4Size => if f = 0 ∧ 8 ≤ v ∧ v ≤ 16 then s.setFn p f fun c => { c with bar4sz := v } else s
  | .bar dw => if f = 0 then s.setFn p f fun c => { c with bars := setBarDw c.bars c.bar4sz dw v } else s
  | .vfBar dw => if f = 0 then s.modPx p fun x => { x with vfBars := setBarDw x.vfBars x.vfBar4sz dw v } else s
  | .vfBar4Size => if f = 0 ∧ 8 ≤ v ∧ v ≤ 16 then s.modPx p fun x => { x with vfBar4sz := v } else s
  | .deviceControl => s.setAer p f fun r => { r with control := v % 16 }
  | .deviceStatus => s.setAer p f fun r => { r with status := r.status &&& (15 - v % 16) }
  | .uncStatus => s.setAer p f fun r => { r with unc := r.unc &&& (uncBits - (v &&& uncBits)) }
  | .uncMask => s.setAer p f fun r => { r with uncMask := v &&& uncBits }
  | .uncSeverity => s.setAer p f fun r => { r with severity := v &&& uncBits }
  | .corStatus => s.setAer p f fun r => { r with cor := r.cor &&& (corBits - (v &&& corBits)) }
  | .corMask => s.setAer p f fun r => { r with corMask := v &&& corBits }
  | .maxPayload => if [128, 256, 512].contains v then s.setFn p f fun c => { c with mps := v } else s
  | .maxRead => if [128, 256, 512, 1024, 2048, 4096].contains v then s.setFn p f fun c => { c with mrrs := v } else s
  | .completionTimeout => if v < 32 then s.setFn p f fun c => { c with cto := v } else s
  | .powerState =>
    if v % 4 = 0 ∨ v % 4 = 3 then (s.setFn p f fun c => { c with d3 := v % 4 == 3 }).sendPending p f else s
  | _ => s

/-- An accepted configuration request takes effect. -/
def State.configServe (s : State) (p f : Nat) (op : ConfigOp) : State :=
  match op with
  | .read q => s.complete p f (leBytes 4 (s.configRead p f q))
  | .write q v => (s.configWrite p f q v.toNat).complete p f []

/-! ### Requests to BAR2 and BAR4 (R364, R365, R372, R379) -/

/-- The DRAM address of BAR4 bytes, unless the request passes a limit or the BAR's size (R362, R365). -/
def State.bar4Place (s : State) (p f o n : Nat) : Option Nat :=
  let a := s.reg .pxFnD4baseLo p f + s.reg .pxFnD4baseHi p f * 0x100000000 + o
  if o + n ≤ s.fld fPX_FN_D4LEN_LEN64K p f * 0x10000 ∧ a + n ≤ dramSize ∧ o + n ≤ 2 ^ (20 + s.bar4Code p f) then some a
  else none

/-- Poisons every unit that written bytes touch (R313, R379). -/
def State.poisonUnits (s : State) (a n : Nat) : State :=
  (unitsOf a n).foldl (fun t u => let (sl, loc) := dramPlace u; (t.endWindow sl (loc / 64)).poisonUnit sl (loc / 64)) s

/-- A posted write of bytes of DRAM: its data, or poison. -/
def State.hostDramWrite (s : State) (a : Nat) (data : List Byte) (be : List Bool) (poison : Bool) : State :=
  if poison then s.poisonUnits a data.length else (s.dramWrite a data be).2

/-- Bytes read from DRAM for a host, and whether they are poisoned: uncorrectable bytes are free (R379). -/
def State.hostDramBytes (s : State) (a n : Nat) : List Byte × Bool × State :=
  match s.dramRead a n with
  | (.ok d, t) => (d, false, t)
  | (_, t) => let (d, t) := t.drawBytes n; (d, true, t)

/-- A read of bytes of DRAM. -/
def State.hostDramRead (s : State) (p f a n : Nat) : State :=
  let (d, bad, t) := s.hostDramBytes a n
  t.complete p f d bad

/-- The byte enables of a DW as R364 admits them: the low half and the high half. -/
def halvesOf (be : List Bool) : Option (Bool × Bool) :=
  match be with
  | [true, true, true, true] => some (true, true)
  | [true, true, false, false] => some (true, false)
  | [false, false, true, true] => some (false, true)
  | _ => none

/-- A write of ring bytes of a context by its owner: an owner's write of the output ring is ignored (R190, R379). -/
def State.ringWrite (s : State) (p f ctx fo : Nat) (data : List Byte) (be : List Bool) (poison : Bool) : State :=
  let n := data.length
  if !(s.ctxRec ctx).ownedBy (p == 1) f then s
  else if poison then if fo < 0x2000 then s.poisonUnits (s.ringAddr ctx fo) (min n (0x2000 - fo)) else s
  else (s.dramWrite (s.ringAddr ctx fo) data ((List.range n).map fun i => be.getD i false && decide (fo + i < 0x2000))).2

/-- A read of ring bytes of a context: 0 for any but its owner (R190). -/
def State.ringBytes (s : State) (p f ctx fo n : Nat) : List Byte × Bool × State :=
  if (s.ctxRec ctx).ownedBy (p == 1) f then s.hostDramBytes (s.ringAddr ctx fo) n else (List.replicate n 0, false, s)

/-- One DW of a request to a frame: its offset in BAR2, its data, and the halves it enables. -/
structure FrameDw where
  o    : Nat
  data : List Byte
  lo   : Bool
  hi   : Bool

/-- A write of one DW of a frame (R190): a register, or ring bytes where a request of two DWs reaches into a ring. -/
def State.frameWrite (s : State) (p f : Nat) (poison : Bool) (d : FrameDw) : State :=
  let ctx := d.o / 0x4000
  let fo := d.o % 0x4000
  let v := leNat d.data
  let port := p == 1
  if fo < 0x3000 then s.ringWrite p f ctx fo d.data [d.lo, d.lo, d.hi, d.hi] poison
  else if poison then s
  else if fo < 0x3040 then s.cxReach (.record true port f ctx ((fo - 0x3000) / 4) d.lo d.hi v)
  else if fo = 0x3040 then if d.lo then s.cxReach (.inDb port f ctx (bits v 7 0)) else s
  else if fo = 0x3044 then if d.lo then s.cxReach (.outDb port f ctx (bits v 7 0)) else s
  else if fo = 0x3048 then if d.lo then s.cxReach (.command (bits v 3 0) port f true ctx) else s
  else s

/-- A read of one DW of a frame (R190): its bytes and whether they are poisoned. Bytes that are not enabled read 0. -/
def State.frameRead (s : State) (p f : Nat) (d : FrameDw) : List Byte × Bool × State :=
  let ctx := d.o / 0x4000
  let fo := d.o % 0x4000
  let (b, bad, t) :=
    if fo < 0x3000 then s.ringBytes p f ctx fo 4
    else (leBytes 4 (if fo < 0x3040 then (s.ctxRec ctx).view ((fo - 0x3000) / 4) else 0), false, s)
  (mergeBytes [0, 0, 0, 0] b [d.lo, d.lo, d.hi, d.hi], bad, t)

/-- Whether a request lies in ring entries only, within one frame. -/
def inRing (o n : Nat) : Bool := decide (0 < n) && o / 0x4000 == (o + n - 1) / 0x4000 && decide ((o + n - 1) % 0x4000 < 0x3000)

/-- The DWs of a request to the registers of frames: none unless it is one or two DWs at a DW-aligned address, each with
both halves, the low or the high one enabled (R364). -/
def frameDws (o n : Nat) (data : List Byte) (be : List Bool) : Option (List FrameDw) :=
  if o % 4 ≠ 0 ∨ (n ≠ 4 ∧ n ≠ 8) then none
  else
    let one (j : Nat) : Option FrameDw :=
      (halvesOf ((be.drop (4 * j)).take 4)).map fun h => ⟨o + 4 * j, (data.drop (4 * j)).take 4, h.1, h.2⟩
    match one 0, one 1 with
    | some a, some b => if n = 8 then some [a, b] else some [a]
    | some a, none => if n = 4 then some [a] else none
    | none, _ => none

/-- A write of frames and rings takes effect at its home (R190, R364). -/
def State.frameWrites (s : State) (p f o : Nat) (data : List Byte) (be : List Bool) (poison : Bool) : State :=
  if inRing o data.length then s.ringWrite p f (o / 0x4000) (o % 0x4000) data be poison
  else ((frameDws o data.length data be).getD []).foldl (fun t d => t.frameWrite p f poison d) s

/-- A read of frames and rings is served (R190, R364). -/
def State.frameReads (s : State) (p f o n : Nat) (be : List Bool) : State :=
  if inRing o n then
    let (d, bad, t) := s.ringBytes p f (o / 0x4000) (o % 0x4000) n
    t.complete p f d bad
  else
    let (d, bad, t) := ((frameDws o n [] be).getD []).foldl (fun (acc : List Byte × Bool × State) q =>
      let (b, e, t) := acc.2.2.frameRead p f q
      (acc.1 ++ b, acc.2.1 || e, t)) ([], false, s)
    t.complete p f d bad

/-- The request that bytes of a BAR are (R364, R365), none where it is unsupported. -/
def State.memoryOp (s : State) (p f : Nat) (bar : HostBar) (o n : Nat) (be : List Bool) (dram : Nat → HostOp)
    (frame : HostOp) : Option HostOp :=
  if !s.reaches p f ∨ !s.servesMemory then none
  else match bar with
    | .bar4 => (s.bar4Place p f o n).map dram
    | .bar2 => if o + n ≤ 0x4000000 ∧ (inRing o n ∨ (frameDws o n [] be).isSome) then some frame else none

/-- A posted write as its port takes it (R364, R365, R366, R379): the request accepted, if any. -/
def State.admitWrite (s : State) (p f : Nat) (bar : HostBar) (o : Nat) (data : List Byte) (be : List Bool)
    (poison : Bool) : Option HostOp × State :=
  let n := data.length
  if n = 0 then (none, s)
  else if (s.fnCfg p f).mps < n then (none, s.aerError p f 3)
  else
    let s := if poison then (s.count fPX_ERR_POISON p).aerError p f 2 true else s
    match s.memoryOp p f bar o n be (.dramWrite · data be poison) (.frameWrite o data be poison) with
    | none => (none, s.badReq p f)
    | some op => (some op, s)

/-- A read as its port takes it (R364, R365, R366, R379): the request accepted, if any. -/
def State.admitRead (s : State) (p f : Nat) (bar : HostBar) (o n : Nat) (be : List Bool) : Option HostOp × State :=
  match if n = 0 then none else s.memoryOp p f bar o n be (.dramRead · n) (.frameRead o n be) with
  | none => (none, s.badRead p f)
  | some op => (some op, s)

/-! ### The commands of the table -/

def execHostWindowWrite (port : HostPort) (s : State) : Host.Outcome State Fault Refusal :=
  .next (s.hostWindowWrite (portNum port))
def execHostCompletion (port : HostPort) (tag : Nat) (status : CompletionStatus) (data : List Byte) (s : State) :
    Host.Outcome State Fault Refusal := .next (s.hostCompletion (portNum port) tag status data)
def execCompletionTimeout (port : HostPort) (tag : Nat) (s : State) : Host.Outcome State Fault Refusal :=
  .next (s.completionTimeout (portNum port) tag)
def execPortLost (port : HostPort) (s : State) : Host.Outcome State Fault Refusal := .next (s.portLost (portNum port))
def execPerstN (port : HostPort) (s : State) : Host.Outcome State Fault Refusal :=
  .next ((s.portReset (portNum port)).modPx (portNum port) fun x => { x with perst := true })
def execHotReset (port : HostPort) (s : State) : Host.Outcome State Fault Refusal := .next (s.portReset (portNum port))
def execLinkDisable (port : HostPort) (s : State) : Host.Outcome State Fault Refusal :=
  .next (s.portReset (portNum port))
def execFlr (port : HostPort) (func : FuncId) (s : State) : Host.Outcome State Fault Refusal :=
  .next (s.flr (portNum port) func)
def execLinkUp (port : HostPort) (speed : Fin 6) (width : Fin 17) (s : State) : Host.Outcome State Fault Refusal :=
  .next (s.linkComesUp (portNum port) speed width)
def execPerstNDeassert (port : HostPort) (s : State) : Host.Outcome State Fault Refusal :=
  .next (s.modPx (portNum port) fun x => { x with perst := false })
def execDataLinkLayerDown (port : HostPort) (s : State) : Host.Outcome State Fault Refusal :=
  .next (if (s.pxOf (portNum port)).linkUp then s.linkDown (portNum port) else s)

end Sys2Proof.Machine
end

