-- ==== Sys2Proof/Machine/Reset.lean ====
section
/-! DEFINITION. Resets, standby, lockup and the safelight (R431–R445), and the pins that trigger resets (R406,
R407, R454). -/

namespace Sys2Proof.Machine

/-- The kinds of reset (R431). -/
inductive ResetKind where
  | powerOn | cold | warm
  deriving DecidableEq, Repr

/-- Seconds since the last power-on reset (RS_UPTIME). -/
def State.uptime (s : State) : Nat := (s.clock - s.powerOnAt) / 1000000

/-- Moves MG_STAGE.LEVEL; a change is a host event (R368). -/
def State.setLevel (s : State) (n : Nat) : State :=
  if s.level = n then s else { s with level := n }.hostEvents fPX_HEVT_STAGE

/-! ### What survives (R438, R439) -/

/-- Whether a register keeps its value (R438): densitometer targets always; RS_RETCFG once a negative has been
accepted, since its values decide on retirement (R435); at a warm reset the PX_ frames, PW_CAP, CX_STEP and the lane
records too. -/
def State.keepsReg (s : State) (k : ResetKind) (key : Nat) : Bool :=
  let blk := key / 0x1000000
  let off := key % 0x1000000
  (blk == 3 && decide (0x100 ≤ off) && off % 16 == 4)
    || (k != .powerOn && s.rs.accepted && key == regKey .rsRetcfg 0 0)
    || (k == .warm && (blk == 9 || key == regKey .pwCap 0 0 || key == regKey .cxStep 0 0
      || (blk == 7 && decide (off < 0x3000) && (off % 0x40 == 4 || off % 0x40 == 8))))

/-- A context record at a warm reset (R439). -/
def CtxRec.warm (x : CtxRec) : CtxRec :=
  if x.state ≠ .running then x
  else if x.dropReq then {}
  else if x.parkReq then { x with state := .parked, parkReq := false }
  else { x with state := if x.eligible then .ready else .idle }

/-- A slice at a warm reset: in self-refresh, with its contents (R320). -/
def Slice.warm (x : Slice) : Slice := { selfRef := true, err := x.err, poisoned := x.poisoned, badLanes := x.badLanes }

/-- A slice after its power or its training is lost: a faulty lane stays so (R309). -/
def Slice.cold (x : Slice) : Slice := { badLanes := x.badLanes }

/-- A port at a warm reset: its training values and width are kept, and it locks again (R440); so does one that standby
darkened (R438). A port that had not trained is dark. -/
def OPort.warm (x : OPort) : OPort :=
  if x.state = .unused ∨ (x.state = .dark ∧ x.width = 0) then {}
  else { state := .training, width := x.width, lanes := x.lanes, waves := x.waves, final := x.final }

/-- A host port at a warm reset: its link and configuration space stay; host-window writes that have not left are
dropped, and requests not accepted are never sent (R377, R432). Host requests that wait are lost with the engine they wait
for (notes/assumptions/125.md). -/
def PxPort.warm (x : PxPort) : PxPort :=
  { x with tx := x.tx.filter (·.vec.isSome), inbox := [], reads := [], waiting := [] }

/-- Drops and counts the host-window writes of both ports that have not left (R432). -/
def State.dropHostWrites (s : State) : State :=
  (List.range 2).foldl (fun t p =>
    let gone := ((t.pxOf p).tx.filter (·.vec.isNone)).length
    (t.count fPX_ERR_DROPW p 0 gone).modPx p PxPort.warm) s

/-- The slots of the contexts that a step has not closed (R439). -/
def runningSlots (recs : SMap CtxRec) : SMap Nat :=
  (recs.map (·.1)).foldl (fun m c =>
    let x := get {} recs c
    if x.state = .running ∧ x.slotV then put 0 m x.slot (c + 1) else m) []

/-- The slots that a reset keeps for the next composition: of the step that it interrupts, or, before that composition, of
the step that an earlier one interrupted. -/
def State.slotsKept (s : State) : SMap Nat := if runningSlots s.ctx = [] then s.cx.kept else runningSlots s.ctx

/-- The nodes' views of the parked contexts (R295). -/
def parkedViews (recs : SMap CtxRec) : SMap Bool :=
  (List.range 24).foldl (fun m n => recs.foldl (fun m e =>
    if e.2.state = .parked then put false m (n * 4096 + e.1) true else m) m) []

/-- NERASE follows the kept lane records. -/
def State.recountErased (s : State) : State :=
  (List.range 192).foldl (fun t sl =>
    let n := (t.erasedLanes sl).length
    if n = 0 then t else t.setFld fDR_SSTATUS_NERASE n sl) s

/-- History entries within the last W seconds (R435). -/
def entriesWithin (history : List Nat) (w now : Nat) : Nat := (history.filter fun e => decide (now < e + w)).length

/-- W and N of R435: the running negative's, or the defaults until one has been accepted since power-on. -/
def State.retireCfg (s : State) : Nat × Nat :=
  if s.rs.accepted then (s.fld fRS_RETCFG_W, s.fld fRS_RETCFG_N) else (600, 3)

/-- The reset controller as a reset begins: the counter, the window history and the cause (R431, R435, R438). -/
def State.rsAfter (s : State) (k : ResetKind) (cause : Nat) (append : Bool) : Rs :=
  let r := s.rs
  let history := if k = .powerOn then [] else if append then (r.history ++ [s.uptime]).drop (r.history.length - 15) else r.history
  { warmKind := k == .warm, history := history, retired := k != .powerOn && r.retired, countLost := r.countLost
    last := cause, count := (r.count + 1) % 2 ^ 32, accepted := k != .powerOn && r.accepted
    inWin := if k = .powerOn then 0 else entriesWithin history s.retireCfg.1 s.uptime }

/-- A reset begins (R432): every unit returns to its After reset value, but for what R438 keeps. -/
def State.beginReset (s : State) (k : ResetKind) (cause : Nat) (append : Bool := true) : State :=
  let s := if k = .warm then s.dropHostWrites else s
  let warm := k == .warm
  let recs := if warm then mapVals {} (fun _ x => x.warm) s.ctx else []
  let t : State := {
    pending := s.pending, clock := s.clock, resetAt := s.clock, freeCount := s.freeCount, out := s.out
    powerOnAt := if k = .powerOn then s.clock else s.powerOnAt
    regs := s.regs.filter fun e => s.keepsReg k e.1
    dram := if warm then s.dram else [], sram := if warm then s.sram else [], sramBad := if warm then s.sramBad else []
    slices := if warm then updAll {} s.slices (List.range 192) (fun _ x => x.warm) else mapVals {} (fun _ x => x.cold) s.slices
    ctx := recs, cx := if warm then { kept := s.slotsKept } else {}, sync := { parked := parkedViews recs }
    ol := { workingFailed := s.ol.workingFailed, spareFailed := s.ol.spareFailed
            ports := if warm then mapVals {} (fun _ x => x.warm) s.ol.ports else [] }
    px := if warm then s.px else mapVals {} (fun _ x => { perst := x.perst }) s.px
    sec := { flash := s.sec.flash, copy0 := s.sec.copy0, copy1 := s.sec.copy1, badPages := s.sec.badPages
             owner := if warm then s.sec.owner else none, reload := if warm then s.sec.bank else none }
    pw := { railsOn := s.pw.railsOn, vaon := s.pw.vaon, pwrEn := s.pw.pwrEn, mrst := s.pw.mrst, tripped := s.pw.tripped
            degraded := s.pw.degraded, changed := s.pw.changed, measured := warm && s.pw.measured }
    rs := s.rsAfter k cause append }
  let t := t.setFlag fPW_EVSTAT_TRIP (s.flag fPW_EVSTAT_TRIP)
  if warm then (if s.level = 0 then t.recountErased else t.recountErased.hostEvents fPX_HEVT_STAGE) else t

/-! ### Triggers (R431, R443) -/

/-- WAKE (R437): a warm reset of cause 9 at once; it appends nothing. -/
def State.wake (s : State) : State := s.beginReset .warm 9 false

/-- Whether a warm reset is in progress, before level 3 (R443). -/
def State.warmInProgress (s : State) : Bool := s.rs.warmCause.isSome || (s.rs.warmKind && s.rs.inReset)

/-- A warm trigger (R431, R436, R443): the hosts hear of it, and the reset begins 1 ms later. In standby it ends
standby. -/
def State.warmTrigger (s : State) (cause : Nat) : State :=
  if s.rs.retired ∨ !s.pw.railsOn ∨ s.pw.mrst then s
  else if s.rs.standby then s.wake
  else if s.warmInProgress then s
  else { s with rs := { s.rs with warmCause := some cause } }.hostEvents fPX_HEVT_WARM

/-- WARM_RESET (R432): the reset begins 1 ms after its trigger. -/
def State.warmReset (s : State) : State :=
  match s.rs.warmCause with
  | some c => s.beginReset .warm c
  | none => s

/-- A cold trigger (R431, R443): the reset begins at once, whatever is in progress. Without its rails the device
is in power-on reset and stays there. -/
def State.coldReset (s : State) (cause : Nat) : State := if s.pw.railsOn then s.beginReset .cold cause else s

/-- Power-good deasserts: the rails switch off and the device enters power-on reset (R407, R427, R454). -/
def State.powerOff (s : State) (cause : Nat) : State :=
  if s.pw.railsOn then { s with pw := { s.pw with railsOn := false } }.beginReset .powerOn cause else s

/-- A trip (R427). -/
def State.trip (s : State) : State :=
  let s := { s with pw := { s.pw with tripped := true } }
  ((s.setFlag fPW_EVSTAT_TRIP true)).powerOff 2

/-- VIN_LOW (R407). -/
def State.vinLow (s : State) : State := s.powerOff 1

/-- PWR_EN_DEASSERT (R454): with cause 10, unless the device is off already; the trip state ends. -/
def State.pwrEnDeassert (s : State) : State :=
  let s := { s with pw := { s.pw with pwrEn := false } }.powerOff 10
  { s with pw := { s.pw with tripped := false } }

/-- RAIL_START (R406, R427): PWR_EN is asserted and VIN has been high enough; the rails start. A trip holds them off
until PWR_EN has been deasserted. -/
def State.railStart (s : State) : State :=
  if !s.pw.vaon ∨ s.pw.tripped then s else { s with pw := { s.pw with pwrEn := true, railsOn := true } }

/-- VAON_LOSS (R406): what VAON keeps is lost; flash and the pins are not. RS_COUNT comes back from the device-data
area at level 0 (R435). -/
def State.vaonLoss (s : State) : State :=
  if !s.pw.vaon then s
  else
    { pending := s.pending, clock := s.clock, resetAt := s.clock, powerOnAt := s.clock, freeCount := s.freeCount, out := s.out
      ol := { workingFailed := s.ol.workingFailed, spareFailed := s.ol.spareFailed }
      px := mapVals {} (fun _ x => { perst := x.perst }) s.px
      sec := { flash := s.sec.flash, copy0 := s.sec.copy0, copy1 := s.sec.copy1, badPages := s.sec.badPages }
      pw := { vaon := false, pwrEn := s.pw.pwrEn, mrst := s.pw.mrst }
      rs := { count := 0 } }

/-- VAON_PRESENT (R431): power-on reset with cause 0. -/
def State.vaonPresent (s : State) : State :=
  if s.pw.vaon then s else { s with pw := { s.pw with vaon := true } }.beginReset .powerOn 0

/-- MRST_N_ASSERT (R431, R454): a cold reset; the device stays in logic reset while the pin is asserted. -/
def State.mrstAssert (s : State) : State :=
  if s.pw.mrst then s else { s with pw := { s.pw with mrst := true } }.coldReset 3

/-- MRST_N_DEASSERT (R431): the timeline counts from here. -/
def State.mrstDeassert (s : State) : State :=
  if s.pw.mrst then { s with resetAt := s.clock, pw := { s.pw with mrst := false } } else s

/-! ### Standby (R437) -/

/-- A barrier's definition, without what a reset clears. -/
def Barrier.defined (b : Barrier) : Barrier := { cfg := b.cfg, inc := b.inc, root := b.root, box := b.box, exp := b.exp }

/-- A register in standby (R6, R437, R438): what a warm reset keeps, stays; a register of the negative, which is kept,
holds the negative's value; what the management and security blocks show of the negative, the proof and the store stays;
and every other field takes its After reset value. -/
def State.standbyReg (s : State) (k : Nat) (r : RegId) : Nat :=
  if s.keepsReg .warm k then (get (BitVec.ofNat 32 (regReset r)) s.regs k).toNat
  else if r.fromNegative then (get (BitVec.ofNat 32 (regReset r)) s.sec.loaded k).toNat
  else if k / 0x1000000 ≤ 1 then
    (regFields r).foldl (fun x f =>
      if f.acc = .ro then setBits x f.hi f.lo (bits (get (BitVec.ofNat 32 (regReset r)) s.regs k).toNat f.hi f.lo) else x)
      (regReset r)
  else regReset r

/-- The registers in standby. -/
def State.standbyRegs (s : State) : SMap Word :=
  (s.regs ++ s.sec.loaded).foldl (fun m e =>
    match findReg (e.1 / 0x1000000) (e.1 % 0x1000000) with
    | some (r, _, _) => put (BitVec.ofNat 32 (regReset r)) m e.1 (BitVec.ofNat 32 (s.standbyReg e.1 r))
    | none => m) []

/-- A port in standby is dark, with its training values and width kept (R438). -/
def OPort.standby (x : OPort) : OPort := if x.state = .unused then x else { x.warm with state := .dark }

/-- Standby is entered as a warm reset begins, with nothing counted (R437, R438): the rails of the cores, the mesh and
the lasers switch off. -/
def State.enterStandby (s : State) : State :=
  let s := (s.hostEvents fPX_HEVT_WARM).dropHostWrites
  let t := { s with
    regs := s.standbyRegs
    cores := [], l2 := {}, mx := [], vx := [], sp := [], dm := [], sides := [], stallLog := [], vReq := [], vResp := [], vTurn := []
    slices := updAll {} s.slices (List.range 192) (fun _ x => x.warm)
    cx := { kept := s.slotsKept }
    sync := { xlat := s.sync.xlat, xlatGlb := s.sync.xlatGlb, bars := mapVals {} (fun _ b => b.defined) s.sync.bars
              parked := parkedViews s.ctx }
    ol := { s.ol with
      ports := mapVals {} (fun _ x => x.standby) s.ol.ports
      links := mapVals {} (fun _ l =>
        { role := l.role, peerDev := l.peerDev, peerCoord := l.peerCoord, turn := l.turn }) s.ol.links
      hub := [] }
    sec := { s.sec with write := none, header := [], op := none, stage := [], rpt := [] }
    pw := { railsOn := true, vaon := s.pw.vaon, pwrEn := s.pw.pwrEn, mrst := s.pw.mrst, degraded := s.pw.degraded, changed := s.pw.changed
            measured := s.pw.measured, learned := s.pw.learned, eids := s.pw.eids }
    rs := { s.rs with standby := true, armed := false, seq := 0, warned := false, lockDelay := none, warmCause := none } }
  (t.setFlag fPW_EVSTAT_TRIP (s.flag fPW_EVSTAT_TRIP)).setLevel 0

/-! ### Lockup and the safelight (R433, R434) -/

/-- A lockup starts the lockup delay: of a supervisor core, or of any core with CLOCKRST set. A delay that runs is not
restarted. -/
def State.startLockDelay (s : State) (c : Nat) : State :=
  if decide (768 ≤ c) || s.flag fRS_CTRL_CLOCKRST then
    { s with rs := { s.rs with lockDelay := some (s.rs.lockDelay.getD s.clock) } }
  else s

/-- LOCKUP_DELAY (R433): RS_LOCKDLY.MS milliseconds have passed. Only a reset ends a lockup. -/
def State.lockupDelay (s : State) : State :=
  match s.rs.lockDelay with
  | none => s
  | some start =>
    if start + s.fld fRS_LOCKDLY_MS * 1000 ≤ s.clock then
      { s with rs := { s.rs with lockDelay := none } }.warmTrigger 8
    else s

/-- Arms the safelight as level 1 is reached (R434). -/
def State.armSafelight (s : State) : State :=
  { s with rs := { s.rs with armed := true, seq := 0, strokeAt := s.clock, warned := false } }

/-- Whether a number of quarters of the timeout has passed without a stroke. -/
def State.unstroked (s : State) (quarters : Nat) : Bool :=
  s.rs.armed && decide (s.rs.strokeAt + s.fld fRS_SLCFG_TIMEOUT * 250000 * quarters ≤ s.clock)

/-- A write to RS_SAFELIGHT (R434). -/
def State.strokeWrite (s : State) (v : Nat) : State :=
  if v % 256 = (s.rs.seq.toNat + 1) % 256 then
    { s with rs := { s.rs with seq := BitVec.ofNat 8 v, strokeAt := s.clock, warned := false } }
  else s.setFlag fRS_STATUS_BADSTROKE true

/-- SLWARN (R434). -/
def State.slwarn (s : State) : State :=
  if s.unstroked 3 ∧ !s.rs.warned then
    ({ s with rs := { s.rs with warned := true } }.setFlag fRS_STATUS_SLWARN true).deviceEvent 7
  else s

/-- SAFELIGHT_EXPIRY (R434). -/
def State.safelightExpiry (s : State) : State := if s.unstroked 4 then s.warmTrigger 5 else s

/-! ### RS_CMD (R431, R436, R437, R443, R445) -/

/-- A command of RS_CMD is refused. -/
def State.rsRefuse (s : State) : State := s.setFlag fRS_STATUS_CMDERR true

/-- A write of RS_CMD by management, or by ring 0 of a supervisor core, which may issue WARM only. -/
def State.rsCommand (s : State) (management : Bool) (code : Nat) : State :=
  match code with
  | 1 => if s.rs.retired then s.rsRefuse else s.warmTrigger (if management then 6 else 7)
  | 2 => if management then s.coldReset 4 else s.rsRefuse
  | 3 => if !management ∨ s.rs.retired ∨ s.level < 3 ∨ s.rs.warmCause.isSome then s.rsRefuse else s.enterStandby
  | 4 => if management ∧ s.rs.standby then s.wake else s.rsRefuse
  | 5 => if management then s.modDd fun d => { d with retired := false } else s.rsRefuse
  | _ => if management then s else s.rsRefuse

/-- A write of a code to RS_CMD by a requester. -/
def State.rsCmdBy (s : State) (rq : Requester) (code : Nat) : State :=
  s.regCommand rq 2 4 code fun t => t.rsCommand (isManagement rq) code

def execWarm (rq : Requester) (s : State) : Host.Outcome State Fault Refusal := .next (s.rsCmdBy rq 1)
def execCold (rq : Requester) (s : State) : Host.Outcome State Fault Refusal := .next (s.rsCmdBy rq 2)
def execStandby (rq : Requester) (s : State) : Host.Outcome State Fault Refusal := .next (s.rsCmdBy rq 3)
def execWake (rq : Requester) (s : State) : Host.Outcome State Fault Refusal := .next (s.rsCmdBy rq 4)
def execClearret (rq : Requester) (s : State) : Host.Outcome State Fault Refusal := .next (s.rsCmdBy rq 5)
def execMrstNAssert (s : State) : Host.Outcome State Fault Refusal := .next s.mrstAssert
def execMrstNDeassert (s : State) : Host.Outcome State Fault Refusal := .next s.mrstDeassert
def execWarmReset (s : State) : Host.Outcome State Fault Refusal := .next s.warmReset
def execLockupDelay (s : State) : Host.Outcome State Fault Refusal := .next s.lockupDelay
def execStroke (rq : Requester) (value : BitVec 32) (s : State) : Host.Outcome State Fault Refusal :=
  .next (s.regCommand rq 2 8 value.toNat fun t => t.strokeWrite value.toNat)
def execSlwarn (s : State) : Host.Outcome State Fault Refusal := .next s.slwarn
def execSafelightExpiry (s : State) : Host.Outcome State Fault Refusal := .next s.safelightExpiry
def execRailStart (s : State) : Host.Outcome State Fault Refusal := .next s.railStart
def execVinLow (s : State) : Host.Outcome State Fault Refusal := .next s.vinLow
def execVaonPresent (s : State) : Host.Outcome State Fault Refusal := .next s.vaonPresent
def execVaonLoss (s : State) : Host.Outcome State Fault Refusal := .next s.vaonLoss
def execPwrEnDeassert (s : State) : Host.Outcome State Fault Refusal := .next s.pwrEnDeassert

end Sys2Proof.Machine
end

