-- ==== Sys2Proof/Machine/Power.lean ====
section
/-! DEFINITION. Power, cooling and ageing (R406–R430): the cap, the activity limit, clock ceilings, phase learning,
supply dips, temperature and the densitometer. -/

namespace Sys2Proof.Machine

/-! ### Units -/

/-- Units of Pw in one watt, and in one tenth of a watt. -/
def wattUnits : Int := 40960000
def deciwattUnits : Int := 4096000

/-- An event of the power controller that is a throttle or a hold: device event 5 (R426). -/
def State.pwEvent (s : State) (f : Field) : State := (s.setFlag f true).deviceEvent 5

/-- A thermal hold is in force (R426). -/
def Pw.hold (x : Pw) : Bool := x.holdJunction || x.holdLayer

/-- The largest activity limit (R415, R425). -/
def Pw.aMax (x : Pw) : Nat := if x.dipHold || x.hold then 64 else 256

/-- A new goal for the activity limit, within its bounds. -/
def Pw.aim (x : Pw) (goal : Int) : Pw := { x with goal := (clampInt 1 x.aMax goal).toNat }

/-! ### Clocks (R412, R417–R419) -/

/-- The ceiling in force in 5 MHz units (R412). -/
def State.ceil5 (s : State) (c : Nat) : Nat :=
  if s.level < 3 then 160
  else min (s.fld fPW_CL_TARGET_TARGET5 c) (min (s.fld fPW_CL_CLK_PLAN5 c) (s.fld fPW_CL_CLK_THERM5 c))

/-- Whether a phase is learned (R418). -/
def Learned.done (l : Learned) (learnn : Nat) : Bool := decide ((if l.hint then (learnn + 1) / 2 else learnn) ≤ l.n)

/-- One observation (R418). L holds 12 bits and saturates. -/
def Learned.observe (l : Learned) (obs : Nat) : Learned :=
  let v : Int := if l.n = 0 then obs else (l.l : Int) + ((obs : Int) - l.l).tdiv 8
  { l with l := min v.toNat 4095, n := min (l.n + 1) 255 }

/-- The planned clock of a learned phase (R419): the highest multiple of 5 MHz whose power fits a 24th of the room. -/
def plannedClock (l : Nat) (room : Int) : Nat :=
  ((List.range 181).reverse.find? fun i =>
    decide ((l : Int) * ((160 + i : Nat) * 5 : Nat) * wattUnits * 24 ≤ room * 1500 * 64)).map (160 + ·) |>.getD 160

/-- An occupation of cluster c ends with its observation, and one of the new phase begins with its planned clock
(R417–R419). -/
def State.newPhase (s : State) (c old new : Nat) : State :=
  let x := s.pw
  let o := get {} x.occupied c
  let learned := if o.begun ∧ o.n ≠ 0 then upd {} x.learned (c * 64 + old) (·.observe (o.sum / o.n / 65536)) else x.learned
  let l := get {} learned (c * 64 + new)
  let plan := if l.done (s.fld fPW_LEARN_LEARNN) then plannedClock l.l x.room else s.fld fPW_LEARN_DEFCAP5
  let s := { s with pw := { x with learned := learned, occupied := put {} x.occupied c { begun := true } } }
  s.setFld fPW_CL_CLK_PLAN5 plan c

/-- MARK (R161, R417): only the marks of slice 8c count for cluster c. -/
def State.mark (s : State) (sl : Nat) : State :=
  match s.markPhase sl with
  | none => s
  | some t => if sl % 8 = 0 then t.newPhase (sl / 8) (s.slice sl).phase (t.slice sl).phase else t

/-! ### The controller (R409–R416) -/

/-- Power of a whole interval normalised to 1,500 MHz and a = 256, in 1/65,536 of 1/64 W (R418): f is the cluster's mean
clock in MHz. -/
def normalised (k est act f : Nat) : Nat := k * est * 256 * 1500 * 65536 * 64 / (409600 * max act 1 * max f 1)

/-- The mean clock of a cluster over an interval in MHz: never above the ceiling, and below it by what a supply droop
takes (R412), which the spec leaves open: a free value (notes/assumptions/82.md). -/
def State.meanClock (s : State) (c : Nat) : Nat := s.ceil5 c * 5 - Config.freeNat (s.freeCount + c)

/-- The least power that the controller takes a cluster to draw, in units of Pw: PW_LEARN.LDEF at the ceiling and the
present limit while its phase is neither learned nor hinted (R419), so that R415 never underestimates it. -/
def State.drawFloor (s : State) (c : Nat) : Nat :=
  let l := get {} s.pw.learned (c * 64 + (s.slice (8 * c)).phase)
  if l.hint || l.done (s.fld fPW_LEARN_LEARNN) then 0
  else (s.fld fPW_LEARN_LDEF * s.pw.act * (s.ceil5 c * 5) * 5 + 2) / 3

/-- The power of a cluster in the last interval as R415 takes it, in units of Pw. -/
def State.drawn (s : State) (est : Nat → Nat) (c : Nat) : Nat := max (s.fld fPW_K_K * est c * 100) (s.drawFloor c)

/-- The interval's share in an occupation: the first interval after a MARK is not whole. -/
def Occupation.interval (o : Occupation) (v : Nat) : Occupation :=
  if !o.begun then o else if o.whole then { o with n := o.n + 1, sum := o.sum + v } else { o with whole := true }

/-- CONTROL_TICK (R415, R418): the estimates of the last 10 µs, in 0.01 W per cluster. -/
def State.controlTick (s : State) (est : List Nat) : State :=
  if !s.pw.railsOn then s
  else
    let k := s.fld fPW_K_K
    let e (c : Nat) : Nat := est.getD c 0
    let sum := (List.range 24).foldl (fun n c => n + e c) 0
    let x := s.pw
    let p : Int := (((List.range 24).foldl (fun n c => n + s.drawn e c) 0 : Nat) : Int)
    let room := ((s.fld fPW_CAP_W : Int) - s.fld fPW_MARGIN_W) * wattUnits - x.fixed - x.trim
    let goal : Int := if p ≤ 0 then x.aMax else x.act * room / p
    let occupied := updAll {} x.occupied (List.range 24) fun c o => o.interval (normalised k (e c) x.act (s.meanClock c))
    let estMap := (List.range 24).foldl (fun m c => put 0 m c (e c)) x.est
    { s with freeCount := s.freeCount + 24, pw := { x with
      est := estMap, estMs := x.estMs + sum, estStrip := x.estStrip + sum, room := room, occupied := occupied }.aim goal }

/-- ACTIVITY_STEP (R413): one unit towards the goal. -/
def State.activityStep (s : State) : State :=
  let x := s.pw
  { s with pw := { x with act := if x.act < x.goal then x.act + 1 else if x.goal < x.act then x.act - 1 else x.act } }

/-- TELEMETRY (R408, R415, R416): VIN in 10 mV, the module input power in 0.1 W, and mV and 0.01 W of each rail. -/
def State.telemetry (s : State) (vin pin : Nat) (rails : List (Nat × Nat)) : State :=
  let x := s.pw
  let m := (pin : Int) * deciwattUnits
  let e : Int := ((s.fld fPW_K_K * x.estMs : Nat) : Int)
  let cap := (s.fld fPW_CAP_W : Int) * wattUnits
  let margin := (s.fld fPW_MARGIN_W : Int) * wattUnits
  let trim := if cap < m then x.trim + (m - cap) else if m < cap - margin then max 0 (x.trim - wattUnits) else x.trim
  let okMs := if m ≤ cap then x.okMs + 1 else 0
  let x := { x with
    fixed := m - e, trim := trim, estMs := 0, okMs := okMs
    missMs := if x.goal = 1 ∧ cap < m then x.missMs + 1 else 0
    capMissed := x.capMissed && decide (okMs < 10)
    rails := (List.range 7).foldl (fun r i => put (0, 0) r i (rails.getD i (0, 0))) x.rails }
  ({ s with pw := x }.setFld fPW_VIN_V (min vin 0xFFFF)).setFld fPW_PIN_P (min pin 0xFFFF)

/-- CAPMISS (R416). -/
def State.capmiss (s : State) : State :=
  if 10 ≤ s.pw.missMs ∧ !s.pw.capMissed then
    { s with pw := { s.pw with capMissed := true } }.setFlag fPW_EVSTAT_CAPMISS true
  else s

/-- K moved towards a ratio by at most an eighth of its value, within its range, in 1/4,096 (R410). -/
def recalibrated (k r : Nat) : Nat := max 2048 (min 8192 (if k < r then min r (k + k / 8) else max r (k - k / 8)))

/-- TEST_STRIP (R410): the mean VCORE power of 100 ms, in 0.01 W, against the mean of the 10,000 estimates. -/
def State.testStrip (s : State) (measured : Nat) : State :=
  let x := s.pw
  let sum := x.estStrip
  let s := { s with pw := { x with estStrip := 0 } }.count fPW_K_STRIPS
  let m := measured * 10000
  if sum = 0 ∨ 2 * m < sum ∨ 2 * sum < m then s.setFlag fPW_EVSTAT_CALREJ true
  else s.setFld fPW_K_K (recalibrated (s.fld fPW_K_K) (m * 4096 / sum))

/-- A write of PW_CAP (R414). -/
def State.capWrite (s : State) (w : Nat) : State := if 150 ≤ w ∧ w ≤ 600 then s.setFld fPW_CAP_W w else s

/-! ### The densitometer (R428, R429) -/

/-- The slack of a cluster at its target (R429): the target falls by 5 MHz and is measured again, or the cluster is
done; one still short at 800 MHz is degraded. -/
def State.slackAt (s : State) (c slack : Nat) : State :=
  let s := { s with pw := { s.pw with slack := put 0 s.pw.slack c (min slack 255) } }
  let t := s.fld fPW_CL_TARGET_TARGET5 c
  let more (b : Bool) (u : State) : State := { u with pw := { u.pw with lowering := put false u.pw.lowering c b } }
  if 20 ≤ slack then more false s
  else if 160 < t then
    let s := more true { s with pw := { s.pw with changed := true } }
    ((s.setFld fPW_CL_TARGET_TARGET5 (t - 1) c).setFlag fPW_EVSTAT_AGED true).setFld fPW_EVSTAT_CLUSTER c
  else
    let s := more false { s with pw := { s.pw with degraded := put false s.pw.degraded c true } }
    (s.setFlag fPW_EVSTAT_DEGRADED true).setFld fPW_EVSTAT_CLUSTER c

/-- A measurement ends once no cluster lowers its target; changed targets are written in one write (R429). Level 3 needs
one that has ended since the latest power-on or cold reset (R428). -/
def State.endDensitometer (s : State) : State :=
  if s.pw.lowering ≠ [] then s
  else
    let s := { s with pw := { s.pw with densBusy := false, measured := true } }
    if !s.pw.changed then s
    else if !s.sec.canWriteDd then s.setFlag fPW_EVSTAT_STOREFAIL true
    else
      let targets := (List.range 24).foldl (fun m c => put 340 m c (s.fld fPW_CL_TARGET_TARGET5 c)) []
      let s := s.modDd fun d => { d with targets := targets }
      { s with pw := { s.pw with changed := false } }

/-- DENSITOMETER (R428): a measurement begins, unless a hold makes it wait. -/
def State.densitometer (s : State) (slack : List Nat) : State :=
  let s := { s with pw := { s.pw with densBusy := true, lowering := [] } }
  if s.pw.dipHold ∨ s.pw.hold then s
  else ((List.range 24).foldl (fun t c => t.slackAt c (slack.getD c 255)) s).endDensitometer

/-- RUN (R428): a measurement is to start. -/
def State.densRun (s : State) : State := { s with pw := { s.pw with densBusy := true } }

/-- DENSITOMETER_STEP (R429). -/
def State.densitometerStep (s : State) (c slack : Nat) : State :=
  if get false s.pw.lowering c then (s.slackAt c slack).endDensitometer else s

/-! ### Dips and temperature (R424–R427) -/

/-- A hold begins: the activity limit heads for 64, and a measurement under way is to start again (R424, R428). -/
def Pw.holds (x : Pw) : Pw := { x with goal := min x.goal 64, lowering := [] }

/-- DIP_HOLD (R424). The lowest VIN is that of the whole dip. -/
def State.dipHold (s : State) (minv : Nat) : State :=
  if !s.pw.railsOn then s
  else if s.pw.dipHold then s.setFld fPW_DIPLOG_MINV (min minv (s.fld fPW_DIPLOG_MINV))
  else
    let s := { s with pw := { s.pw with dipHold := true }.holds }
    let s := ((s.count fPW_DIPLOG_COUNT).setFld fPW_DIPLOG_MINV (min minv 0xFFFF)).pwEvent fPW_EVSTAT_DIP
    s.hostEvents fPX_HEVT_SUPPLY

/-- DIP_HOLD_END (R424). -/
def State.dipHoldEnd (s : State) : State := { s with pw := { s.pw with dipHold := false } }

/-- A junction or a layer is too hot (R426): a thermal hold begins, or the one in force has a further reason
(log entry 84). -/
def State.thermalHold (s : State) (junction layer : Bool) : State :=
  let x := { s.pw with holdJunction := s.pw.holdJunction || junction, holdLayer := s.pw.holdLayer || layer }
  if s.pw.hold then { s with pw := x }
  else (({ s with pw := x.holds }).pwEvent fPW_EVSTAT_THOLD).hostEvents fPX_HEVT_THERMAL

/-- A junction reading moves the thermal clock (R426). -/
def State.junction (s : State) (c : Nat) (t : Int) : State :=
  let tjt : Int := s.fld fPW_THERM_TJT
  let s := { s with pw := { s.pw with tj := put 0 s.pw.tj c t } }
  let f := s.fld fPW_CL_CLK_THERM5 c
  if tjt ≤ t then
    let s := s.setFld fPW_CL_CLK_THERM5 (max 160 (f - 5)) c
    if get false s.pw.throttled c then s
    else
      let s := { s with pw := { s.pw with throttled := put false s.pw.throttled c true } }
      ((s.setFld fPW_EVSTAT_CLUSTER c).pwEvent fPW_EVSTAT_THROTTLE).hostEvents fPX_HEVT_THERMAL
  else if t ≤ tjt - 5 then
    { s with pw := { s.pw with throttled := put false s.pw.throttled c false } }.setFld fPW_CL_CLK_THERM5 (min 340 (f + 5)) c
  else s

/-- The 8-bit two's complement code of a temperature. -/
def tempCode (t : Int) : Nat := wrapTo 8 (clampInt (-128) 127 t)

/-- The layer readings of a slice (R316, R321): the refresh rate follows, and more than 95 °C is an event. -/
def State.layersRead (s : State) (sl : Nat) (ts : List Int) : State :=
  let s := (List.range 4).foldl (fun t i =>
    t.setFld ([fDR_TEMP_T0, fDR_TEMP_T1, fDR_TEMP_T2, fDR_TEMP_T3].getD i fDR_TEMP_T3) (tempCode (ts.getD i 0)) sl) s
  let s := s.modSlice sl fun x =>
    { x with hot := if ts.any fun t => decide (85 < t) then true else if ts.all fun t => decide (t ≤ 83) then false else x.hot }
  if (ts.any fun t => decide (95 < t)) ∧ !s.flag fDR_EVSTAT_TEMP95 then
    ((s.setFld fDR_EVSTAT_SLICE sl).setFlag fDR_EVSTAT_TEMP95 true).deviceEvent 1
  else s

/-- The greatest of a list of temperatures. -/
def hottest (ts : List Int) : Int := ts.foldl max (-128)

/-- TEMPERATURE_SAMPLE (R426, R427): one reading of every junction and of the four layers of every slice. -/
def State.temperatureSample (s : State) (js : List Int) (layers : List (List Int)) : State :=
  if !s.pw.railsOn then s
  else
    let s := (js.zip (List.range 24)).foldl (fun t q => t.junction q.2 q.1) s
    let s := (layers.zip (List.range 192)).foldl (fun t q => t.layersRead q.2 q.1) s
    let j := hottest (js.take 24)
    let d := hottest ((layers.take 192).flatten)
    let s := (s.setFld fPW_THERM_JMAX (tempCode j)).setFld fPW_THERM_DMAX (tempCode d)
    let s := if 105 ≤ j ∨ 95 < d then s.thermalHold (decide (105 ≤ j)) (decide (95 < d)) else s
    if 115 ≤ j ∨ 105 ≤ d then s.trip else s

/-- THERMAL_HOLD_END (R426): the junctions' reason ends once every junction is at most 100 °C, and the layers' once every
layer is at most 90 °C. The hold ends with its last reason. -/
def State.thermalHoldEnd (s : State) : State :=
  { s with pw := { s.pw with
    holdJunction := s.pw.holdJunction && decide (100 < signedOf 8 (s.fld fPW_THERM_JMAX))
    holdLayer := s.pw.holdLayer && decide (90 < signedOf 8 (s.fld fPW_THERM_DMAX)) } }

def execMark (slice : SliceId) (s : State) : Host.Outcome State Fault Refusal := .next (s.mark slice)
def execTelemetry (vin : Nat) (pin : Nat) (rails : List (Nat × Nat)) (s : State) : Host.Outcome State Fault Refusal :=
  .next (s.telemetry vin pin rails)
def execControlTick (est : List Nat) (s : State) : Host.Outcome State Fault Refusal := .next (s.controlTick est)
def execActivityStep (s : State) : Host.Outcome State Fault Refusal := .next s.activityStep
def execTestStrip (measured : Nat) (s : State) : Host.Outcome State Fault Refusal := .next (s.testStrip measured)
def execCapmiss (s : State) : Host.Outcome State Fault Refusal := .next s.capmiss
def execCapWrite (rq : Requester) (value : BitVec 32) (s : State) : Host.Outcome State Fault Refusal :=
  .next (s.regCommand rq 3 4 value.toNat fun t => t.capWrite (value.toNat % 1024))
def execDipHold (minv : Nat) (s : State) : Host.Outcome State Fault Refusal := .next (s.dipHold minv)
def execDipHoldEnd (s : State) : Host.Outcome State Fault Refusal := .next s.dipHoldEnd
def execTemperatureSample (junctions : List Int) (layers : List (List Int)) (s : State) :
    Host.Outcome State Fault Refusal := .next (s.temperatureSample junctions layers)
def execThermalHoldEnd (s : State) : Host.Outcome State Fault Refusal := .next s.thermalHoldEnd
def execDensitometer (slack : List Nat) (s : State) : Host.Outcome State Fault Refusal := .next (s.densitometer slack)
def execRun (rq : Requester) (s : State) : Host.Outcome State Fault Refusal :=
  .next (s.regCommand rq 3 0x2C 0x40000000 State.densRun)
def execDensitometerStep (cluster : ClusterId) (slack : Nat) (s : State) : Host.Outcome State Fault Refusal :=
  .next (s.densitometerStep cluster slack)

end Sys2Proof.Machine
end

