-- ==== Sys2Proof/Machine/Schedules.lean ====
section
/-! DEFINITION. What the loader checks of router tables and slice schedules (R160, R163, R317): the fields of
entries, the nesting of loops, and the beats of one frame. -/

namespace Sys2Proof.Machine

/-! ### Loops -/

/-- A LOOP entry: its index, its level and the first entry of its body. -/
structure LoopAt where
  i    : Nat
  lvl  : Bool
  back : Nat
  deriving DecidableEq, Repr

/-- Whether the loops of a table are nested as R160 asks: no level-0 LOOP in a level-0 body, and every body
wholly inside every level-1 body it overlaps. -/
def loopsNest (ls : List LoopAt) : Bool :=
  ls.all fun a =>
    decide (a.back < a.i) &&
      ls.all fun b =>
        !(!a.lvl && !b.lvl && decide (a.back ≤ b.i ∧ b.i < a.i)) &&
          !(b.lvl && a.i != b.i && decide (a.back < b.i ∧ b.back < a.i) && !decide (b.back ≤ a.back ∧ a.i ≤ b.i))

/-! ### Router tables (R158–R160) -/

/-- Whether a port exists at a router on the stream planes (R150). -/
def portExists (r port : Nat) : Bool :=
  port == 4 || (port == 5 && (routerSlice r).isSome) || (neighbour r port).isSome

/-- Whether an entry of a router table keeps the field rules of R160. -/
def sideEntryOk (r port : Nat) (out : Bool) (i e : Nat) : Bool :=
  match bits e 31 30 with
  | 0 =>
    if out then bits e 26 16 == 0 && portExists r (bits e 29 27)
    else (omask e).all (portExists r) && (if port = 4 then bits e 22 21 != 3 else bits e 23 16 == 0)
  | 1 => bits e 20 16 == 0
  | 2 => bits e 29 0 == 0
  | _ => bits e 29 0 == 0 && i == 0

/-- The loops of a router table. -/
def sideLoops (tab : Nat → Nat) : List LoopAt :=
  (List.range 256).filterMap fun i =>
    let e := tab i
    if bits e 31 30 = 1 then some ⟨i, bit e 29, bits e 28 21⟩ else none

/-- Whether a table keeps the rules that name one table only (R160). -/
def sideTableOk (r port : Nat) (out : Bool) (tab : Nat → Nat) : Bool :=
  ((List.range 256).all fun i => sideEntryOk r port out i (tab i)) && loopsNest (sideLoops tab)

/-- The BEATS entries that one period visits, in order. A period ends at WRAP or after entry 255. -/
def sideVisits (tab : Nat → Nat) : Nat → Cursor → List Nat
  | 0, _ => []
  | fuel + 1, c =>
    let e := tab c.entry
    match bits e 31 30 with
    | 0 => c.entry :: (if c.entry = 255 then [] else sideVisits tab fuel { c with entry := c.entry + 1 })
    | 1 =>
      let left := (if bit e 29 then c.left1 else c.left0).getD (bits e 15 0)
      if left = 0 ∧ c.entry = 255 then []
      else sideVisits tab fuel (c.loop (bit e 29) (bits e 28 21) (bits e 15 0))
    | _ => []

/-- The start of a table. -/
def atStart : Cursor := ⟨0, none, none⟩

/-- The entries of the beats of one frame at a side, beat by beat. -/
def State.frameBeats (s : State) (r p port : Nat) (out : Bool) : List Nat :=
  let key := sideKey r p port out
  let tab := s.tableEntry key
  let one := (sideVisits tab loopFuel atStart).flatMap fun i => List.replicate (entryCount (tab i) port out + 1) (tab i)
  (List.replicate (get 0 s.periods key + 1) one).flatten

/-- Whether over one frame each output takes from each input what it sends there, and each link carries what its
far end receives (R160). -/
def State.flowsOk (s : State) (r p : Nat) : Bool :=
  (List.range 6).all fun i =>
    let ins := s.frameBeats r p i false
    ((List.range 6).all fun o =>
      (ins.filter fun e => bit (bits e 29 24) o).length
        == ((s.frameBeats r p o true).filter fun e => bits e 29 27 == i).length) &&
      match neighbour r i with
      | some n => (s.frameBeats n p (opposite i) true).length == ins.length
      | none => true

/-- The place in a list of the n-th element a test accepts. -/
def nthWhere (f : Nat → Bool) : List Nat → Nat → Nat → Option Nat
  | [], _, _ => none
  | a :: r, n, i => if f a then (if n = 0 then some i else nthWhere f r (n - 1) (i + 1)) else nthWhere f r n (i + 1)

/-- The exits that beat j of an input side reaches in one frame, as router and port 4 or 5. -/
def State.beatExits (s : State) (p : Nat) : Nat → Nat → Nat → Nat → List (Nat × Nat)
  | 0, _, _, _ => []
  | fuel + 1, r, port, j =>
    let ins := s.frameBeats r p port false
    (omask (ins.getD j 0)).flatMap fun o =>
      if 4 ≤ o then [(r, o)]
      else
        let m := ((ins.take j).filter fun e => bit (bits e 29 24) o).length
        match nthWhere (fun e => bits e 29 27 == port) (s.frameBeats r p o true) m 0, neighbour r o with
        | some n, some q => State.beatExits s p fuel q (opposite o) n
        | _, _ => []

/-- A bound on the links that any route takes. -/
def routeFuel : Nat := 10000

/-- Whether the beats of every L-input entry reach the exit that it names (R160). -/
def State.routesOk (s : State) (k p : Nat) : Bool :=
  let ins := s.frameBeats k p 4 false
  (List.range ins.length).all fun j =>
    let e := ins.getD j 0
    let exits := s.beatExits p routeFuel k 4 j
    let dest := bits e 20 11
    if bits e 22 21 = 0 then exits.contains (dest, 4) else exits == [(sliceRouter dest, 5)] && decide (dest < 192)

/-! ### Slice schedules (R161, R163, R317) -/

/-- Whether an entry of a slice schedule has its reserved bits zero and a kind that is not reserved. -/
def sliceEntryOk (e : Nat) : Bool :=
  match bits e 31 29 with
  | 0 => bits e 28 27 != 3 && bits e 18 16 == 0
  | 1 => bits e 28 16 == 0
  | 2 => bits e 28 16 == 0
  | 3 => bits e 28 6 == 0
  | 4 => bits e 19 16 == 0
  | 5 => bits e 28 0 == 0
  | _ => false

/-- The loops of a slice schedule. -/
def sliceLoops (tab : Nat → Nat) : List LoopAt :=
  (List.range 256).filterMap fun i =>
    let e := tab i
    if bits e 31 29 = 4 then some ⟨i, bit e 28, bits e 27 20⟩ else none

/-- The entries, other than LOOP and WRAP, that one period visits. -/
def sliceVisits (tab : Nat → Nat) : Nat → Cursor → List Nat
  | 0, _ => []
  | fuel + 1, c =>
    let e := tab c.entry
    match bits e 31 29 with
    | 4 =>
      let left := (if bit e 28 then c.left1 else c.left0).getD (bits e 15 0)
      if left = 0 ∧ c.entry = 255 then []
      else sliceVisits tab fuel (c.loop (bit e 28) (bits e 27 20) (bits e 15 0))
    | 5 => []
    | _ => e :: (if c.entry = 255 then [] else sliceVisits tab fuel { c with entry := c.entry + 1 })

/-- The slots of an entry (R161): two for each beat of a STREAM window, none for MARK. -/
def slotsOf (e : Nat) : Nat :=
  match bits e 31 29 with
  | 0 => 2 * (bits e 15 0 + 1)
  | 3 => 0
  | _ => bits e 15 0 + 1

/-- The longest run of slots between two successive windows of a kind, in two periods, from a run so far. No
window before the first counts. -/
def longestGap (kind : Nat) : List Nat → Option Nat → Nat
  | [], _ => 0
  | e :: r, run =>
    if bits e 31 29 = kind then max (run.getD 0) (longestGap kind r (some 0))
    else longestGap kind r (run.map (· + slotsOf e))

/-- Total slots of a list of entries. -/
def totalSlots (l : List Nat) : Nat := (l.map slotsOf).foldl (· + ·) 0

/-- Whether a schedule keeps the rules that name one schedule only (R160, R163, R317). -/
def scheduleOk (tab : Nat → Nat) : Bool :=
  let v := sliceVisits tab loopFuel atStart
  let all := totalSlots v
  let kind (k : Nat) : List Nat := v.filter fun e => bits e 31 29 == k
  ((List.range 256).all fun i => sliceEntryOk (tab i)) && loopsNest (sliceLoops tab)
    && decide (all ≤ 8 * totalSlots (kind 1))
    && decide (all ≤ 64 * ((kind 2).map fun e => slotsOf e / 8 * 8).foldl (· + ·) 0)
    && decide (longestGap 1 (v ++ v) none ≤ 1024) && decide (longestGap 2 (v ++ v) none ≤ 8192)
    && (kind 2).all fun e => decide (8 ≤ slotsOf e)

/-- Whether a slice's STREAM beats of a plane are those that reach its router's D output in one frame (R163). -/
def State.sliceFlowOk (s : State) (sl p : Nat) : Bool :=
  let v := (sliceVisits (s.sliceEntry sl) loopFuel atStart).filter fun e => bits e 31 29 == 0 && bits e 28 27 == p
  (get 0 s.periods (100000 + sl) + 1) * (v.map fun e => bits e 15 0 + 1).foldl (· + ·) 0
    == (s.frameBeats (sliceRouter sl) p 5 true).length

end Sys2Proof.Machine
end

