-- ==== Sys2Proof/Machine/Negative.lean ====
section
/-! DEFINITION. The negative (R381–R393, R420, R421): bank headers, the directory, items, settings, clamps and
the proof, the checks across items, and what an accepted image sets. -/

namespace Sys2Proof.Machine

/-! ### Module flash (R381, R382) -/

/-- Bytes of a bank from a bank offset. -/
def Sec.bankBytes (x : Sec) (b o n : Nat) : List Byte := getBytes 0 x.flash (b * 0x20000000 + o) n
def Sec.bankLe (x : Sec) (b o n : Nat) : Nat := leNat (x.bankBytes b o n)

/-- Bytes of a bank's image; it follows the header of 4 KiB. -/
def Sec.imageBytes (x : Sec) (b o n : Nat) : List Byte := x.bankBytes b (4096 + o) n
def Sec.imageLe (x : Sec) (b o n : Nat) : Nat := leNat (x.imageBytes b o n)

/-- The first failing test of a bank header against an owner's key, as its cause, or 0 (R383); one that cannot be read
has cause 0xD (R390). -/
def Sec.headerCause (x : Sec) (b : Nat) (owner : Option (List Byte)) : Nat :=
  let len := x.bankLe b 16 4
  if !x.pagesGood (b * 0x20000000) 4096 then 0xD
  else if x.bankLe b 0 4 ≠ 0x4E314739 ∨ x.bankLe b 4 2 ≠ 1 ∨ len % 64 ≠ 0 ∨ len < 64 ∨ 469762048 < len
      ∨ x.bankLe b 22 2 < 1 ∨ 10 < x.bankLe b 22 2 then 1
  else match owner with
    | none => 2
    | some key =>
      if x.bankBytes b 32 32 ≠ keyDigest key then 2
      else if !mldsaVerify key (x.bankBytes b 0 192) (x.bankBytes b 192 3309) then 3
      else if x.bankLe b 20 2 < x.dd.svnFloor then 4
      else 0

/-- SEQ of a bank with an acceptable header, else 0. -/
def Sec.bankSeq (x : Sec) (b : Nat) : Nat := if x.headerCause b x.owner = 0 then x.bankLe b 8 8 else 0

/-! ### The directory and items (R385–R387) -/

/-- A directory entry. -/
structure DirEntry where
  type   : Nat
  offset : Nat
  len    : Nat
  digest : List Byte
  deriving DecidableEq, Repr

/-- The directory of a bank's image. -/
def Sec.directory (x : Sec) (b : Nat) : List DirEntry :=
  (List.range (x.bankLe b 22 2)).map fun i =>
    ⟨x.imageLe b (80 * i) 2, x.imageLe b (80 * i + 4) 4, x.imageLe b (80 * i + 8) 4, x.imageBytes b (80 * i + 16) 64⟩

/-- Whether entries have strictly rising types of the table and lie in the image, aligned, after the directory
and apart from one another, with every required section there (R385, R386). -/
def directoryOk (ds : List DirEntry) (len : Nat) : Bool :=
  let n := ds.length
  ((List.range n).all fun i =>
    match ds[i]? with
    | none => true
    | some d =>
      decide (1 ≤ d.type ∧ d.type ≤ 10) && d.offset % 64 == 0 && decide (80 * n ≤ d.offset)
        && decide (d.offset + d.len ≤ len)
        && (ds.drop (i + 1)).all fun e =>
          decide (d.type < e.type) && (decide (d.offset + d.len ≤ e.offset) || decide (e.offset + e.len ≤ d.offset)))
    && [1, 2, 3, 4, 6, 7].all fun t => ds.any (·.type == t)

/-- An item: its header and where its body stands in the image. -/
structure Item where
  kind   : Nat
  unit   : Nat
  sub    : Nat
  len    : Nat
  period : Nat
  body   : Nat
  deriving DecidableEq, Repr

/-- The items of a section from a position to its end; none stands for a body past the end. -/
def Sec.items (x : Sec) (b : Nat) : Nat → Nat → Nat → List (Option Item)
  | 0, _, _ => []
  | fuel + 1, pos, fin =>
    if fin ≤ pos then []
    else if fin < pos + 16 then [none]
    else
      let len := x.imageLe b (pos + 8) 4
      if fin < pos + 16 + len then [none]
      else
        some ⟨x.imageLe b pos 2, x.imageLe b (pos + 2) 2, x.imageLe b (pos + 4) 2, len, x.imageLe b (pos + 12) 2, pos + 16⟩
          :: Sec.items x b fuel (pos + 16 + (len + 15) / 16 * 16) fin

/-- The item kinds that a section admits (R386). -/
def sectionKinds (t : Nat) : List Nat :=
  match t with
  | 1 => [1, 2]
  | 2 => [1, 2]
  | 3 => [1, 3]
  | 4 => [1, 4]
  | 5 => [5]
  | 6 => [6, 7, 8]
  | 7 => [1]
  | 8 => [1, 9]
  | 9 => [1]
  | 10 => [10]
  | _ => []

/-! ### A load in progress -/

/-- What a load has built: the state with the values applied so far, the proof, and what it must check later. -/
structure Load where
  st      : State
  recs    : List (List Byte) := []
  total   : Nat := 0
  /-- Settings seen, field × 65,536 + unit, with the item that held each. -/
  seen    : SMap Nat := []
  /-- Values of D4LEN, checked when the section ends: unit, value. -/
  lens    : List (Nat × Nat) := []
  /-- Bases placed: field, address, bytes. -/
  bases   : List (Nat × Nat × Nat) := []
  /-- Tables, apertures, translation entries, homes, barriers and hints seen, and the item of each, by
  class × 2^32 + key. -/
  placed  : SMap Nat := []
  /-- Applied translation entries that name barriers: field, index. -/
  barRefs : List (Nat × Nat) := []
  /-- Aperture items that ask to be opened, in order: unit, the value supplied for SP_APn_CTRL. -/
  opens   : List (Nat × Nat) := []
  /-- The values that this load has given D4BASE, by unit. -/
  d4base  : SMap Nat := []
  meas    : SMap (List Byte) := []
  deriving DecidableEq, Repr

/-- A refusal: its cause, the section and the item (R390). -/
structure Refused where
  cause : Nat
  sect  : Nat := 0
  item  : Nat := 0xFFFFFF
  deriving DecidableEq, Repr

/-- A step of a load: a load, or a refusal. -/
abbrev LoadStep := Except Refused Load

/-- Appends a proof record (R388, R391); beyond 149 it only counts. -/
def Load.clamp (l : Load) (field unit reason sect supplied applied : Nat) : Load :=
  let r := leBytes 2 field ++ leBytes 2 unit ++ leBytes 1 reason ++ leBytes 1 sect ++ leBytes 2 0
    ++ leBytes 8 supplied ++ leBytes 8 applied
  { l with total := l.total + 1, recs := if l.recs.length < 149 then l.recs ++ [r] else l.recs }

/-- The key of a thing placed. -/
def placeKey (cls key : Nat) : Nat := cls * 0x100000000 + key

/-- Whether a thing has been placed by an earlier item. -/
def Load.has (l : Load) (cls key : Nat) : Bool := get 0 l.placed (placeKey cls key) != 0

/-- The item that placed a thing, 0xFFFFFF for none. -/
def Load.itemOf (l : Load) (cls key : Nat) : Nat :=
  match get 0 l.placed (placeKey cls key) with
  | 0 => 0xFFFFFF
  | n + 1 => n

def Load.mark (l : Load) (cls key item : Nat) : Load := { l with placed := put 0 l.placed (placeKey cls key) (item + 1) }

/-- Runs steps over a list, up to the first refusal. -/
def stepAll {α : Type} (f : Load → α → LoadStep) : Load → List α → LoadStep
  | l, [] => .ok l
  | l, a :: r =>
    match f l a with
    | .ok l' => stepAll f l' r
    | .error e => .error e

/-! ### Settings (R389, R421) -/

/-- Least value, greatest value, default (none where required) and the bits a setting may hold. -/
structure Setting where
  lo   : Nat
  hi   : Nat
  dflt : Option Nat
  mask : Nat
  deriving DecidableEq, Repr

/-- All 64 bits, the low 48, and the low 48 but the first n. -/
def mask64 : Nat := 0xFFFFFFFFFFFFFFFF
def mask48 : Nat := 0xFFFFFFFFFFFF
def mask48from (n : Nat) : Nat := mask48 - (2 ^ n - 1)

/-- A setting that is refused or clamped by its range only. -/
def ranged (lo hi d : Nat) : Option Setting := some ⟨lo, hi, some d, mask64⟩

/-- A setting that is clamped by its reserved bits only. -/
def masked (m d : Nat) : Option Setting := some ⟨0, mask64, some d, m⟩

/-- The settings tables. -/
def settingOf (f : Nat) : Option Setting :=
  match f with
  | 0x0101 => masked mask48 0
  | 0x0102 => masked (mask48from 8) 0
  | 0x0103 => masked (mask48from 6) 0
  | 0x0104 => masked mask48 0
  | 0x0105 => masked (mask48from 15) 0
  | 0x0106 => masked (mask48from 6) 0
  | 0x0107 => masked 0x77777770 0x44444440
  | 0x0108 => masked 0x77777777 0x44444444
  | 0x0109 => masked 0x77777777 0x44444444
  | 0x010A => masked 0x77777777 0x44444444
  | 0x010B => ranged 1 1048575 1000
  | 0x010C => ranged 1 1048575 1000
  | 0x010D => masked 0x8FFF 0
  | 0x0201 => ranged 0 255 1
  | 0x0301 => ranged 1 1048575 1000
  | 0x0302 => ranged 0 1 1
  | 0x0401 => ranged 0 1 1
  | 0x0402 => ranged 0 1 1
  | 0x0403 => ranged 1 168 24
  | 0x0404 => ranged 1 65535 1000
  | 0x0701 => ranged 0 1 0
  | 0x0702 => ranged 0 1 0
  | 0x0703 => ranged 1 512 512
  | 0x0704 => ranged 0 1000 0
  | 0x0705 => some ⟨0, mask64, none, mask64⟩
  | 0x0706 => some ⟨0, mask64, none, mask64⟩
  | 0x0707 => some ⟨0, mask64, none, mask64⟩
  | 0x0708 => some ⟨0, mask64, none, mask64⟩
  | 0x0709 => some ⟨0, mask64, none, mask64⟩
  | 0x070A => some ⟨0, mask64, none, mask64⟩
  | 0x070B => ranged 1 0xFFFFFF 1
  | 0x070C => masked 0x1FFFF 0
  | 0x070D => ranged 1 65535 1000
  | 0x0710 => ranged 0 1 0
  | 0x0711 => ranged 0 1 0
  | 0x0712 => ranged 1 65535 1000
  | 0x0713 => some ⟨0, 0x17FFFF0000, some 0, mask48from 16⟩
  | 0x0714 => ranged 0 1572864 0
  | 0x0801 => ranged 150 600 600
  | 0x0802 => ranged 0 60 12
  | 0x0803 => ranged 160 340 240
  | 0x0804 => ranged 1 255 16
  | 0x0805 => ranged 85 104 100
  | 0x0806 => ranged 64 2560 896
  | 0x0901 => ranged 1 15 3
  | 0x0902 => ranged 60 86400 600
  | 0x0903 => ranged 1 60 5
  | 0x0904 => ranged 256 16384 1024
  | 0x0905 => ranged 1 720 24
  | _ => none

/-- Every field identifier. -/
def allFields : List Nat :=
  span 0x101 13 ++ [0x201, 0x301, 0x302] ++ span 0x401 4 ++ span 0x701 13 ++ span 0x710 5 ++ span 0x801 6 ++ span 0x901 5

/-- The units a setting has in a section (R389). -/
def settingUnits (sect f : Nat) : List Nat :=
  if 0x0101 ≤ f ∧ f ≤ 0x010D then
    if sect = 1 then List.range 768
    else if sect = 2 ∧ f ≠ 0x010B ∧ f ≠ 0x010C then span 768 8 else []
  else if f / 256 ≠ sect then []
  else match f with
    | 0x0201 => List.range 8
    | 0x070C => List.range 4
    | 0x0710 => [0, 1]
    | 0x0711 => [0, 1]
    | 0x0712 => [0, 1]
    | 0x0713 => List.range 17 ++ span 32 17
    | 0x0714 => List.range 17 ++ span 32 17
    | _ => [0]

/-- Writes a pair of registers that hold an address. -/
def State.setPair (s : State) (lo hi : RegId) (u n v : Nat) : State :=
  (s.setReg lo u n (v % 0x100000000)).setReg hi u n (v / 0x100000000 % 0x10000)

/-- Settings that a warm reset leaves as they stand, since their registers are kept (R438). -/
def keptAtWarm (f : Nat) : Bool := decide (0x0710 ≤ f ∧ f ≤ 0x0714) || f == 0x0801

/-- Applies a setting's value. -/
def State.applySetting (s : State) (f u v : Nat) : State :=
  match f with
  | 0x0101 => s.modCore u fun x => { x with pc := BitVec.ofNat 48 v }
  | 0x0102 => s.modCore u fun x => { x with vbase := clearLow 8 v }
  | 0x0103 => s.modCore u fun x => { x with tsr := clearLow 6 v }
  | 0x0104 => s.modCore u fun x => { x with gtbase := BitVec.ofNat 48 v }
  | 0x0105 => s.modCore u fun x => { x with ttbase := clearLow 15 v }
  | 0x0106 => s.setPair .xcTslimLo .xcTslimHi u 0 v
  | 0x0107 => s.setReg .xcVlvl u 0 v
  | 0x0108 => s.setReg .xcVlvl u 1 v
  | 0x0109 => s.setReg .xcVlvl u 2 v
  | 0x010A => s.setReg .xcVlvl u 3 v
  | 0x010B => s.setFld fSP_TIMEOUT_US v u
  | 0x010C => s.setFld fDM_TIMEOUT_US v u
  | 0x010D => s.modCore u fun x => { x with syncctx := BitVec.ofNat 16 v &&& 0x8FFF }
  | 0x0201 => s.setReg .xcDevroute 0 u v
  | 0x0301 => s.setFld fMS_STALL_LIMIT_US v
  | 0x0302 => s.setFld fMS_CTRL_SIE v
  | 0x0401 => s.setFld fDR_CTRL_SCRUBEN v
  | 0x0402 => s.setFld fDR_CTRL_LANEAUTO v
  | 0x0403 => s.setFld fDR_SCRUBPER_HOURS v
  | 0x0404 => s.setFld fDR_LANETHR_COUNT v
  | 0x0701 => s.setFld fCX_CFG_ROLE v
  | 0x0702 => s.setFld fCX_CFG_PEERCLAIM v
  | 0x0703 => s.setFld fCX_CFG_SM1 (v - 1)
  | 0x0704 => s.setFld fCX_GATHER_US v
  | 0x0705 => s.setPair .cxSlotmapLo .cxSlotmapHi 0 0 v
  | 0x0706 => s.setPair .cxSlotinLo .cxSlotinHi 0 0 v
  | 0x0707 => s.setPair .cxSlotoutLo .cxSlotoutHi 0 0 v
  | 0x0708 => s.setPair .cxRingbaseLo .cxRingbaseHi 0 0 v
  | 0x0709 => s.setFld fCX_SYNC_DONEID v
  | 0x070A => s.setFld fCX_SYNC_RELID v
  | 0x070B => s.setFld fCX_RELINC_INC v
  | 0x070C => (s.setFld fCX_FWD_VALID (bits v 16 16) 0 u).setFld fCX_FWD_DEV (bits v 15 0) 0 u
  | 0x070D => s.setFld fCX_MAPRT_US v
  | 0x0710 => s.setFld fPX_PCTL_HBEN v u
  | 0x0711 => s.setFld fPX_PCTL_HOSTMAP v u
  | 0x0712 => s.setFld fPX_HLOST_MS v u
  | 0x0713 => s.setPair .pxFnD4baseLo .pxFnD4baseHi (u / 32) (u % 32) v
  | 0x0714 => s.setFld fPX_FN_D4LEN_LEN64K v (u / 32) (u % 32)
  | 0x0801 => s.setFld fPW_CAP_W v
  | 0x0802 => s.setFld fPW_MARGIN_W v
  | 0x0803 => s.setFld fPW_LEARN_DEFCAP5 v
  | 0x0804 => s.setFld fPW_LEARN_LEARNN v
  | 0x0805 => s.setFld fPW_THERM_TJT v
  | 0x0806 => s.setFld fPW_LEARN_LDEF v
  | 0x0901 => s.setFld fRS_RETCFG_N v
  | 0x0902 => s.setFld fRS_RETCFG_W v
  | 0x0903 => s.setFld fRS_SLCFG_TIMEOUT v
  | 0x0904 => s.setFld fPW_RAMP_CYCLES v
  | 0x0905 => s.setFld fPW_DENS_PERIODH v
  | _ => s

/-- Applies a setting, unless a warm reset keeps it. -/
def Load.apply (l : Load) (warm : Bool) (f u v : Nat) : Load :=
  let l := if f = 0x0713 then { l with d4base := put 0 l.d4base u v } else l
  if warm && keptAtWarm f then l else { l with st := l.st.applySetting f u v }

/-- The greatest D4LEN of a function, by the D4BASE that the negative gives it: an unchanged image so gives the same proof
(R393). -/
def Load.d4Limit (l : Load) (u : Nat) : Nat := (dramSize - get 0 l.d4base u) / 0x10000

/-- Clamps a value: reserved bits, then the range (R388). -/
def Load.clampSetting (l : Load) (sect f u lo hi mask v : Nat) : Load × Nat :=
  let (l, w) := if v &&& mask = v then (l, v) else (l.clamp f u 3 sect v (v &&& mask), v &&& mask)
  if w < lo then (l.clamp f u 1 sect v lo, lo)
  else if hi < w then (l.clamp f u 2 sect v hi, hi)
  else (l, w)

/-- Alignment and bytes of the four tables in DRAM (R213, R389). -/
def baseShape (f : Nat) : Nat × Nat :=
  match f with
  | 0x0705 => (0x1000, 0x1000)
  | 0x0706 => (0x8000, 0x8000)
  | 0x0707 => (0x8000, 0x8000)
  | _ => (0x10000, 0x3000000)

/-- A setting item (R389). -/
def Load.setting (l : Load) (warm : Bool) (sect item f u v : Nat) : LoadStep :=
  match settingOf f with
  | none => .error ⟨7, sect, item⟩
  | some c =>
    let key := f * 0x10000 + u
    if !(settingUnits sect f).contains u ∨ get 0 l.seen key ≠ 0 then .error ⟨7, sect, item⟩
    else
      let l := { l with seen := put 0 l.seen key (item + 1) }
      if 0x0705 ≤ f ∧ f ≤ 0x0708 then
        let (al, sz) := baseShape f
        if v % al ≠ 0 ∨ dramSize < v + sz then .error ⟨8, sect, item⟩
        else .ok ({ l with bases := l.bases ++ [(f, v, sz)] }.apply warm f u v)
      else if f = 0x0709 ∨ f = 0x070A then
        let e := (get 0 l.st.sync.xlatGlb v).toNat
        if 1024 ≤ v ∨ !bit e 15 ∨ bit e 14 then .error ⟨8, sect, item⟩ else .ok (l.apply warm f u v)
      else if f = 0x0714 then .ok { l with lens := l.lens ++ [(u, v)] }
      else
        let (l, w) := l.clampSetting sect f u c.lo c.hi c.mask v
        .ok (l.apply warm f u w)

/-! ### Other items (R387) -/

/-- A memory image: its target, its bytes, and for a supervisor core its measurement (R387, R401). A core of the other
kind is not its target (R390). -/
def Load.image (l : Load) (sect item unit addr : Nat) (data body : List Byte) : LoadStep :=
  let n := data.length
  if 775 < unit then .error ⟨7, sect, item⟩
  else if sect = 1 ∧ 768 ≤ unit ∨ sect = 2 ∧ unit < 768 then .error ⟨9, sect, item⟩
  else if sect = 1 then
    match spPlace addr with
    | some (k, o) =>
      if k = unit ∧ o + n ≤ 0x100000 then
        .ok { l with st := l.st.modSp k fun p => { p with mem := putBytes 0 p.mem o data } }
      else .error ⟨9, sect, item⟩
    | none => .error ⟨9, sect, item⟩
  else
    match sramPlace addr with
    | some o =>
      if o + n ≤ sramSize then
        .ok { l with
          st := (l.st.sramWrite o data (data.map fun _ => true)).2
          meas := upd [] l.meas (unit - 768) (· ++ body) }
      else .error ⟨9, sect, item⟩
    | none => .error ⟨9, sect, item⟩

/-- The 32-bit words of a list of bytes. -/
def words32 (l : List Byte) : List Nat := (chunks 4 l.length l).map leNat

/-- A router table. -/
def Load.table (l : Load) (sect item unit sub period : Nat) (ws : List Nat) : LoadStep :=
  let p := bits sub 1 0
  let port := bits sub 4 2
  let key := sideKey unit p port (bit sub 5)
  if 768 ≤ unit ∨ p = 3 ∨ 5 < port ∨ 64 ≤ sub ∨ 4095 < period ∨ l.has 3 key then .error ⟨7, sect, item⟩
  else
    let s := l.st
    let s := (ws.zip (List.range 256)).foldl (fun t q =>
      { t with tables := put 0 t.tables (key * 256 + q.2)
                 (BitVec.ofNat 32 (q.1 ^^^ (if q.2 = 0 then 0xC0000000 else 0))) }) s
    let s := { s with periods := put 0 s.periods key period }
    if sideTableOk unit port (bit sub 5) (s.tableEntry key) then .ok ({ l with st := s }.mark 3 key item)
    else .error ⟨0xA, sect, item⟩

/-- A slice schedule. -/
def Load.schedule (l : Load) (sect item unit period : Nat) (ws : List Nat) : LoadStep :=
  if 192 ≤ unit ∨ 4095 < period ∨ l.has 4 unit then .error ⟨7, sect, item⟩
  else
    let s := l.st
    let s := (ws.zip (List.range 256)).foldl (fun t q =>
      { t with schedules := put 0 t.schedules (unit * 256 + q.2) (BitVec.ofNat 32 (q.1 ^^^ defaultSchedule q.2)) }) s
    let s := { s with periods := put 0 s.periods (100000 + unit) period }
    if scheduleOk (s.sliceEntry unit) then .ok ({ l with st := s }.mark 4 unit item)
    else .error ⟨0xA, sect, item⟩

/-- The bits that the five aperture registers hold (R127). -/
def apMask : List Nat := [0x1FFF1FFF, 0x03FFFF1F, 0xFFFFFFFF, 0x03FF03FF, 0x8000FF3F]

/-- An aperture item (R125, R388): reserved bits are cleared, and an aperture whose own fields fail R114 stays closed; its
overlap with others is tested as the section ends. -/
def Load.aperture (l : Load) (sect item unit : Nat) (ws : List Nat) : LoadStep :=
  let k := unit / 16
  let n := unit % 16
  if 12288 ≤ unit ∨ l.has 5 unit then .error ⟨7, sect, item⟩
  else
    let vals := (ws.zip apMask).map fun q => q.1 &&& q.2
    let l := ((ws.zip vals).zip (List.range 5)).foldl (fun t q =>
      if q.1.1 = q.1.2 then t else t.clamp (0x0501 + q.2) unit 3 sect q.1.1 q.1.2) l
    let s := ((([RegId.spApRect, .spApShape, .spApSrc, .spApReq, .spApCtrl]).zip vals)).foldl
      (fun t q => t.setReg q.1 k n q.2) l.st
    let ctrl := vals.getD 4 0
    let l := l.mark 5 unit item
    if !bit ctrl 31 then .ok { l with st := s }
    else if (s.apDesc k n).valid then .ok { l with st := s, opens := l.opens ++ [(unit, ws.getD 4 0)] }
    else .ok ({ l with st := s.setFlag fSP_AP_CTRL_OPEN false k n }.clamp 0x0505 unit 4 sect (ws.getD 4 0)
        (setBits ctrl 31 31 0))

/-- The end of section 0x05: each aperture that asks for it opens, unless it overlaps one that has opened (R114, R388). -/
def Load.endApertures (l : Load) : Load :=
  l.opens.foldl (fun t q =>
    let k := q.1 / 16
    let n := q.1 % 16
    if t.st.apCanOpen k n then { t with st := t.st.setAp k n { state := .opened } }
    else
      let held := t.st.reg .spApCtrl k n
      { t with st := t.st.setFlag fSP_AP_CTRL_OPEN false k n }.clamp 0x0505 q.1 4 5 q.2 (setBits held 31 31 0)) l

/-- Translation entries: an entry that an earlier item gave stands. -/
def Load.translations (l : Load) (sect item sub first : Nat) (es : List Nat) : LoadStep :=
  if 1 < sub ∨ (if sub = 1 then 1024 else 65536) < first + es.length then .error ⟨7, sect, item⟩
  else
    .ok ((es.zip (List.range es.length)).foldl (fun t q =>
      let i := first + q.2
      if t.has (8 + sub) i then t
      else
        let y := t.st.sync
        let y := if sub = 1 then { y with xlatGlb := put 0 y.xlatGlb i (BitVec.ofNat 16 q.1) }
          else { y with xlat := put 0 y.xlat i (BitVec.ofNat 16 q.1) }
        let t := { t with st := { t.st with sync := y } }.mark (8 + sub) i item
        if bit q.1 15 ∧ bit q.1 14 then { t with barRefs := t.barRefs ++ [(0x0601 + sub, i)] } else t) l)

/-- Counter homes. -/
def Load.homes (l : Load) (sect item first : Nat) (hs : List Nat) : LoadStep :=
  if 16384 < first + hs.length then .error ⟨7, sect, item⟩
  else
    .ok ((hs.zip (List.range hs.length)).foldl (fun t q =>
      let p := first + q.2
      if t.has 7 p then t
      else
        let t := if 775 < q.1 then t.clamp 0x0603 p 4 sect q.1 768 else t
        let h := if 775 < q.1 then 768 else q.1
        { t with st := t.st.setCtr p { t.st.ctr p with home := h } }.mark 7 p item) l)

/-- Records a barrier value with reserved bits, under the identifier of the barrier (R388, notes/assumptions/129.md). -/
def Load.heldBits (l : Load) (unit v mask : Nat) : Load × Nat :=
  if v &&& mask = v then (l, v) else (l.clamp 0x0610 unit 3 6 v (v &&& mask), v &&& mask)

/-- A barrier item (R388): reserved bits of its values are cleared, each value with its record. -/
def Load.barrier (l : Load) (sect item unit : Nat) (ws : List Nat) : LoadStep :=
  if 63 < unit then .error ⟨7, sect, item⟩
  else if l.has 6 unit then .ok l
  else
    let (l, cfg) := l.heldBits unit (ws.getD 0 0) 0xC0FFFFFF
    let (l, inc) := l.heldBits unit (ws.getD 1 0) 0xFFFFFF
    let (l, root) := l.heldBits unit (ws.getD 2 0) 0xFFFF
    let (l, exps) := (List.range 25).foldl (fun (acc : Load × List Nat) i =>
      let (t, e) := acc.1.heldBits unit (ws.getD (4 + i) 0) 0xFFFFFF
      (t, acc.2 ++ [e])) (l, [])
    let home := bits cfg 23 14
    let l := if 775 < home then l.clamp 0x0610 unit 4 sect home 768 else l
    let cfg := if 775 < home then setBits cfg 23 14 768 else cfg
    let exp := (List.range 25).foldl (fun m i => put 0 m i (exps.getD i 0)) []
    .ok ({ l with st := l.st.setBar unit {
      cfg := BitVec.ofNat 32 cfg, inc := BitVec.ofNat 32 inc, root := BitVec.ofNat 32 root
      box := BitVec.ofNat 32 (ws.getD 3 0), exp := exp } }.mark 6 unit item)

/-- A phase hint (R420). -/
def Load.hint (l : Load) (sect item unit : Nat) (vs : List Nat) : LoadStep :=
  if 63 < unit then .error ⟨7, sect, item⟩
  else if l.has 10 unit then .ok l
  else
    .ok ((vs.zip (List.range 24)).foldl (fun t q =>
      let t := if 2560 < q.1 then t.clamp 0x0810 (unit * 32 + q.2) 2 sect q.1 2560 else t
      let v := min q.1 2560
      if v = 0 then t
      else { t with st := { t.st with pw := { t.st.pw with
        learned := put {} t.st.pw.learned (q.2 * 64 + unit) ⟨v, 0, true⟩ } } }) (l.mark 10 unit item))

/-! ### The domain section (R337–R339, R342) -/

/-- A field of the domain section clamped to a range. -/
def Load.clampDomain (l : Load) (field unit lo hi v : Nat) : Load × Nat := l.clampSetting 10 field unit lo hi mask64 v

/-- Records a reserved field of the domain section that is not zero (R338). -/
def Load.reserved (l : Load) (field unit v : Nat) : Load := if v = 0 then l else l.clamp field unit 3 10 v 0

/-- A role word with reserved codes cleared to unused. -/
def rolesHeld (r : Nat) : Nat :=
  (List.range 8).foldl (fun x k => if bits x (2 * k + 1) (2 * k) = 3 then setBits x (2 * k + 1) (2 * k) 0 else x) r

/-- The role of a link in a device entry. -/
def DomDevice.role (d : DomDevice) (k : Nat) : Nat := bits d.roles (2 * k + 1) (2 * k)

/-- Whether a list has no repeats. -/
def noRepeats {α : Type} [DecidableEq α] : List α → Bool
  | [] => true
  | a :: r => !r.contains a && noRepeats r

/-- Whether two ranges of device IDs meet. -/
def rangesMeet (a b : DomRange) : Bool := decide (a.first ≤ b.last ∧ b.first ≤ a.last ∧ a.first ≤ a.last ∧ b.first ≤ b.last)

/-- The refusals of R338. -/
def Domain.ok (d : Domain) : Bool :=
  let n (i : Nat) : Nat := d.sizes.getD i 1
  let ndev := d.devices.length
  (ndev == 0 || ndev == n 0 * n 1 * n 2 * n 3)
    && noRepeats (d.devices.map (·.digest)) && noRepeats (d.devices.map (·.dev)) && noRepeats (d.devices.map (·.coord))
    && (d.devices.all fun e => (List.range 4).all fun i => decide (coordOf e.coord i < n i))
    && (d.devices.all fun e => (List.range 8).all fun k =>
      if n (k / 2) = 1 then e.role k != 1 else e.role k == 1)
    && (d.bridges.all fun b => decide (b.link < 8) && d.devices.any fun e => e.dev == b.dev && e.role b.link == 2)
    && ((List.range d.ranges.length).all fun i =>
      match d.ranges[i]? with
      | none => true
      | some r =>
        !((d.ranges.drop (i + 1)).any (rangesMeet r))
          && !(d.devices.any fun e => decide (r.first ≤ e.dev ∧ e.dev ≤ r.last))
          && d.bridges.any fun b => b.dev == r.dev && b.link == r.link)

/-- A domain item: LENGTH must be that of its parts. -/
def Load.domain (l : Load) (item : Nat) (bs : List Byte) : LoadStep :=
  let le (o n : Nat) : Nat := leNat ((bs.drop o).take n)
  let nd := le 4 2
  let nb := le 6 2
  let nr := le 8 2
  if bs.length < 32 ∨ bs.length ≠ 32 + 40 * nd + 40 * nb + 8 * nr then .error ⟨7, 10, item⟩
  else if l.has 11 0 then .ok l
  else
    let (l, a) := l.clampDomain 0x0A01 0 1 16 (le 0 1)
    let (l, b) := l.clampDomain 0x0A01 0 1 16 (le 1 1)
    let (l, c) := l.clampDomain 0x0A01 0 1 12 (le 2 1)
    let (l, e) := l.clampDomain 0x0A01 0 1 8 (le 3 1)
    let (l, lost) := l.clampDomain 0x0A01 0 1 65535 (le 12 4)
    let (l, drain) := l.clampDomain 0x0A01 0 1 65535 (le 16 4)
    let l := if le 20 1 < 2 then l else l.clamp 0x0A01 0 3 10 (le 20 1) (le 20 1 % 2)
    let l := l.reserved 0x0A01 0 (le 21 11)
    let dv (i : Nat) : Nat := 32 + 40 * i
    let br (i : Nat) : Nat := 32 + 40 * nd + 40 * i
    let rg (i : Nat) : Nat := 32 + 40 * nd + 40 * nb + 8 * i
    let l := (List.range nd).foldl (fun t i =>
      let r := le (dv i + 36) 2
      let t := if rolesHeld r = r then t else t.clamp 0x0A02 i 3 10 r (rolesHeld r)
      t.reserved 0x0A02 i (le (dv i + 38) 2)) l
    let l := (List.range nb).foldl (fun t i =>
      (t.reserved 0x0A03 i (le (br i + 35) 1)).reserved 0x0A03 i (le (br i + 38) 2)) l
    let l := (List.range nr).foldl (fun t i => t.reserved 0x0A04 i (le (rg i + 7) 1)) l
    let d : Domain := {
      sizes := [a, b, c, e], standaloneId := le 10 2
      devices := (List.range nd).map fun i =>
        ⟨(bs.drop (dv i)).take 32, le (dv i + 32) 2, le (dv i + 34) 2, rolesHeld (le (dv i + 36) 2)⟩
      bridges := (List.range nb).map fun i =>
        ⟨(bs.drop (br i)).take 32, le (br i + 32) 2, le (br i + 34) 1, le (br i + 36) 2⟩
      ranges := (List.range nr).map fun i => ⟨le (rg i) 2, le (rg i + 2) 2, le (rg i + 4) 2, le (rg i + 6) 1⟩ }
    if !d.ok then .error ⟨0xC, 10, item⟩
    else
      let s := l.st
      let s := { s with ol := { s.ol with domain := d } }
      let s := (s.setFld fOL_TIMERS_LOSTUS lost).setFld fOL_TIMERS_DRAINUS drain
      .ok ({ l with st := s.setFld fOL_CTRL_AUTORETRAIN (le 20 1 % 2) }.mark 11 0 item)

/-- The link of a default route towards coordinates (R342): the first dimension that differs, the shorter way. -/
def routeLink (sizes : List Nat) (own c : Nat) : Nat :=
  match (List.range 4).find? fun d => coordOf own d != coordOf c d with
  | none => 0
  | some d =>
    let n := sizes.getD d 1
    let f := (coordOf c d + n - coordOf own d) % n
    2 * d + (if f ≤ n - f then 0 else 1)

/-- The default route table of a device (R339, R342). -/
def Domain.table (d : Domain) (mapped : Bool) (dev coord : Nat) : SMap Byte :=
  let own := put 0 [] dev 0xC0
  if !mapped then own
  else
    let link (e : DomDevice) : Nat := 0x80 + routeLink d.sizes coord e.coord
    let m := d.devices.foldl (fun m e => if e.dev = dev then m else put 0 m e.dev (BitVec.ofNat 8 (link e))) own
    d.ranges.foldl (fun m r =>
      let e :=
        if r.dev = dev then 0xA0 + r.link
        else match d.devices.find? (·.dev == r.dev) with
          | some h => link h
          | none => 0
      (span r.first (r.last + 1 - r.first)).foldl (fun m i => put 0 m i (BitVec.ofNat 8 e)) m) m

/-- A device takes its own entry, its links' roles and peers, and the default tables (R325, R339, R342). -/
def State.takeDomain (s : State) : State :=
  let d := s.ol.domain
  let own := d.devices.find? (·.digest == s.sec.identity)
  let dev := (own.map (·.dev)).getD d.standaloneId
  let coord := (own.map (·.coord)).getD 0
  let tab := d.table own.isSome dev coord
  let s := { s with ol := { s.ol with
    mapped := own.isSome, devId := BitVec.ofNat 16 dev, coord := coord, cur := tab, next := tab } }
  (List.range 8).foldl (fun t k =>
    let role := (own.map (·.role k)).getD 0
    let there := torusNeighbour d.sizes coord k
    let peer :=
      if role = 1 then (d.devices.find? (·.coord == there)).map fun e => (e.dev, there)
      else if role = 2 then (d.bridges.find? fun b => b.dev == dev && b.link == k).map fun b => (b.peer, 0)
      else none
    let t := t.modLink k fun l => { l with
      role := role, peerDev := BitVec.ofNat 16 ((peer.map (·.1)).getD 0), peerCoord := BitVec.ofNat 16 ((peer.map (·.2)).getD 0) }
    if role = 0 then (t.setPort (2 * k) { state := .unused }).setPort (2 * k + 1) { state := .unused } else t) s

/-! ### Sections -/

/-- Processes one item of a section. -/
def Load.item (l : Load) (x : Sec) (b : Nat) (warm : Bool) (sect : Nat) (q : Option Item × Nat) : LoadStep :=
  match q.1 with
  | none => .error ⟨7, sect, q.2⟩
  | some i =>
    let n := q.2
    let body := x.imageBytes b i.body i.len
    let bad : LoadStep := .error ⟨7, sect, n⟩
    let need (ok : Bool) (f : LoadStep) : LoadStep := if ok then f else bad
    if !(sectionKinds sect).contains i.kind then bad
    else match i.kind with
      | 1 => need (i.len == 8) (l.setting warm sect n i.sub i.unit (leNat body))
      | 2 => need (decide (8 ≤ i.len)) (l.image sect n i.unit (leNat (body.take 8)) (body.drop 8) body)
      | 3 => need (i.len == 1024) (l.table sect n i.unit i.sub i.period (words32 body))
      | 4 => need (i.len == 1024) (l.schedule sect n i.unit i.period (words32 body))
      | 5 => need (i.len == 20) (l.aperture sect n i.unit (words32 body))
      | 6 => need (decide (4 ≤ i.len) && i.len % 2 == 0)
          (l.translations sect n i.sub (leNat (body.take 4)) ((bytesHalf (body.drop 4)).map (·.toNat)))
      | 7 => need (decide (2 ≤ i.len) && i.len % 2 == 0)
          (l.homes sect n (leNat (body.take 2)) ((bytesHalf (body.drop 2)).map (·.toNat)))
      | 8 => need (i.len == 116) (l.barrier sect n i.unit (words32 body))
      | 9 => need (i.len == 48) (l.hint sect n i.unit ((bytesHalf body).map (·.toNat)))
      | _ => l.domain n body

/-- Refuses where a check has found something. -/
def refuseIf (o : Option Refused) (e : LoadStep) : LoadStep :=
  match o with
  | some r => .error r
  | none => e

/-- Defaults and required settings of a section (R389). -/
def Load.defaults (l : Load) (warm : Bool) (sect : Nat) : LoadStep :=
  stepAll (fun t f =>
    match settingOf f with
    | none => .ok t
    | some c =>
      stepAll (fun t u =>
        if get 0 t.seen (f * 0x10000 + u) ≠ 0 then .ok t
        else match c.dflt with
          | some d => .ok (t.apply warm f u d)
          | none => .error ⟨8, sect, 0xFFFFFF⟩) t (settingUnits sect f)) l allFields

/-- Inserts a pair by its first number. -/
def insertPair (a : Nat × Nat) : List (Nat × Nat) → List (Nat × Nat)
  | [] => [a]
  | b :: r => if a.1 ≤ b.1 then a :: b :: r else b :: insertPair a r

/-- The end of section 0x07: bases apart from one another, then D4LEN against the applied D4BASE, in order of
UNIT (R388). -/
def Load.endContexts (l : Load) (warm : Bool) : LoadStep :=
  let meet (p q : Nat × Nat × Nat) : Bool := p.1 != q.1 && decide (p.2.1 < q.2.1 + q.2.2 ∧ q.2.1 < p.2.1 + p.2.2)
  let bad := [0x0706, 0x0707, 0x0708].findSome? fun f =>
    (l.bases.find? (·.1 == f)).bind fun p =>
      if l.bases.any fun q => decide (q.1 < f) && meet p q then some ⟨8, 7, get 0 l.seen (f * 0x10000) - 1⟩ else none
  refuseIf bad (.ok ((l.lens.foldl (fun acc a => insertPair a acc) []).foldl (fun t q =>
    let held := t.clampSetting 7 0x0714 q.1 0 (t.d4Limit q.1) mask64 q.2
    held.1.apply warm 0x0714 q.1 held.2) l))

/-- The end of section 0x06: entries that name no defined barrier become invalid (R388). -/
def Load.endSync (l : Load) : Load :=
  let pairs := (l.barRefs.filter (·.1 == 0x0601)).foldl (fun acc a => insertPair (a.2, 0x0601) acc) []
    ++ (l.barRefs.filter (·.1 == 0x0602)).foldl (fun acc a => insertPair (a.2, 0x0602) acc) []
  pairs.foldl (fun t q =>
    let y := t.st.sync
    let e := (get 0 (if q.2 = 0x0601 then y.xlat else y.xlatGlb) q.1).toNat
    if (t.st.entryTarget e).isSome then t
    else
      let v := BitVec.ofNat 16 (e % 0x8000)
      let y := if q.2 = 0x0601 then { y with xlat := put 0 y.xlat q.1 v } else { y with xlatGlb := put 0 y.xlatGlb q.1 v }
      { t with st := { t.st with sync := y } }.clamp q.2 q.1 4 6 e (e % 0x8000)) l

/-- The end of section 0x03: the flows and routes of R160. -/
def Load.endTables (l : Load) : LoadStep :=
  let flow := ((List.range (768 * 3)).find? fun i => !l.st.flowsOk (i / 3) (i % 3)).map fun i =>
    let keys := (List.range 12).map fun j => sideKey (i / 3) (i % 3) (j / 2) (j % 2 == 1)
    ⟨0xA, 3, ((keys.map (l.itemOf 3)).filter (· != 0xFFFFFF)).headD 0xFFFFFF⟩
  let route := ((List.range (768 * 3)).find? fun i => !l.st.routesOk (i / 3) (i % 3)).map fun i =>
    ⟨0xA, 3, l.itemOf 3 (sideKey (i / 3) (i % 3) 4 false)⟩
  refuseIf flow (refuseIf route (.ok l))

/-- The end of section 0x04: the stream beats of R163. -/
def Load.endSchedules (l : Load) : LoadStep :=
  refuseIf (((List.range (192 * 3)).find? fun i => !l.st.sliceFlowOk (i / 3) (i % 3)).map fun i =>
    ⟨0xA, 4, l.itemOf 4 (i / 3)⟩) (.ok l)

/-- The end of a section. -/
def Load.endSection (l : Load) (warm : Bool) (sect : Nat) : LoadStep :=
  match l.defaults warm sect with
  | .error e => .error e
  | .ok l =>
    match sect with
    | 3 => l.endTables
    | 4 => l.endSchedules
    | 5 => .ok l.endApertures
    | 6 => .ok l.endSync
    | 7 => l.endContexts warm
    | _ => .ok l

/-- One section: its digest, its items, and its end (R385, R388, R392). -/
def Load.doSection (l : Load) (x : Sec) (b : Nat) (warm : Bool) (d : DirEntry) : LoadStep :=
  if !x.pagesGood (b * 0x20000000 + 4096 + d.offset) d.len then .error ⟨0xD, d.type, 0xFFFFFF⟩
  else if shake256 64 (x.imageBytes b d.offset d.len) ≠ d.digest then .error ⟨5, d.type, 0xFFFFFF⟩
  else
    let its := x.items b (d.len / 16 + 1) d.offset (d.offset + d.len)
    match stepAll (fun t q => t.item x b warm d.type q) l (its.zip (List.range its.length)) with
    | .error e => .error e
    | .ok l => l.endSection warm d.type

/-- Whether a defined barrier keeps R300: its root in its box and, with TORUS set, a torus route from every
device of the box towards its parent. -/
def Domain.barrierOk (d : Domain) (b : Barrier) : Bool :=
  let root := b.root.toNat
  if !bit b.cfg.toNat 31 then true
  else
    ((List.range 4).all fun i => decide (coordOf root i < d.sizes.getD i 1)) && b.inBox d.sizes root
      && (!bit b.cfg.toNat 30 || d.devices.all fun e =>
        !b.inBox d.sizes e.coord || match b.parentLink d.sizes e.coord with
          | none => true
          | some k => e.role k == 1)

/-- The checks of R300, once the sizes are known. -/
def Load.endBarriers (l : Load) : LoadStep :=
  refuseIf (((List.range 64).find? fun bn => !l.st.ol.domain.barrierOk (l.st.bar bn)).map fun bn =>
    ⟨0xB, 6, l.itemOf 6 bn⟩) (.ok l)

/-- Loads and checks a bank on a state whose held units are as a reset leaves them (R392). -/
def State.loadBank (s : State) (b : Nat) (warm : Bool) : LoadStep :=
  let x := s.sec
  let ds := x.directory b
  if !x.pagesGood (b * 0x20000000 + 4096) (80 * ds.length) then .error ⟨0xD, 0, 0xFFFFFF⟩
  else if shake256 64 (x.imageBytes b 0 (80 * ds.length)) ≠ x.bankBytes b 64 64 then .error ⟨5, 0, 0xFFFFFF⟩
  else if !directoryOk ds (x.bankLe b 16 4) then .error ⟨6, 0, 0xFFFFFF⟩
  else
    match stepAll (fun t d => t.doSection x b warm d) { st := s } ds with
    | .error e => .error e
    | .ok l =>
      -- sections that are absent give their settings' defaults
      match stepAll (fun t sect => if ds.any (·.type == sect) then .ok t else t.endSection warm sect) l [8, 9] with
      | .error e => .error e
      | .ok l => l.endBarriers

end Sys2Proof.Machine
end

