-- ==== Sys2Proof/Machine/Security.lean ====
section
/-! DEFINITION. The security controller (R392–R405): selecting and loading a bank, the service levels, and store and
security operations. -/

namespace Sys2Proof.Machine

/-! ### Selection and loading (R392, R393) -/

/-- Records a refusal of a bank in MG_STAGE and MG_REFUSEn (R390). -/
def State.recordRefusal (s : State) (b : Nat) (e : Refused) : State :=
  let s := s.setFld (if b = 0 then fMG_STAGE_REFUSE0 else fMG_STAGE_REFUSE1) e.cause
  (s.setFld fMG_REFUSE_TYPE e.sect 0 b).setFld fMG_REFUSE_ITEM e.item 0 b

/-- The registers of the negative, out of a map of registers. -/
def negativeRegs (m : SMap Word) : SMap Word :=
  keepKeys (fun k => match findReg (k / 0x1000000) (k % 0x1000000) with
    | some (r, _, _) => r.fromNegative
    | none => false) m

/-- Keeps the registers of the negative as its load leaves them, for standby (R438). -/
def State.noteLoaded (s : State) : State := { s with sec := { s.sec with loaded := negativeRegs s.regs } }

/-- An accepted image takes effect (R391, R392, R401): the proof, the measurements and the domain; level 1 is reached,
the safelight is armed (R434) and attestation begins (R349). -/
def State.accept (s : State) (l : Load) (b : Nat) (fallback : Bool) : State :=
  let x := s.sec
  let t := { l.st with
    proof := l.recs, level1At := s.clock
    sec := { x with
      bank := some b, reload := none, imgSeq := x.bankLe b 8 8, imgSvn := x.bankLe b 20 2, imgDig := x.bankBytes b 64 64
      raiseFloor := bit (x.bankLe b 6 2) 0
      meas := (List.range 8).foldl (fun m j => put [] m j (shake256 64 (get [] l.meas j))) [] }
    rs := { s.rs with accepted := true } }
  let t := t.setFld fMG_PROOF_HDR_KEPT l.recs.length
  let t := (t.setFld fMG_PROOF_HDR_TOTAL (min l.total 0xFFFF)).setFlag fMG_PROOF_HDR_OVF (decide (149 < l.total))
  let t := t.setFld fSC_SVN_IMAGE (x.bankLe b 20 2)
  let t := (t.setFld fMG_STAGE_BANK b).setFlag fMG_STAGE_FALLBACK fallback
  let t := t.takeDomain.buildTrees.noteLoaded.armSafelight
  (List.range 16).foldl (fun u p => u.startAttest p) (t.setLevel 1)

/-- Loads the first bank of a list that the checks accept (R392). -/
def State.tryBanks (s : State) (warm : Bool) : List Nat → Bool → State
  | [], _ => { s with sec := { s.sec with reload := none } }.setFlag fMG_STAGE_UNCONF true
  | b :: r, fallback =>
    match s.loadBank b warm with
    | .ok l => s.accept l b fallback
    | .error e => (s.recordRefusal b e).tryBanks warm r true

/-- SELECT_AND_LOAD (R392, R393, R436): at power-on and cold reset the acceptable banks by descending SEQ; at a warm
reset the bank that supplied the running negative. A retired device loads none. -/
def State.selectAndLoad (s : State) : State :=
  if !s.level0 ∨ s.level ≠ 0 ∨ s.sec.bank.isSome ∨ s.flag fMG_STAGE_UNCONF ∨ s.rs.standby then s
  else if s.rs.retired then { s with sec := { s.sec with reload := none } }.setFlag fMG_STAGE_UNCONF true
  else
    let x := s.sec
    let warm := s.rs.warmKind
    let banks := if warm then x.reload.toList else [0, 1]
    let s := banks.foldl (fun t b =>
      let c := x.headerCause b x.owner
      if c = 0 then t else t.recordRefusal b { cause := c }) s
    let ok := banks.filter fun b => x.headerCause b x.owner == 0
    let order := if ok = [0, 1] ∧ x.bankSeq 0 < x.bankSeq 1 then [1, 0] else ok
    s.tryBanks warm order false

/-! ### Service levels (R395) -/

/-- Reads the bank headers into SC_SEQn (R405). -/
def State.readSeqs (s : State) : State :=
  (List.range 2).foldl (fun t b =>
    let q := t.sec.bankSeq b
    (t.setReg .scSeq 0 (2 * b) (q % 2 ^ 32)).setReg .scSeq 0 (2 * b + 1) (q / 2 ^ 32)) s

/-- The debug counter in SC_DBGCTR. -/
def State.showDbg (s : State) : State :=
  let c := s.sec.dd.dbgCtr
  (s.setReg .scDbgctr 0 0 (c % 2 ^ 32)).setReg .scDbgctr 0 1 (c / 2 ^ 32)

/-- A pending owner becomes effective (R398). -/
def DeviceData.promote (d : DeviceData) : DeviceData :=
  match d.pending with
  | some key => { d with owner := some key, ownerGen := d.pendingGen, pending := none }
  | none => d

/-- The ports of a retired device are dark (R436). -/
def State.darkPorts (s : State) : State :=
  { s with ol := { s.ol with ports := mapVals {} (fun _ (x : OPort) => if x.state = PortState.unused then x else {}) s.ol.ports } }

/-- SERVICE_LEVEL_0 (R384, R395–R398, R435, R436): the PUF gives a seed, or none; identity, device data and bank headers
are read; the owner is settled, retirement decided, and the reset count written. Without a device-data copy that
verifies no owner is effective (R396). -/
def State.serviceLevel0 (s : State) (seed : Option (List Byte)) : State :=
  if !s.pw.railsOn ∨ s.pw.mrst ∨ s.level0 ∨ s.rs.standby then s
  else
    let x := { s.sec with seed := seed.map (fit 32) }
    let x := { x with area := x.newer }
    let count := if s.rs.countLost then (s.rs.count + x.dd.resetCount) % 2 ^ 32 else s.rs.count
    let d := if s.rs.warmKind then x.dd else x.dd.promote
    let retires := s.rs.last != 9 && decide (s.retireCfg.2 < s.rs.inWin)
    let idOk := match x.vendor with
      | some v => seed.isSome && certVerifies v x.dd.cert && x.dd.cert.take 32 == x.identity
      | none => false
    let d := { d with resetCount := count, retired := d.retired || retires }
    let y := x.writeDd d
    let y := { y with
      owner := if x.area.isNone then none else if s.rs.warmKind then x.owner else d.owner, idOk := idOk }
    let s := { s with sec := y, level0 := true, rs := { s.rs with
      count := count, countLost := s.rs.countLost && x.area.isNone, retired := s.rs.retired || d.retired || retires } }
    let s := if !x.canWriteDd then s.setFlag fRS_STATUS_CNTFAIL true else s
    let s := if s.rs.retired then s.darkPorts else s
    let s := (List.range 24).foldl (fun t c =>
      if t.fld fPW_CL_TARGET_TARGET5 c = 0 then t.setFld fPW_CL_TARGET_TARGET5 (get 340 y.dd.targets c) c else t) s
    (s.setFld fSC_SVN_FLOOR y.dd.svnFloor).showDbg.readSeqs

/-- Whether a port with a role has passed step 4 of R348: it is ready, in service, or out of service, be it that it
trains again; or 3.0 s have passed since level 1 (R440). -/
def State.portSettled (s : State) (p : Nat) : Bool :=
  let x := s.port p
  (s.link (p / 2)).role == 0 || x.state == .ready || x.state == .inService || x.state == .outOfService
    || x.downCause != 0 || decide (s.level1At + 3000000 ≤ s.clock)

/-- Whether a port with a role is at its final width or counts as out of service (R395, R440). -/
def State.portFinal (s : State) (p : Nat) : Bool :=
  let x := s.port p
  (s.link (p / 2)).role == 0 || ((x.state == .ready || x.state == .inService) && x.final) || x.state == .outOfService
    || x.downCause != 0 || decide (s.level1At + 3000000 ≤ s.clock)

/-- SERVICE_LEVEL_2 (R395). -/
def State.serviceLevel2 (s : State) : State :=
  if s.level = 1 ∧ (List.range 192).all (fun sl => (s.slice sl).trained) ∧ (List.range 16).all s.portSettled then s.setLevel 2
  else s

/-- The context engine of a primary gathers for its first step (R196, R197). -/
def State.startGather (s : State) : State :=
  if s.follower then s else { s with cx := { s.cx with phase := .gathering, gathered := false } }

/-- The SVN floor rises to the image's SVN when its RAISEFLOOR is set (R394). -/
def State.raiseFloor (s : State) : State :=
  if s.sec.raiseFloor ∧ s.sec.dd.svnFloor < s.sec.imgSvn then s.modDd fun d => { d with svnFloor := s.sec.imgSvn } else s

/-- SERVICE_LEVEL_3 (R394, R395, R412, R428): the clusters have been measured; clocks move to their targets and composition starts. -/
def State.serviceLevel3 (s : State) : State :=
  if s.level = 2 ∧ (List.range 16).all s.portFinal ∧ s.pw.measured then
    (({ s with rs := { s.rs with inReset := false } }.setLevel 3).startGather).raiseFloor
  else s

/-! ### Store and security operations (R398–R403) -/

/-- How a command of SC_CMD begins: it is refused with a result, or an operation starts, with the result and the effect
it will have when it ends. What it reads is sampled as it starts. -/
inductive SecStart where
  | refused (result : Nat)
  | starts (result : Nat) (e : SecEffect)

/-- An operation that ends with a failing result has no effect. -/
def SecStart.fails (result : Nat) : SecStart := .starts result .none

/-- Bytes of SC_STAGE. -/
def Sec.staged (x : Sec) (o n : Nat) : List Byte := getBytes 0 x.stage o n

/-- The owner that will next be effective (R398). -/
def Sec.nextOwner (x : Sec) : Option (List Byte) :=
  match x.dd.pending with
  | some key => some key
  | none => x.owner

/-- The bank that BEGIN writes (R402): not the one that supplied the running negative; when unconfigured the one with the
lower SEQ, or bank 0. -/
def Sec.writeBank (x : Sec) : Nat :=
  match x.bank <|> x.reload with
  | some b => 1 - b
  | none => if x.bankSeq 1 < x.bankSeq 0 then 1 else 0

/-- BEGIN: the length holds a header and an image that R382 allows. -/
def Sec.begin (x : Sec) (rq : Requester) (len : Nat) : SecStart :=
  match x.write with
  | some w =>
    if w.owner ≠ rq then .refused 1
    else if len < 4160 ∨ 469766144 < len then .fails 6 else .starts 0 (.openWrite ⟨w.bank, rq, len, 0⟩)
  | none =>
    if len < 4160 ∨ 469766144 < len then .fails 6 else .starts 0 (.openWrite ⟨x.writeBank, rq, len, 0⟩)

/-- A command on the open write of its requester. -/
def Sec.onWrite (x : Sec) (rq : Requester) (f : BankWrite → SecStart) : SecStart :=
  match x.write with
  | none => .refused 2
  | some w => if w.owner = rq then f w else .refused 1

/-- Appending bytes that must fit the write. -/
def BankWrite.append (w : BankWrite) (data : List Byte) : SecStart :=
  if w.len < w.written + data.length then .fails 6 else .starts 0 (.append w.bank w.written data)

/-- The store as it would stand with the header in place. -/
def Sec.withHeader (x : Sec) (b : Nat) : Sec := { x with flash := putBytes 0 x.flash (b * 0x20000000) (fit 4096 x.header) }

/-- Whether IMGDIG and every section digest match (R402). -/
def Sec.digestsMatch (x : Sec) (b : Nat) : Bool :=
  let ds := x.directory b
  shake256 64 (x.imageBytes b 0 (80 * ds.length)) == x.bankBytes b 64 64
    && ds.all fun d => shake256 64 (x.imageBytes b d.offset d.len) == d.digest

/-- COMMIT (R402, R403). -/
def Sec.commit (x : Sec) (w : BankWrite) : SecStart :=
  let y := x.withHeader w.bank
  if w.written ≠ w.len then .fails 6
  else if !x.pagesGood (w.bank * 0x20000000) w.len then .fails 9
  else match y.headerCause w.bank x.nextOwner with
    | 0 =>
      if x.headerCause (1 - w.bank) x.owner = 0 ∧ y.bankLe w.bank 8 8 ≤ x.bankSeq (1 - w.bank) then .fails 5
      else if !y.digestsMatch w.bank then .fails 4
      else .starts 0 (.header w.bank (fit 4096 x.header))
    | 3 => .fails 3
    | _ => .fails 6

/-- ENROL and TRANSFER (R398): the record is for this device, its generation is above, and its signature verifies. -/
def Sec.ownerRecord (x : Sec) (kind : Nat) : SecStart :=
  let r := x.staged 0 5301
  let gen := leNat ((r.drop 4).take 4)
  let signer := if kind = 1 then x.vendor else x.nextOwner
  if leNat (r.take 4) ≠ kind then .fails 6
  else if (r.drop 8).take 32 ≠ x.identity then .fails 7
  else if gen ≤ x.dd.ownerGen ∨ (x.dd.pending.isSome ∧ gen ≤ x.dd.pendingGen) then .fails 8
  else match signer with
    | none => .fails 3
    | some key =>
      if mldsaVerify key (r.take 1992) ((r.drop 1992).take 3309) then .starts 0 (.owner ((r.drop 40).take 1952) gen)
      else .fails 3

/-- UNLOCK (R399). -/
def Sec.unlock (x : Sec) : SecStart :=
  match x.owner with
  | none => .fails 3
  | some key =>
    if mldsaVerify key (x.identity ++ leBytes 8 x.dd.dbgCtr ++ [1]) (x.staged 0 3309) then .starts 0 (.debug true true)
    else .fails 3

/-- How a command of SC_CMD begins (R402), with the state after what it reads from DRAM. -/
def State.secStart (s : State) (rq : Requester) (code : Nat) : SecStart × State :=
  let x := s.sec
  let len := s.fld fSC_OPLEN_LEN
  match code with
  | 1 => (x.begin rq len, s)
  | 2 => (x.onWrite rq fun w => if len < 1 ∨ 8192 < len then .fails 6 else w.append (x.staged 0 len), s)
  | 3 =>
    if s.level < 2 then (.refused 2, s)
    else
      let a := s.pairAddr .scOpsrcLo .scOpsrcHi
      match x.onWrite rq fun w => if len < 1 ∨ dramSize < a + len ∨ w.len < w.written + len then .fails 6 else .starts 0 .none with
      | .starts 0 _ =>
        match s.dramRead a len with
        | (.ok d, t) => (x.onWrite rq fun w => w.append d, t)
        | (_, t) => (.fails 9, t)
      | r => (r, s)
  | 4 => (x.onWrite rq x.commit, s)
  | 5 => (x.ownerRecord 1, s)
  | 6 => (x.ownerRecord 2, s)
  | 7 => (if x.seed.isSome then .starts 0 (.report (s.bundle (x.staged 0 32))) else .refused 2, s)
  | 8 =>
    match rq with
    | .core c => (.starts 0 (.measure (c - 768) (shake256 64 (fit 64 (get [] x.meas (c - 768)) ++ x.staged 0 64))), s)
    | _ => (.refused 2, s)
  | 9 => (if isManagement rq then x.unlock else .refused 2, s)
  | 0xA => (.starts 0 (.debug false false), s)
  | _ => (x.onWrite rq fun _ => .starts 0 .closeWrite, s)

/-- A write of SC_CMD (R402, R403). Reserved codes change nothing (R4). -/
def State.secCommand (s : State) (rq : Requester) (code : Nat) : State :=
  if code < 1 ∨ 0xB < code then s
  else if s.sec.op.isSome then s.setFld fSC_STATUS_RESULT 1
  else match s.secStart rq code with
    | (.refused r, t) => t.setFld fSC_STATUS_RESULT r
    | (.starts r e, t) => { t with sec := { t.sec with op := some (r, e) } }

/-- Sets the debug state; a change takes ports out of service (R399). -/
def State.setDebug (s : State) (on : Bool) : State :=
  if s.sec.debug = on then s else { s with sec := { s.sec with debug := on } }.debugPorts

/-- Writes bytes of the open write: those of the header are held back until COMMIT (R383). -/
def Sec.append (x : Sec) (b o : Nat) (data : List Byte) : Sec :=
  { x with
    header := x.header ++ data.take (4096 - o)
    flash := putBytes 0 x.flash (b * 0x20000000 + max o 4096) (data.drop (4096 - o))
    write := x.write.map fun w => { w with written := w.written + data.length } }

/-- The effect of an operation as it ends: the result, 9 for a write that cannot be made. -/
def State.secEffect (s : State) (r : Nat) (e : SecEffect) : Nat × State :=
  let x := s.sec
  match e with
  | .none => (r, s)
  | .openWrite w =>
    if !x.pagesGood (w.bank * 0x20000000) 4096 then (9, s)
    else (r, { s with sec := { x with
      write := some w, header := [], flash := putBytes 0 x.flash (w.bank * 0x20000000) (List.replicate 4096 0) } })
  | .append b o d =>
    if !x.pagesGood (b * 0x20000000 + o) d.length then (9, s) else (r, { s with sec := x.append b o d })
  | .header b d =>
    (r, { s with sec := { x with
      write := none, header := [], flash := putBytes 0 x.flash (b * 0x20000000) d } }.readSeqs)
  | .owner key gen =>
    if !x.canWriteDd then (9, s) else (r, s.modDd fun d => { d with pending := some key, pendingGen := gen })
  | .report b => (r, s.writeRpt b)
  | .measure j v => (r, { s with sec := { x with meas := put [] x.meas j v } })
  | .debug on count =>
    if count && !x.canWriteDd then (9, s)
    else
      let s := if count then (s.modDd fun d => { d with dbgCtr := d.dbgCtr + 1 }).showDbg else s
      (r, s.setDebug on)
  | .closeWrite => (r, { s with sec := { x with write := none, header := [] } })

/-- OPERATION_COMPLETE (R403). -/
def State.operationComplete (s : State) : State :=
  match s.sec.op with
  | none => s
  | some (r, e) =>
    let q := { s with sec := { s.sec with op := none } }.secEffect r e
    q.2.setFld fSC_STATUS_RESULT q.1

/-- A write of a code to SC_CMD by a requester. -/
def State.secCmdBy (s : State) (rq : Requester) (code : Nat) : State :=
  s.regCommand rq 1 4 code fun t => t.secCommand rq code

def execBeginWrite (rq : Requester) (s : State) : Host.Outcome State Fault Refusal := .next (s.secCmdBy rq 1)
def execChunk (rq : Requester) (s : State) : Host.Outcome State Fault Refusal := .next (s.secCmdBy rq 2)
def execDramchunk (rq : Requester) (s : State) : Host.Outcome State Fault Refusal := .next (s.secCmdBy rq 3)
def execCommit (rq : Requester) (s : State) : Host.Outcome State Fault Refusal := .next (s.secCmdBy rq 4)
def execEnrol (rq : Requester) (s : State) : Host.Outcome State Fault Refusal := .next (s.secCmdBy rq 5)
def execTransfer (rq : Requester) (s : State) : Host.Outcome State Fault Refusal := .next (s.secCmdBy rq 6)
def execAttest (rq : Requester) (s : State) : Host.Outcome State Fault Refusal := .next (s.secCmdBy rq 7)
def execExtend (rq : Requester) (s : State) : Host.Outcome State Fault Refusal := .next (s.secCmdBy rq 8)
def execUnlock (rq : Requester) (s : State) : Host.Outcome State Fault Refusal := .next (s.secCmdBy rq 9)
def execLock (rq : Requester) (s : State) : Host.Outcome State Fault Refusal := .next (s.secCmdBy rq 0xA)
def execAbort (rq : Requester) (s : State) : Host.Outcome State Fault Refusal := .next (s.secCmdBy rq 0xB)
def execOperationComplete (s : State) : Host.Outcome State Fault Refusal := .next s.operationComplete
def execServiceLevel0 (seed : Option (List Byte)) (s : State) : Host.Outcome State Fault Refusal :=
  .next (s.serviceLevel0 seed)
def execSelectAndLoad (s : State) : Host.Outcome State Fault Refusal := .next s.selectAndLoad
def execServiceLevel2 (s : State) : Host.Outcome State Fault Refusal := .next s.serviceLevel2
def execServiceLevel3 (s : State) : Host.Outcome State Fault Refusal := .next s.serviceLevel3

end Sys2Proof.Machine
end

