-- ==== Sys2Proof/Machine/Timers.lean ====
section
/-! DEFINITION. Timers, software interrupts and the TLB's commands (R253, R257, R258). -/

namespace Sys2Proof.Machine

/-- XC_TNOW: microseconds since the last reset (R258). -/
def State.tnow (s : State) : Nat := s.clock - s.resetAt

/-- XC_TCMP of a core. -/
def State.tcmp (s : State) (c : Nat) : Nat := s.reg .xcTcmpLo c 0 + s.reg .xcTcmpHi c 0 * 0x100000000

/-- The timer event of the present arming is raised once XC_TNOW stands at XC_TCMP or beyond it (R258). -/
def State.timerDue (s : State) (c : Nat) : State :=
  if s.flag fXC_CTRL_TEN c ∧ s.tcmp c ≤ s.tnow ∧ !(s.core c).timerRaised then
    (s.modCore c fun x => { x with timerRaised := true }).raise c 12 7 0
  else s

/-- Arms the timer again (R258). -/
def State.timerArm (s : State) (c : Nat) : State :=
  (s.modCore c fun x => { x with timerRaised := false }).timerDue c

/-- The register of an arming write. -/
def timerReg : TimerReg → RegId
  | .tcmpLo => .xcTcmpLo
  | .tcmpHi => .xcTcmpHi
  | .ctrl => .xcCtrl

/-- A write of a register that arms the timer: XC_CTRL arms it when it sets TEN (R258). -/
def State.timerWrite (s : State) (c : Nat) (r : RegId) (v : Nat) : State :=
  match r with
  | .xcCtrl =>
    let s := s.setFlag fXC_CTRL_TEN (bit v 0) c
    if bit v 0 then s.timerArm c else s
  | _ => (s.setReg r c 0 v).timerArm c

/-- A write of XC_SWI (R258). -/
def State.softInterrupt (s : State) (v : Nat) : State :=
  let c := bits v 9 0
  if c < 776 then s.raise c 13 8 0 else s

/-- The page of TR_INVVA. -/
def State.invPageOf (s : State) (c : Nat) : Nat := 2 * s.pairAddr .trInvvaLo .trInvvaHi c / 0x10000

/-- A write of TR_CTRL (R257). -/
def State.writeTrCtrl (s : State) (c v : Nat) : State :=
  let s := if bit v 1 then s.flushPage c (s.invPageOf c) else s
  if bit v 0 then s.flushTlb c else s

/-- TABLE_WALK (R253): the walk of a miss. A page that is held, and one beyond the virtual space, has no walk. -/
def State.tableWalk (s : State) (c : Nat) (va : Addr) (kind : AccessKind) (ring : Nat) : State :=
  let page := 2 * va.toNat / 0x10000
  if 2 ^ 39 ≤ va.toNat ∨ (s.core c).tlb.any (·.page == page) then s
  else (s.walk c page kind ring).2

/-- The offset of a timer register in its frame. -/
def timerOffset : TimerReg → Nat
  | .ctrl => 0x20
  | .tcmpLo => 0x24
  | .tcmpHi => 0x28

def execTimer (c : CoreId) (s : State) : Host.Outcome State Fault Refusal := .next (s.timerDue c)
def execTimerArm (rq : Requester) (c : CoreId) (what : TimerReg) (value : BitVec 32) (s : State) :
    Host.Outcome State Fault Refusal :=
  .next (s.regCommand rq 10 (c * 0x100 + timerOffset what) value.toNat fun t =>
    t.timerWrite c (timerReg what) value.toNat)
def execSoftwareInterrupt (rq : Requester) (value : BitVec 32) (s : State) : Host.Outcome State Fault Refusal :=
  .next (s.regCommand rq 10 0x80008 value.toNat fun t => t.softInterrupt value.toNat)
def execInvpage (rq : Requester) (c : CoreId) (s : State) : Host.Outcome State Fault Refusal :=
  .next (s.regCommand rq 11 (c * 0x100) 2 fun t => t.writeTrCtrl c 2)
def execInvall (rq : Requester) (c : CoreId) (s : State) : Host.Outcome State Fault Refusal :=
  .next (s.regCommand rq 11 (c * 0x100) 1 fun t => t.writeTrCtrl c 1)
def execTableWalk (c : CoreId) (va : BitVec 48) (kind : AccessKind) (ring : BitVec 2) (s : State) :
    Host.Outcome State Fault Refusal := .next (s.tableWalk c va kind ring.toNat)

end Sys2Proof.Machine
end

