-- ==== Sys2Proof/Machine/RegRead.lean ====
section
/-! DEFINITION. What a register shows (the register tables of the chapters). A register stores what nothing
else in the state holds; every other field is computed here when it is read. -/

namespace Sys2Proof.Machine

/-- Lays fields, each its bits and its value, over a number. -/
def overlay (x : Nat) (l : List (Nat × Nat × Nat)) : Nat := l.foldl (fun x f => setBits x f.1 f.2.1 f.2.2) x

/-- A one-bit field. -/
def fieldBit (n : Nat) (b : Bool) : Nat × Nat × Nat := (n, n, oneIf b 1)

/-! ### Management, security, reset, power -/

/-- Whether some core is locked (R248). -/
def State.someLocked (s : State) : Bool := s.cores.any fun e => e.2.locked.isSome

/-- MG_ALERT_SRC (R456, R457). -/
def State.alertSrc (s : State) : Nat :=
  overlay 0 [fieldBit 8 ((s.pxOf 0).lost || (s.pxOf 1).lost), fieldBit 7 (s.flag fMG_STAGE_UNCONF),
    fieldBit 6 s.rs.retired, fieldBit 5 s.stalledNow, fieldBit 4 s.someLocked, fieldBit 3 (s.flag fRS_STATUS_SLWARN),
    fieldBit 2 (s.reg .olEvstat 0 0 % 256 != 0), fieldBit 1 (bits (s.reg .drEvstat 0 0) 5 1 != 0),
    fieldBit 0 (s.reg .pwEvstat 0 0 &&& 0x3FD != 0)]

/-- SC_STATUS (R404). -/
def State.scStatusView (s : State) : Nat :=
  overlay (s.reg .scStatus 0 0) [fieldBit 31 s.sec.op.isSome, fieldBit 26 s.sec.idOk, fieldBit 25 (s.level0 && s.sec.owner.isSome),
    fieldBit 24 s.sec.dd.pending.isSome, fieldBit 23 s.sec.debug, fieldBit 22 s.sec.write.isSome,
    (21, 21, (s.sec.write.map (·.bank)).getD 0)]

/-- RS_STATUS (R445). -/
def State.rsStatusView (s : State) : Nat :=
  overlay (s.reg .rsStatus 0 0) [fieldBit 31 s.rs.retired, fieldBit 30 s.rs.standby, fieldBit 29 s.rs.armed,
    (23, 19, min s.rs.inWin 16), (3, 0, s.rs.last)]

/-- Milliseconds until the safelight expires (RS_SLCFG.LEFTMS). -/
def State.leftMs (s : State) : Nat :=
  if s.rs.armed then min ((s.rs.strokeAt + s.fld fRS_SLCFG_TIMEOUT * 1000000 - s.clock) / 1000) 0xFFFF else 0

/-- PW_RAIL for the rail that PW_RAILSEL names; rail 7 reads 0. -/
def State.railView (s : State) : Nat :=
  let r := s.fld fPW_RAILSEL_RAIL
  if r = 7 then 0 else
    let v := get (0, 0) s.pw.rails r
    overlay 0 [(31, 16, v.1), (15, 0, v.2)]

/-- PW_PHASE for the phase that PW_PHSEL names; clusters 24 to 31 read 0. -/
def State.phaseView (s : State) : Nat :=
  let c := s.fld fPW_PHSEL_CLUSTER
  if 24 ≤ c then 0 else
    let l := get {} s.pw.learned (c * 64 + s.fld fPW_PHSEL_PHASE)
    overlay 0 [(31, 24, l.n), fieldBit 12 l.hint, (11, 0, l.l)]

/-! ### Contexts, synchronisation, mesh, DRAM -/

/-- The code of a phase (CX_STATUS.PHASE). -/
def CxPhase.code : CxPhase → Nat
  | .running => 0 | .closing => 1 | .gathering => 2 | .composing => 3

/-- CX_STATUS (R213). -/
def State.cxStatusView (s : State) : Nat :=
  overlay 0 [(31, 30, s.cx.phase.code), (25, 16, s.cx.occ.length), (12, 0, s.readyList.length)]

/-- SY_CNT_ATTR of the counter selected. -/
def State.cntAttrView (s : State) : Nat :=
  let x := s.ctr (s.fld fSY_CNT_SEL_CNT)
  overlay 0 [fieldBit 31 x.lost, (19, 10, x.waits.length), (9, 0, x.home)]

/-- SY_XLAT: the entry selected. -/
def State.xlatView (s : State) : Nat :=
  let e := s.fld fSY_XLAT_SEL_ENTRY
  if s.flag fSY_XLAT_SEL_GLB then (get 0 s.sync.xlatGlb (e % 1024)).toNat else (get 0 s.sync.xlat e).toNat

/-- The barrier that SY_BAR_SEL names. -/
def State.barSel (s : State) : Barrier := s.bar (s.fld fSY_BAR_SEL_BAR)

/-- SY_BAR_TREE: the parent's device, whether this device is the root, and the children. A standalone device is its own
root, and one outside the box of a barrier is none (R300). -/
def State.barTreeView (s : State) : Nat :=
  let b := s.barSel
  if !bit b.cfg.toNat 31 then 0
  else
    let root := !bit b.cfg.toNat 30 || !s.ol.mapped || s.ol.coord == b.root.toNat
    overlay 0 [(31, 16, match b.parent with | some k => (s.link k).peerDev.toNat | none => 0), fieldBit 15 root,
      (3, 0, b.children.length)]

/-- MS_STATUS (R186). -/
def State.msStatusView (s : State) : Nat :=
  overlay (s.reg .msStatus 0 0) [(20, 16, s.stallLog.length), fieldBit 0 s.stalledNow]

/-- DR_SSTATUS of a slice (R322). -/
def State.sliceView (s : State) (sl : Nat) : Nat :=
  let x := s.slice sl
  overlay (s.reg .drSstatus sl 0) [fieldBit 31 x.trained, fieldBit 30 x.trfail, fieldBit 29 x.hot, fieldBit 28 x.selfRef,
    (20, 16, min x.debt 31)]

/-- DR_MAP_RES: the place of the address in DR_MAP (R307, R322). -/
def State.mapResView (s : State) : Nat :=
  let a := s.pairAddr .drMapLo .drMapHi
  if a < dramSize then overlay 0 [fieldBit 31 true, (28, 21, (dramPlace a).1), (20, 0, (dramPlace a).2 / 256)] else 0

/-! ### Optical links and host ports -/

def PortState.code : PortState → Nat
  | .dark => 0 | .training => 1 | .attesting => 2 | .ready => 3 | .inService => 4 | .outOfService => 5 | .unused => 6

def LinkState.code : LinkState → Nat
  | .notInService => 0 | .inService => 1 | .lost => 2

/-- OL_LINKk_STATE (R359). -/
def State.linkView (s : State) (k : Nat) : Nat :=
  let l := s.link k
  overlay 0 [(31, 30, l.role), (29, 28, l.state.code), (11, 0, l.retry.length)]

/-- OL_PORTm_STATE (R359). -/
def State.portView (s : State) (m : Nat) : Nat :=
  let p := s.port m
  overlay 0 [(31, 28, p.state.code), (27, 24, p.width), (23, 16, p.waves), (15, 12, p.downCause), (11, 8, p.attCause)]

/-- OL_RT: the entry of the table that RTSEL names (R353). -/
def State.routeView (s : State) : Nat :=
  (get 0 (if s.flag fOL_RTSEL_CUR then s.ol.cur else s.ol.next) (s.fld fOL_RTSEL_DEV)).toNat

/-- PX_PSTAT (R378). -/
def State.pstatView (s : State) (p : Nat) : Nat :=
  let x := s.pxOf p
  overlay 0 [fieldBit 31 x.linkUp, fieldBit 30 x.lost, fieldBit 29 x.perst, (26, 24, x.speed), (20, 16, x.width),
    (4, 0, oneIf x.vfEnable x.numVfs)]

/-- PX_FNf_STAT (R378). A function-level reset completes at once, so FLR reads 0. -/
def State.fnStatView (s : State) (p f : Nat) : Nat :=
  let c := s.fnCfg p f
  overlay 0 [fieldBit 31 (s.fnPresent p f), fieldBit 29 c.mse, fieldBit 28 c.bme, fieldBit 27 c.msixEn,
    fieldBit 26 c.fmask, (4, 0, s.bar4Code p f)]

/-! ### Cores and their engines -/

/-- XC_STATUS (R248). -/
def Core.statusView (x : Core) : Nat :=
  match x.locked with
  | some (v, c) => overlay 0 [fieldBit 31 true, (28, 24, v), (23, 16, c)]
  | none => 0

/-- XC_PEND (R243). -/
def Core.pendView (x : Core) : Nat := x.pend.foldl (fun v e => v ||| 2 ^ (e.vec % 32)) 0

/-- Fields that no vector has, or that vector 0 would have, read 0. -/
def levelMask (n : Nat) : Nat := if n = 0 then 0x77777770 else 0x77777777

/-- XC_LOCKMAPn (R248). -/
def State.lockmapView (s : State) (n : Nat) : Nat :=
  (List.range 32).foldl (fun v j =>
    v + oneIf (decide (32 * n + j < 776) && (s.core (32 * n + j)).locked.isSome) (2 ^ j)) 0

def ApertureState.code : ApertureState → Nat
  | .closed => 0 | .opened => 1 | .closing => 2

/-- SP_SLOTBITSn_w (R127). -/
def State.slotbitsView (s : State) (k i : Nat) : Nat :=
  let n := i / 8
  let d := s.apDesc k n
  if d.mode ≠ 2 then 0
  else (List.range 32).foldl (fun v j =>
    let sl := 32 * (i % 8) + j
    v + oneIf (decide (sl < d.slotCount) && (get {} (s.ap k n).slots sl).full) (2 ^ j)) 0

/-- MX_STATUS. How many of the commands that may be in flight are so at a moment is free (R59, R74,
notes/assumptions/15.md). -/
def State.mxStatusView (s : State) (k : Nat) : Nat :=
  let m := s.mxOf k
  let may := s.mxFlying k
  let fly := may.take (Config.freeNat s.freeCount % (may.length + 1))
  overlay (s.reg .mxStatus k 0) [(16, 12, m.queue.length), fieldBit 11 m.held,
    fieldBit 10 (m.writeBacks != [] || fly.any EngineCmd.inArray), fieldBit 9 (fly.any EngineCmd.inTransfer),
    fieldBit 8 m.saving.isSome, (7, 4, match m.resident with | some n => 2 ^ n | none => 0)]

/-- VX_STATUS. How many of the commands that may be in flight are so at a moment is free (R91, R98,
notes/assumptions/15.md). -/
def State.vxStatusView (s : State) (k : Nat) : Nat :=
  let x := s.vxOf k
  let may := s.vxFlying k [] 16
  let fly := may.take (Config.freeNat s.freeCount % (may.length + 1))
  overlay (s.reg .vxStatus k 0) [(16, 12, x.queue.length), fieldBit 11 x.held, fieldBit 10 (fly != []),
    fieldBit 9 (fly.any fun c => decide (1 < vxChunks c)), fieldBit 8 x.saving.isSome]

def State.dmStatusView (s : State) (k : Nat) : Nat :=
  let c (n : Nat) : Chan := s.chan k n
  overlay (s.reg .dmStatus k 0) [(23, 20, (c 1).queue.length), (19, 16, (c 0).queue.length), fieldBit 11 (s.dmOf k).held,
    fieldBit 10 (c 1).halted, fieldBit 9 (c 0).halted, fieldBit 8 (c 1).dgo.isSome, fieldBit 7 (c 0).dgo.isSome]

/-- The in-use flags as MX_TILE_USE lays them out. -/
def State.tileUseView (s : State) (k : Nat) : Nat := (s.mxOf k).mask

def State.tileShapeView (s : State) (k n : Nat) : Nat :=
  let t := (s.mxOf k).tile n
  overlay 0 [(13, 7, t.rlen4), (6, 0, t.rows)]

/-! ### The value of a register -/

/-- What a register shows. The beat rate of a handshake stage is a physical measurement, updated every 10 µs: a free value
from the first update after a reset. -/
def State.regValue (s : State) (r : RegId) (u n : Nat) : Nat :=
  match r with
  | .mgStage => overlay (s.reg r u n) [(2, 0, s.level)]
  | .mgAlertSrc => s.alertSrc
  | .scStatus => s.scStatusView
  | .rsStatus => s.rsStatusView
  | .rsSafelight => s.rs.seq.toNat
  | .rsSlcfg => overlay (s.reg r u n) [(21, 6, s.leftMs)]
  | .rsCount => s.rs.count
  | .rsUptime => s.uptime % 2 ^ 32
  | .pwStatus => overlay 0 [fieldBit 31 s.pw.dipHold, fieldBit 30 s.pw.hold, fieldBit 29 s.pw.capMissed, (8, 0, s.pw.act)]
  | .pwRail => s.railView
  | .pwDens => overlay (s.reg r u n) [fieldBit 31 s.pw.densBusy]
  | .pwPhase => s.phaseView
  | .pwClClk => overlay (s.reg r u n) [(8, 0, s.ceil5 u)]
  | .pwClTarget => overlay (s.reg r u n) [fieldBit 31 (get false s.pw.degraded u), (23, 16, get 0 s.pw.slack u)]
  | .pwClEst => overlay 0 [(31, 26, (s.slice (8 * u)).phase), (15, 0, get 0 s.pw.est u)]
  | .pwClTemp => overlay 0 [(7, 0, tempCode (get 0 s.pw.tj u))]
  | .cxStatus => s.cxStatusView
  | .cxRecw => (s.ctxRec (s.fld fCX_RECSEL_CTX)).view n
  | .cxMapstat => overlay (s.reg r u n) [(2, 0, s.cx.sent.length)]
  | .syCnt => (s.ctr (s.fld fSY_CNT_SEL_CNT)).count
  | .syCntAttr => s.cntAttrView
  | .syXlat => s.xlatView
  | .syBarCfg => s.barSel.cfg.toNat
  | .syBarInc => s.barSel.inc.toNat
  | .syBarExp => if s.fld fSY_BAR_SEL_NODE < 25 then get 0 s.barSel.exp (s.fld fSY_BAR_SEL_NODE) else 0
  | .syBarRoot => s.barSel.root.toNat
  | .syBarBox => s.barSel.box.toNat
  | .syBarTree => s.barTreeView
  | .syBarState => overlay 0 [(31, 30, oneIf s.barSel.lastLost 1), (23, 0, s.barSel.rounds)]
  | .msStatus => s.msStatusView
  | .msStallRec => (s.stallLog.headD 0).toNat
  | .msRate => if s.clock < s.resetAt + 10 then 0 else Config.freeNat s.freeCount % 4096
  | .msPeek => s.peek
  | .drSstatus => s.sliceView u
  | .drMapRes => s.mapResView
  | .olId => overlay 0 [fieldBit 31 s.ol.mapped, (15, 0, s.ol.devId.toNat)]
  | .olCoord => s.ol.coord % 0x10000
  | .olEpoch => overlay 0 [(31, 16, s.ol.epoch), fieldBit 15 s.ol.armed, fieldBit 14 s.ol.draining]
  | .olRt => s.routeView
  | .olLinkState => s.linkView u
  | .olLinkPeer => overlay 0 [(31, 16, (s.link u).peerCoord.toNat), (15, 0, (s.link u).peerDev.toNat)]
  | .olPortState => s.portView u
  | .pxPstat => s.pstatView u
  | .pxFnStat => s.fnStatView u n
  | .xcStatus => (s.core u).statusView
  | .xcPend => (s.core u).pendView
  | .xcVlvl => s.reg r u n &&& levelMask n
  | .xcTnowLo => s.tnow % 2 ^ 32
  | .xcTnowHi => s.tnow / 2 ^ 32 % 2 ^ 32
  | .xcLockmap => s.lockmapView n
  | .cfStatus => overlay (s.reg r u n) [fieldBit 31 (s.core u).range.isSome]
  | .spStatus => overlay (s.reg r u n) [(12, 8, (s.spOf u).scoreboard.length)]
  | .spApCtrl => overlay (s.reg r u n) [(30, 29, (s.ap u n).state.code)]
  | .spSlotbits => s.slotbitsView u n
  | .mxStatus => s.mxStatusView u
  | .mxTileUse => s.tileUseView u
  | .mxTshape => s.tileShapeView u n
  | .vxStatus => s.vxStatusView u
  | .vxProgress => (s.vxOf u).progressWord
  | .dmStatus => s.dmStatusView u
  | _ => s.reg r u n

end Sys2Proof.Machine
end

