-- ==== Sys2Proof/Machine/RegAccess.lean ====
section
/-! DEFINITION. Accesses to the register region (R3–R5, R460): reads with what they clear, and writes with what
they do. -/

namespace Sys2Proof.Machine

/-! ### Masks -/

/-- The mask of bits [hi:lo]. -/
def maskOf (hi lo : Nat) : Nat := (2 ^ (hi + 1 - lo) - 1) * 2 ^ lo

/-- The bits of a register that have an access code. -/
def accMask (r : RegId) (a : Access) : Nat :=
  (regFields r).foldl (fun m f => if f.acc = a then m ||| maskOf f.hi f.lo else m) 0

/-- The bits of x outside a mask. -/
def without (x m : Nat) : Nat := (x ||| m) ^^^ m

/-- Whether every field of a register is write-only (R3). -/
def writeOnly (r : RegId) : Bool := (regFields r).all (·.acc == .wo)

/-- Whether every field of a register lies in the addressed halves. -/
def fieldsWithin (r : RegId) (lo hi : Bool) : Bool :=
  (regFields r).all fun f => (hi || decide (f.hi < 16)) && (lo || decide (16 ≤ f.lo))

/-! ### Reading -/

/-- The bytes of a window of the blocks MG and SC that is no register: the proof records (R391), and SC_STAGE, SC_RPT
and SC_XMEASj (R404). -/
def State.windowByte (s : State) (blk off : Nat) : Byte :=
  if blk = 0 then
    if 0x200 ≤ off ∧ off < 0x1000 then (s.proof.getD ((off - 0x200) / 24) []).getD ((off - 0x200) % 24) 0 else 0
  else if blk = 1 then
    if 0x1000 ≤ off ∧ off < 0x3000 then get 0 s.sec.stage (off - 0x1000)
    else if 0x4000 ≤ off ∧ off < 0x6800 then get 0 s.sec.rpt (off - 0x4000)
    else if 0x8000 ≤ off ∧ off < 0x8200 then (get [] s.sec.meas ((off - 0x8000) / 64)).getD (off % 64) 0
    else 0
  else 0

/-- Registers with a field whose value the spec leaves open: a read takes fresh free values. -/
def showsFree (r : RegId) : Bool := r == .msRate || r == .mxStatus || r == .vxStatus

/-- Reads the addressed halves of the 32-bit word at an offset of a block, and clears its RC fields there (R5). -/
def State.readPart (s : State) (blk off : Nat) (lo hi : Bool) : Nat × State :=
  let half := halfMask lo hi
  match findReg blk off with
  | none => (leNat ((span off 4).map (s.windowByte blk)) &&& half, s)
  | some (r, u, n) =>
    let v := s.regValue r u n &&& half
    let rc := accMask r .rc &&& half
    let s := if rc = 0 then s else s.setReg r u n (without (s.reg r u n) rc)
    (v, if showsFree r then { s with freeCount := s.freeCount + 2 } else s)

/-! ### Writing -/

/-- Fields whose table keeps the old value against some written one: a time of 0 and the values a table bounds or
marks as reserved (R4). -/
def keepsOld (r : RegId) (x : Nat) : Bool :=
  match r with
  | .spTimeout => bits x 19 0 == 0
  | .dmTimeout => bits x 19 0 == 0
  | .msStallLimit => bits x 19 0 == 0
  | .cxGather => decide (1000 < bits x 9 0)
  | .cxMaprt => bits x 15 0 == 0
  | .drScrubper => bits x 7 0 == 0 || decide (168 < bits x 7 0)
  | .pxHlost => bits x 15 0 == 0
  | .rsLockdly => bits x 15 0 == 0
  | _ => false

/-- The value a register takes of what a write left in it, field by field. PX_FNf_D4LEN keeps a LEN64K above 1,572,864 as
it was written (DESIGN CHOICE, notes/assumptions/99.md). -/
def settle (r : RegId) (old new : Nat) : Nat :=
  match r with
  | .olTimers =>
    overlay new ((if bits new 31 16 = 0 then [(31, 16, bits old 31 16)] else []) ++
      (if bits new 15 0 = 0 then [(15, 0, bits old 15 0)] else []))
  | .pxHwCtl => if 16 < bits new 4 0 then overlay new [(4, 0, bits old 4 0)] else new
  | .msPeekSel => if bits new 29 28 = 3 then overlay new [(29, 28, bits old 29 28)] else new
  | _ => if keepsOld r new then old else new

/-- The stored value after a write of the addressed halves: RW fields take the value, W1C bits written 1 clear. -/
def mergeWrite (r : RegId) (old v : Nat) (lo hi : Bool) : Nat :=
  let half := halfMask lo hi
  let rw := accMask r .rw &&& half
  settle r old (without (without old rw ||| (v &&& rw)) (v &&& half &&& accMask r .w1c))

/-- An engine's control register: ABANDON, then SAVE, then RESTORE. -/
def State.engineControl (s : State) (v : Nat) (abandon save restore : State → State) : State :=
  let s := if bit v 0 then abandon s else s
  let s := if bit v 1 then save s else s
  if bit v 2 then restore s else s

/-- DM_CTRL (R146, R149): ABANDON, then RESUME. -/
def State.dmControl (s : State) (k v : Nat) : State :=
  let s := if bit v 0 then s.dmAbandon k 0 else s
  let s := if bit v 1 then s.dmAbandon k 1 else s
  let s := if bit v 2 then s.dmResume k 0 else s
  if bit v 3 then s.dmResume k 1 else s

/-- CX_CMD (R204, R213). -/
def State.cxCmdWrite (s : State) (v : Nat) : State :=
  s.cxReach (.command (bits v 31 28) (bit v 27) (bits v 26 22) false (bits v 11 0))

/-- Clears the LOST flag of the counter selected (R294). -/
def State.clearLost (s : State) : State :=
  let p := s.fld fSY_CNT_SEL_CNT
  s.setCtr p { s.ctr p with lost := false }

/-- A write of CF_RANGE_CTRL by unit number. -/
def State.rangeWrite (s : State) (u v : Nat) : State := if h : u < 776 then s.rangeStart ⟨u, h⟩ v else s

/-- What a write to a register does. v holds the written bits of the addressed halves and 0 elsewhere. -/
def State.writeReg (s : State) (rq : Requester) (r : RegId) (u n v : Nat) (lo hi : Bool) : State :=
  let merged := mergeWrite r (s.reg r u n) v lo hi
  let store (t : State) : State := t.setReg r u n merged
  match r with
  | .rsCmd => s.rsCommand (isManagement rq) (bits v 3 0)
  | .rsSafelight => if lo then s.strokeWrite v else s.setFlag fRS_STATUS_BADSTROKE true
  | .scCmd => s.secCommand rq (bits v 3 0)
  | .pwCap => s.capWrite (bits merged 9 0)
  | .pwDens => if bit v 30 then s.densRun else s
  | .cxCmd => s.cxCmdWrite v
  | .cxRecw => s.cxReach (.record false false 0 (s.fld fCX_RECSEL_CTX) n lo hi v)
  | .syCnt => s.handSetting (mergeHalves (s.regValue .syCnt u n) v lo hi)
  | .syCntAttr => if bit v 31 then s.clearLost else s
  | .syXlat => if lo then s.translationWrite v else s
  | .msCtrl => if bit v 0 then (store s).popStall else store s
  | .olEpoch => s.epochWrite v
  | .olRt => if lo then s.routeWrite v else s
  | .olPortState => if bit v 0 then s.retrain u else s
  | .pxHbeat => s.found u true
  | .pxPctl => (store s).found u false
  | .xcCtrl => if lo then s.timerWrite u r v else s
  | .xcTcmpLo => s.timerWrite u r merged
  | .xcTcmpHi => s.timerWrite u r merged
  | .xcSwi => s.softInterrupt v
  | .trCtrl => s.writeTrCtrl u v
  | .cfCtrl => if lo then s.writeCfCtrl u v else s
  | .cfL2ctrl => if lo then s.writeL2Ctrl v else s
  | .cfRangeCtrl => s.rangeWrite u v
  | .mxCtrl => s.engineControl v (·.mxAbandon u) (·.mxSaveStart u) (·.mxRestoreStart u)
  | .vxCtrl => s.engineControl v (·.vxAbandon u) (·.vxSaveStart u) (·.vxRestoreStart u)
  | .dmCtrl => s.dmControl u v
  | .spRelease => s.askRelease u v
  | .spApCtrl => s.apCtrlWrite u n merged
  | .spApRect => if (s.ap u n).state = .closed then store s else s
  | .spApShape => if (s.ap u n).state = .closed then store s else s
  | .spApSrc => if (s.ap u n).state = .closed then store s else s
  | .spApReq => if (s.ap u n).state = .closed then store s else s
  | _ => store s

/-- Whether any write acts on a register, also one of a half that holds no field (R3, R375, R378). -/
def anyWriteActs (r : RegId) : Bool := r == .pxHbeat

/-- Writes the addressed halves of the 32-bit word at an offset of a block. A 16-bit write to a write-only register
acts only when every field lies in that half, or when any write acts (R3). -/
def State.writePart (s : State) (rq : Requester) (blk off v : Nat) (lo hi : Bool) : State :=
  let v := v &&& halfMask lo hi
  match findReg blk off with
  | none =>
    if blk = 1 ∧ 0x1000 ≤ off ∧ off < 0x3000 then
      { s with sec := { s.sec with stage := putEnabled 0 s.sec.stage (off - 0x1000) (leBytes 4 v) [lo, lo, hi, hi] } }
    else s
  | some (r, u, n) =>
    if writeOnly r && !fieldsWithin r lo hi && !anyWriteActs r then s else s.writeReg rq r u n v lo hi

/-! ### Accesses (R3, R460) -/

/-- The block, the offset of the 32-bit word and the addressed halves of a 16-bit or 32-bit access. -/
structure RegPart where
  blk : Nat
  off : Nat
  lo  : Bool
  hi  : Bool
  deriving DecidableEq, Repr

/-- The part that is a whole 32-bit word, o bytes into the register region. -/
def wordPart (o : Nat) : RegPart := ⟨o / 0x1000000, o % 0x1000000, true, true⟩

/-- The parts of an access in the order they are made; none for one that R3 or R460 refuses with cause 0x2. The second
half of a 64-bit access at the end of a block lies in the next block. -/
def regParts (a : Nat) (size : AccessSize) : Option (List RegPart) :=
  let o := a - regBase
  let blk := o / 0x1000000
  let off := o % 0x1000000
  if a < regBase ∨ 16 < blk then none
  else match size with
    | .b8 => none
    | .b16 => if off % 2 = 0 then some [⟨blk, off / 4 * 4, off % 4 == 0, off % 4 == 2⟩] else none
    | .b32 => if off % 4 = 0 then some [wordPart o] else none
    | .b64 => if off % 4 = 0 then some [wordPart o, wordPart (o + 4)] else none

/-- The cause with which a part of an access is refused, if it is (R3, R460): 0x2 past the last block, and 0x1 for
a requester without the right. -/
def State.partRefused (rights : State) (rq : Requester) (p : RegPart) (write : Bool) (w : Nat) : Option Nat :=
  if 16 < p.blk then some 2 else if rights.mayAccess rq p.blk p.off write w then none else some 1

/-- Reads the parts of an access in order, up to the first refused one. The rights are those that stand in the
second state. -/
def State.readParts (rights : State) (rq : Requester) : List RegPart → State → Reply (List Nat) × State
  | [], s => (.ok [], s)
  | p :: r, s =>
    match rights.partRefused rq p false 0 with
    | some e => (.err e, s)
    | none =>
      let (v, t) := s.readPart p.blk p.off p.lo p.hi
      match State.readParts rights rq r t with
      | (.ok l, u) => (.ok (v :: l), u)
      | x => x

/-- The number of the parts read: a 16-bit access answers its half. -/
def partsValue (ps : List RegPart) (vs : List Nat) : Nat :=
  match ps, vs with
  | [p], [v] => if p.lo then v else v / 0x10000
  | _, [a, b] => a + b * 0x100000000
  | _, _ => 0

/-- A read of a register (R3, R5, R252): its value, or the cause of an access error. A 64-bit access whose second half
is refused has read its first half and is answered with the cause alone (DESIGN CHOICE, notes/assumptions/100.md). -/
def State.regRead (s rights : State) (rq : Requester) (a : Nat) (size : AccessSize) : Reply Nat × State :=
  match regParts a size with
  | none => (.err 2, s)
  | some ps =>
    match State.readParts rights rq ps s with
    | (.ok vs, t) => (.ok (partsValue ps vs), t)
    | (.err e, t) => (.err e, t)
    | (.wait, t) => (.wait, t)

/-- The part of a written number that goes to a part of an access. -/
def partWrite (p : RegPart) (i v : Nat) : Nat :=
  if p.lo && p.hi then v / 2 ^ (32 * i) % 2 ^ 32 else if p.lo then v % 0x10000 else v % 0x10000 * 0x10000

/-- Writes the parts of an access in order, up to the first refused one. -/
def State.writeParts (rights : State) (rq : Requester) (v : Nat) : Nat → List RegPart → State → Reply Unit × State
  | _, [], s => (.ok (), s)
  | i, p :: r, s =>
    let w := partWrite p i v
    match rights.partRefused rq p true w with
    | some e => (.err e, s)
    | none => State.writeParts rights rq v (i + 1) r (s.writePart rq p.blk p.off w p.lo p.hi)

/-- A write of a register (R3, R252): done, or the cause of an access error. A 64-bit access whose second half is
refused has written its first half and is answered with the cause (DESIGN CHOICE, notes/assumptions/100.md). -/
def State.regWrite (s rights : State) (rq : Requester) (a : Nat) (size : AccessSize) (v : Nat) : Reply Unit × State :=
  match regParts a size with
  | none => (.err 2, s)
  | some ps => State.writeParts rights rq v 0 ps s

/-! ### The commands of the table -/

/-- The bytes of an access. -/
def sizeBytes : AccessSize → Nat
  | .b8 => 1
  | .b16 => 2
  | .b32 => 4
  | .b64 => 8

/-- Whether an access by local address from outside the cores may reach n bytes of a scratchpad from an offset: management's
with debug unlocked (R104); its causes are DESIGN CHOICE (notes/assumptions/101.md). -/
def State.granuleRefused (s : State) (rq : Requester) (o n : Nat) : Option Nat :=
  if !s.debugger rq then some 4 else if 0x100000 < o + n then some 2 else none

/-- The place in the supervisor SRAM of n bytes that a requester from outside the cores reaches there: management does, at any
time (R237). -/
def sramReached (rq : Requester) (a n : Nat) : Option Nat :=
  if isManagement rq then (sramPlace a).filter fun o => decide (o + n ≤ sramSize) else none

/-- A read at a local address: of scratchpad granules, of supervisor SRAM or of a register (R104, R237, R3). -/
def State.addressRead (s : State) (rq : Requester) (a : Nat) (size : AccessSize) : Reply Nat × State :=
  match spPlace a with
  | none =>
    match sramReached rq a (sizeBytes size) with
    | none => s.regRead s rq a size
    | some o =>
      match s.sramRead o (sizeBytes size) with
      | .ok d => (.ok (leNat d), s)
      | .err e => (.err e, s)
      | .wait => (.wait, s)
  | some (k, o) =>
    match s.granuleRefused rq o (sizeBytes size) with
    | some e => (.err e, s)
    | none =>
      match s.spRead k o (sizeBytes size) with
      | (d, none, t) => (.ok (leNat d), t)
      | (_, some _, t) => (.err 3, t)

/-- A write at a local address: of scratchpad granules, of supervisor SRAM or of a register (R104, R237, R3). -/
def State.addressWrite (s : State) (rq : Requester) (a : Nat) (size : AccessSize) (v : Nat) : Reply Unit × State :=
  match spPlace a with
  | none =>
    match sramReached rq a (sizeBytes size) with
    | none => s.regWrite s rq a size v
    | some o =>
      let d := leBytes (sizeBytes size) v
      s.sramWrite o d (d.map fun _ => true)
  | some (k, o) =>
    match s.granuleRefused rq o (sizeBytes size) with
    | some e => (.err e, s)
    | none => (.ok (), s.spStore k o (leBytes (sizeBytes size) v))

/-- A read by a requester, with its answer. -/
def State.readBy (s : State) (rq : Requester) (a : Nat) (size : AccessSize) : State :=
  match s.addressRead rq a size with
  | (.ok v, t) => t.emit (.regData rq a v)
  | (.err c, t) => t.emit (.accessError rq a c)
  | (.wait, t) => t

/-- A write by a requester, with its answer. -/
def State.writeBy (s : State) (rq : Requester) (a : Nat) (size : AccessSize) (v : Nat) : State :=
  match s.addressWrite rq a size v with
  | (.ok _, t) => t.emit (.regAck rq a)
  | (.err c, t) => t.emit (.accessError rq a c)
  | (.wait, t) => t

def execRegisterWrite (rq : Requester) (addr : BitVec 48) (size : AccessSize) (value : BitVec 64) (s : State) :
    Host.Outcome State Fault Refusal := .next (s.writeBy rq addr.toNat size value.toNat)
def execRegisterReadClear (rq : Requester) (addr : BitVec 48) (size : AccessSize) (s : State) :
    Host.Outcome State Fault Refusal := .next (s.readBy rq addr.toNat size)
def execMxAbandon (rq : Requester) (k : CcId) (s : State) : Host.Outcome State Fault Refusal :=
  .next (s.regCommand rq 14 (k * 0x100 + 4) 1 fun t => t.mxAbandon k)
def execMxSave (rq : Requester) (k : CcId) (s : State) : Host.Outcome State Fault Refusal :=
  .next (s.regCommand rq 14 (k * 0x100 + 4) 2 fun t => t.mxSaveStart k)
def execMxRestore (rq : Requester) (k : CcId) (s : State) : Host.Outcome State Fault Refusal :=
  .next (s.regCommand rq 14 (k * 0x100 + 4) 4 fun t => t.mxRestoreStart k)
def execVxAbandon (rq : Requester) (k : CcId) (s : State) : Host.Outcome State Fault Refusal :=
  .next (s.regCommand rq 15 (k * 0x100 + 4) 1 fun t => t.vxAbandon k)
def execVxSave (rq : Requester) (k : CcId) (s : State) : Host.Outcome State Fault Refusal :=
  .next (s.regCommand rq 15 (k * 0x100 + 4) 2 fun t => t.vxSaveStart k)
def execVxRestore (rq : Requester) (k : CcId) (s : State) : Host.Outcome State Fault Refusal :=
  .next (s.regCommand rq 15 (k * 0x100 + 4) 4 fun t => t.vxRestoreStart k)
def execApertureOpen (rq : Requester) (k : CcId) (ap : Fin 16) (value : BitVec 32) (s : State) :
    Host.Outcome State Fault Refusal :=
  .next (s.regCommand rq 13 (k * 0x800 + 0x210 + 0x20 * ap.val) value.toNat fun t =>
    t.apCtrlWrite k ap (value.toNat ||| 0x80000000))
def execApertureClose (rq : Requester) (k : CcId) (ap : Fin 16) (value : BitVec 32) (s : State) :
    Host.Outcome State Fault Refusal :=
  .next (s.regCommand rq 13 (k * 0x800 + 0x210 + 0x20 * ap.val) value.toNat fun t =>
    t.apCtrlWrite k ap (value.toNat % 0x80000000))
def execSpRelease (rq : Requester) (k : CcId) (value : BitVec 32) (s : State) : Host.Outcome State Fault Refusal :=
  .next (s.regCommand rq 13 (k * 0x800 + 0x40) value.toNat fun t => t.askRelease k value.toNat)
def execDmResume (rq : Requester) (k : CcId) (ch : ChanId) (s : State) : Host.Outcome State Fault Refusal :=
  .next (s.regCommand rq 16 (k * 0x100 + 4) (4 * (ch.val + 1)) fun t => t.dmResume k ch)
def execDmAbandon (rq : Requester) (k : CcId) (ch : ChanId) (s : State) : Host.Outcome State Fault Refusal :=
  .next (s.regCommand rq 16 (k * 0x100 + 4) (ch.val + 1) fun t => t.dmAbandon k ch)
def execPop (rq : Requester) (s : State) : Host.Outcome State Fault Refusal :=
  .next (s.regCommand rq 6 0 1 fun t => t.popStall)
end Sys2Proof.Machine
end

