-- ==== Sys2Proof/Machine/Ops.lean ====
section
/-! DEFINITION. The named operations of a core: fetch, loads and stores of words (R217, R226, R268, R269, R276),
taking an exception (R243–R250), and how an instruction begins and ends (R232, R244). -/

namespace Sys2Proof.Machine

/-! ### Outcomes -/

/-- A synchronous exception: its vector, cause and fault address, and the poisoned granule of a scratchpad fault. -/
structure Exc where
  vec    : Nat
  cause  : Nat
  fa     : Addr := 0
  poison : Option Nat := none
  deriving DecidableEq, Repr

/-- What a step of an access gives: a value, a wait, or an exception. -/
inductive Got (α : Type) where
  | ok (v : α)
  | wait
  | exc (e : Exc)
  deriving DecidableEq, Repr

/-- An instruction fault and a protection fault (R220, R251). -/
def instructionFault (cause : Nat) : Exc := ⟨1, cause, 0, none⟩
def protectionFault (cause : Nat) : Exc := ⟨2, cause, 0, none⟩

/-- What a read of a home is to a scalar load or fetch whose first word is at va (R107, R252). -/
def gotOf (va : Addr) : HomeRead → Got (List Byte)
  | .ok d => .ok d
  | .err c => .exc ⟨4, c, va, none⟩
  | .poison g => .exc ⟨8, 1, va, some g⟩
  | .wait => .wait

/-! ### Fetch (R232, R262) -/

/-- Reads one word of core c at a ring as an instruction word. -/
def State.fetchRead (s : State) (c : CoreId) (va : Addr) (ring : Nat) : Got (List Byte) × State :=
  match s.translate c va .fetch ring with
  | (.wait, _) => (.wait, s)
  | (.err f, t) => (.exc ⟨3, f, va, none⟩, t)
  | (.ok la, t) =>
    if !cacheable c la then (.exc ⟨4, 2, va, none⟩, t)
    else match t.cachedRead c (.instr c) la 2 with
      | (r, u) =>
        match gotOf va r with
        | .ok d => (.ok d, u)
        | .wait => (.wait, s)
        | .exc e => (.exc e, u)

/-- Fetches one word of core c at a ring. -/
def State.fetchWord (s : State) (c : CoreId) (va : Addr) (ring : Nat) : Got Unit × State :=
  match s.fetchRead c va ring with
  | (.ok _, t) => (.ok (), t)
  | (.wait, _) => (.wait, s)
  | (.exc e, t) => (.exc e, t)

/-- Fetches words in order, up to the first that cannot be fetched. -/
def State.fetchWords (s : State) (c : CoreId) (ring : Nat) : List Addr → Got Unit × State
  | [] => (.ok (), s)
  | va :: r =>
    match s.fetchWord c va ring with
    | (.ok _, t) =>
      match State.fetchWords t c ring r with
      | (.wait, _) => (.wait, s)
      | x => x
    | x => x

/-! ### Homes of stores -/

/-- The state in which a core's ring is another one: the rights of an access made at that ring (R255). -/
def State.asRing (s : State) (c ring : Nat) : State := s.modCore c fun x => { x with st := stWith x.st ring x.mask }

/-- A store updates the caches that hold its line (R266). -/
def State.storeCaches (s : State) (c : CoreId) (la : Nat) (bytes : List Byte) : State :=
  if !cacheable c la then s
  else
    let s := s.storeTo (.data c) la bytes
    if isSupervisor c then s.storeTo .l2 la bytes else s

/-- A write of a core's scalar engine to another core's scratchpad: channel 9 for a store, 12 for a word of a frame. The spec
gives such a write no generation: it is a free value. -/
def State.scalarWrite (s : State) (c chan la : Nat) (bytes : List Byte) : Msg :=
  { kind := .write, ddev := s.ol.devId, sdev := s.ol.devId, req := c, chan := chan, addr := la, len := bytes.length
    data := bytes, be := bytes.map fun _ => true, gen := Config.freeByte s.freeCount }

/-- How a core's write ends at its home: carried out, with an error and its cause (R252), held there at a full slot (R121),
or not begun. -/
inductive HomeWrite where
  | ok
  | err (cause : Nat)
  | held
  | wait
  deriving DecidableEq, Repr

/-- What a home's answer is to a core's write. -/
def homeWrite : Reply Unit × State → HomeWrite × State
  | (.ok _, t) => (.ok, t)
  | (.err e, t) => (.err e, t)
  | (.wait, t) => (.wait, t)

/-- Writes 2 or 4 bytes at their home for core c (R104, R237, R252, R268). At another core's scratchpad they meet its
apertures, when plane V has room for them there (R121, R155). -/
def State.writeHome (s : State) (c ring chan la : Nat) (bytes : List Byte) : HomeWrite × State :=
  match targetOf la with
  | .scratchpad k o =>
    if k = c then (.ok, s.spStore k o bytes)
    else if s.planeHeld k 3 || !s.exitRoom k 3 then (.wait, s)
    else
      let m := s.scalarWrite c chan la bytes
      match { s with freeCount := s.freeCount + 1 }.arriveWrite k o m with
      | (.done, t) => (.ok, t)
      | (.refused _, t) => (.err 4, t)
      | (.held ap sl, t) => (.held, t.modSp k fun p => { p with held := p.held ++ [⟨ap, sl, 3, m⟩] })
  | .dram => homeWrite (s.dramWrite la bytes (bytes.map fun _ => true))
  | .sram o => homeWrite (s.sramWrite o bytes (bytes.map fun _ => true))
  | .register =>
    if h : c < 776 then
      homeWrite (s.regWrite (s.asRing c ring) (.core ⟨c, h⟩) la (if bytes.length = 2 then .b16 else .b32) (leNat bytes))
    else (.err 2, s)
  | .host _ => match s.hostAccept la bytes with | some t => (.ok, t) | none => (.err 5, s)
  | .unmapped => (.err 2, s)

/-- Whether a store in the buffer overlaps n bytes from a local address (R269). -/
def Core.storeOverlaps (x : Core) (la n : Nat) : Bool :=
  x.stores.any fun e => decide (e.la < la + n ∧ la < e.la + e.bytes.length)

/-! ### Pieces (R217) -/

/-- A piece of an access: its first word, its local address and its length: a word, or a pair whose address is even. -/
structure WordPiece where
  va : Addr
  la : Nat
  n  : Nat
  deriving DecidableEq, Repr

/-- The pieces of an access whose words lie at the local addresses given. -/
def piecesOf : Addr → List Nat → List WordPiece
  | _, [] => []
  | va, [a] => [⟨va, a, 2⟩]
  | va, a :: b :: r =>
    if va.toNat % 2 = 0 then ⟨va, a, 4⟩ :: piecesOf (va + 2) r else ⟨va, a, 2⟩ :: piecesOf (va + 1) (b :: r)

/-- The sub-window of a host window that an address lies in. -/
def windowOf (la : Nat) : Option Nat :=
  match targetOf la with
  | .host _ => some (la / 0x8000000000)
  | _ => none

/-- Whether an access reaches a host window and its bytes do not all lie within one sub-window: it is refused whole
(R369). -/
def spansWindows (ps : List WordPiece) : Bool :=
  match ps with
  | [] => false
  | p :: _ => (ps.any fun q => (windowOf q.la).isSome) && !(ps.all fun q => windowOf q.la == windowOf p.la)

/-! ### Loads (R226, R262, R265, R269, R276) -/

/-- Reads one piece. -/
def State.loadPiece (s : State) (c : CoreId) (vol : Bool) (ring : Nat) (p : WordPiece) : Got (List Byte) × State :=
  match targetOf p.la with
  | .register =>
    match s.regRead (s.asRing c ring) (.core c) p.la (if p.n = 2 then .b16 else .b32) with
    | (.ok v, t) => (.ok (leBytes p.n v), t)
    | (.err e, t) => (.exc ⟨4, e, p.va, none⟩, t)
    | (.wait, _) => (.wait, s)
  | .host _ =>
    match ((s.core c).hostLoads.find? (·.la == p.la)).bind (·.got) with
    | some (some d) => (.ok d, s)
    | some none => (.exc ⟨4, 5, p.va, none⟩, s)
    | none => (.wait, s)
  | .unmapped => (.exc ⟨4, 2, p.va, none⟩, s)
  | _ =>
    if !cacheable c p.la then
      let (r, t) := s.homeRead c p.la p.n
      (gotOf p.va r, t)
    else if vol then
      let s1 := s.dropLine (.data c) (lineOf p.la)
      let s1 := if isSupervisor c then s1.dropLine .l2 (lineOf p.la) else s1
      let (r, t) := s1.homeRead c p.la p.n
      (gotOf p.va r, t)
    else
      let (r, t) := s.cachedRead c (.data c) p.la p.n
      (gotOf p.va r, t)

/-- Reads pieces in order, up to the first exception. -/
def State.loadPieces (s : State) (c : CoreId) (vol : Bool) (ring : Nat) : List WordPiece → Got (List Byte) × State
  | [] => (.ok [], s)
  | p :: r =>
    match s.loadPiece c vol ring p with
    | (.ok d, t) =>
      match State.loadPieces t c vol ring r with
      | (.ok e, u) => (.ok (d ++ e), u)
      | x => x
    | (.wait, t) => (.wait, t)
    | (.exc e, t) => (.exc e, t)

/-- How a load ends: its words, a wait that changes nothing, a wait for a host, or an exception. -/
inductive Loaded where
  | ok (ws : List Half) (s : State)
  | wait
  | hold (s : State)
  | exc (e : Exc) (s : State)

/-- Sends the read of a piece to its host port. -/
def State.hostRequest (s : State) (c : CoreId) (p : WordPiece) (port : Nat) : State :=
  (s.modCore c fun x => { x with hostLoads := x.hostLoads ++ [{ la := p.la, len := p.n }] }).portArrival port
    { kind := .readReq, ddev := s.ol.devId, sdev := s.ol.devId, req := c, chan := 11, addr := p.la, len := p.n, src := c }

/-- The next access to a host window that a load has to make: none when all have ended, or one ended in an error;
the piece, or a wait for the one outstanding. -/
def nextHostPiece (l : List HostLoad) : List WordPiece → Option (Option (WordPiece × Nat))
  | [] => none
  | p :: r =>
    match targetOf p.la with
    | .host port =>
      match l.find? (·.la == p.la) with
      | none => some (some (p, port))
      | some h =>
        match h.got with
        | none => some none
        | some none => none
        | some (some _) => nextHostPiece l r
    | _ => nextHostPiece l r

/-- Loads n words from a virtual word address at a ring. -/
def State.loadWords (s : State) (c : CoreId) (vol : Bool) (va : Addr) (n ring : Nat) : Loaded :=
  match s.translateAll c (wordsFrom va n) .read ring with
  | (.wait, _, _) => .wait
  | (.err f, v, t) => .exc ⟨3, f, v, none⟩ t
  | (.ok las, _, t) =>
    let ps := piecesOf va las
    let x := t.core c
    if spansWindows ps then .exc ⟨4, 5, va, none⟩ t
    else if ps.any fun p => x.storeOverlaps p.la p.n then .wait
    else if (ps.any fun p => orderedRegion p.la) && x.stores.any fun e => orderedRegion e.la then .wait
    else match nextHostPiece x.hostLoads ps with
      | some (some (p, port)) => .hold (t.hostRequest c p port)
      | some none => .wait
      | none =>
        match t.loadPieces c vol ring ps with
        | (.ok d, u) => .ok (bytesHalf d) (u.modCore c fun k => { k with hostLoads := [] })
        | (.wait, _) => .wait
        | (.exc e, u) => .exc e (u.modCore c fun k => { k with hostLoads := [] })

/-! ### Stores (R217, R226, R266, R268) -/

/-- Entries of a store buffer. -/
def storeEntries : Nat := 8

/-- The buffer entries of a store's pieces, in order. -/
def entriesOf (ring : Nat) : List WordPiece → List Byte → List StoreEntry
  | [], _ => []
  | p :: r, bytes =>
    { va := p.va, la := p.la, bytes := bytes.take p.n, ring := BitVec.ofNat 2 ring } :: entriesOf ring r (bytes.drop p.n)

/-- Puts the pieces of a store into the buffer, in order; the caches that hold a line take its bytes at once. -/
def State.bufferPieces (s : State) (c : CoreId) (ring : Nat) (ps : List WordPiece) (bytes : List Byte) : State :=
  let es := entriesOf ring ps bytes
  es.foldl (fun t e => t.storeCaches c e.la e.bytes) (s.modCore c fun x => { x with stores := x.stores ++ es })

/-- A store fails: the store error of R252 on its core. -/
def State.storeError (s : State) (c cause : Nat) (fa : Addr) : State := s.raise c 5 0 cause fa

/-- Stores words from a virtual word address at a ring: every word is translated before any is written, and a full
buffer makes the store wait. A store that R369 refuses whole is a store error. -/
def State.storeWords (s : State) (c : CoreId) (va : Addr) (ws : List Half) (ring : Nat) : Got Unit × State :=
  match s.translateAll c (wordsFrom va ws.length) .write ring with
  | (.wait, _, _) => (.wait, s)
  | (.err f, v, t) => (.exc ⟨3, f, v, none⟩, t)
  | (.ok las, _, t) =>
    let ps := piecesOf va las
    if spansWindows ps then (.ok (), t.storeError c 5 va)
    else if storeEntries < (t.core c).stores.length + ps.length then (.wait, s)
    else (.ok (), t.bufferPieces c ring ps (halfBytes ws))

/-- The oldest store of a core has ended with a cause, 0 for none: its entry frees. -/
def State.endStore (s : State) (c cause : Nat) (e : StoreEntry) : State :=
  let s := s.modCore c fun x => { x with stores := x.stores.tail, stored := x.stored + 1 }
  if cause = 0 then s else s.storeError c cause e.va

/-- The oldest store of a buffer is on its way. -/
def markSent : List StoreEntry → List StoreEntry
  | [] => []
  | e :: r => { e with sent := true } :: r

/-- A line of the L2, or of a fill of it, as a store that has taken effect at its home leaves it: younger stores that the
supervisor cores still buffer stay on top (R266). -/
def State.patchL2 (s : State) (e : StoreEntry) (line : Nat) (data : List Byte) : List Byte :=
  if lineOf e.la = line then applyStores line (patch data (e.la - line) e.bytes) s.supervisorStores else data

/-- A store of a supervisor core has taken effect at its home: the L2, which has had it since it executed, takes its place in
the order of the home (R266, R274; DEDUCED, notes/assumptions/116.md). It is no access to the L2. -/
def State.storeL2 (s : State) (c : CoreId) (e : StoreEntry) : State :=
  if isSupervisor c && cacheable c e.la && s.cacheOn .l2 then
    let set := cacheSet .l2 (lineOf e.la)
    let s := s.setLines .l2 set ((s.l2.lines set).map fun l => { l with data := s.patchL2 e l.line l.data })
    { s with l2 := { s.l2 with miss := s.l2.miss.map fun m => { m with data := s.patchL2 e m.line m.data } } }
  else s

/-- STORE_ACKNOWLEDGEMENT (R268): the oldest store of a core takes effect at its home and is acknowledged. It waits while a
request of its core that went before it to the same home has not been served (R179). -/
def State.storeAck (s : State) (c : CoreId) : State :=
  match (s.core c).stores with
  | [] => s
  | e :: _ =>
    if e.sent then
      match e.ended with
      | none => s
      | some cause => s.endStore c cause e
    else if s.requestsBefore c e then s
    else match s.writeHome c e.ring.toNat 9 e.la e.bytes with
      | (.ok, t) => (t.endStore c 0 e).storeL2 c e
      | (.err cause, t) => (t.endStore c cause e).storeL2 c e
      | (.held, t) => t.modCore c fun x => { x with stores := markSent x.stores }
      | (.wait, _) => s

/-! ### Taking an exception (R243–R250) -/

/-- The three words of an address. -/
def addrWords (a : Addr) : List Half := bytesHalf (leBytes 6 a.toNat)

/-- The address of three words. -/
def wordsAddr (ws : List Half) (n : Nat) : Addr := BitVec.ofNat 48 (addrAt ws n)

/-- The exception frame of a core (R245). -/
def Core.frame (x : Core) (src vec ovec entryf cause : Nat) (fa : Addr) : List Half :=
  [BitVec.ofNat 16 (0x1000 + src * 0x100 + vec), BitVec.ofNat 16 (entryf * 0x8000 + ovec * 0x100 + cause)] ++
    addrWords x.pc ++ [x.st] ++ addrWords x.lk ++ addrWords fa ++ x.grWords 0 16 ++
    ((List.range 8).flatMap fun i => addrWords (x.ar i)) ++ List.replicate 12 0

/-- The exclusive upper limit of the task-state area (R246). -/
def State.tslim (s : State) (c : Nat) : Nat := s.pairAddr .xcTslimLo .xcTslimHi c

/-- The pieces of words at virtual addresses, with the bytes of each, translated for writing at ring 0. -/
def State.framePieces (s : State) (c : CoreId) : List (Addr × List Half) → Got (List (WordPiece × List Byte)) × State
  | [] => (.ok [], s)
  | (va, ws) :: r =>
    match s.translateAll c (wordsFrom va ws.length) .write 0 with
    | (.wait, _, _) => (.wait, s)
    | (.err f, v, t) => (.exc ⟨3, f, v, none⟩, t)
    | (.ok las, _, t) =>
      match State.framePieces t c r with
      | (.ok l, u) =>
        (.ok ((piecesOf va las).map (fun p => (p, ((halfBytes ws).drop (2 * (p.va - va).toNat)).take p.n)) ++ l), u)
      | x => x

/-- A core's frame has been written as far as it says. -/
def State.putFrame (s : State) (c : Nat) (w : Option FrameWrite) : State := s.modCore c fun x => { x with frameWrite := w }

/-- Writes pieces at their homes with the rights of ring 0, from the nth of the frame on, up to the first error (R247). A
piece that waits, or is held at a full slot, keeps what has been written. -/
def State.writePieces (s : State) (c : CoreId) : Nat → List (WordPiece × List Byte) → Got Unit × State
  | n, [] => (.ok (), s.putFrame c (some { done := n }))
  | n, (p, d) :: r =>
    let w := ((s.core c).frameWrite.getD { done := 0 })
    if w.sent then
      match w.ended with
      | none => (.wait, s)
      | some 0 => State.writePieces (s.putFrame c (some { w with done := n + 1, sent := false, ended := none })) c (n + 1) r
      | some e => (.exc ⟨5, e, p.va, none⟩, s)
    else match s.writeHome c 0 12 p.la d with
      | (.ok, t) => State.writePieces (t.storeCaches c p.la d) c (n + 1) r
      | (.err e, t) => (.exc ⟨5, e, p.va, none⟩, t)
      | (.held, t) => (.wait, t.putFrame c (some { w with done := n, sent := true }))
      | (.wait, _) => (.wait, if n = 0 then s else s.putFrame c (some { w with done := n }))

/-- Writes words of a frame with the rights of ring 0 and waits for every acknowledgement (R245, R247). A store that the
buffer still holds for one of the words comes first (R275), and so does one to a register or a host window when a
word lies there (R269). -/
def State.writeFrameWords (s : State) (c : CoreId) (parts : List (Addr × List Half)) : Got Unit × State :=
  match s.framePieces c parts with
  | (.wait, _) => (.wait, s)
  | (.exc e, t) => (.exc e, t.putFrame c none)
  | (.ok ps, t) =>
    let x := t.core c
    if spansWindows (ps.map (·.1)) then (.exc ⟨5, 5, ((parts.map (·.1)).headD 0), none⟩, t)
    else if ps.any fun p => x.storeOverlaps p.1.la p.1.n then (.wait, s)
    else if (ps.any fun p => orderedRegion p.1.la) && x.stores.any fun e => orderedRegion e.la then (.wait, s)
    else
      let n := (x.frameWrite.map (·.done)).getD 0
      match t.writePieces c n (ps.drop n) with
      | (.exc e, u) => (.exc e, u.putFrame c none)
      | (.wait, u) => (.wait, if (u.core c).frameWrite.isSome then u else s)
      | r => r

/-- Writes an exception frame at TSR (R245, R247). -/
def State.writeFrame (s : State) (c : CoreId) (ws : List Half) : Reply Unit × State :=
  match s.writeFrameWords c [((s.core c).tsr, ws)] with
  | (.ok _, t) => (.ok (), t)
  | (.exc e, t) => (.err e.cause, t)
  | (.wait, t) => (.wait, t)

/-- Holds the engines of a core at an entry (R62, R93, R144, R250). -/
def State.holdEngines (s : State) (c : Nat) : State :=
  if 768 ≤ c then s
  else
    let tsr := (s.core c).tsr
    let s := (s.mxHold c tsr).vxHold c tsr
    let d := s.dmOf c
    if d.held && d.heldTsr.isSome then s else s.dmHold c tsr

/-- Resumes the engines that recorded a TSR (R62, R93, R144, R249). -/
def State.resumeEngines (s : State) (c : Nat) (tsr : Addr) : State :=
  if 768 ≤ c then s
  else
    let s := s.modMx c fun m => if m.heldTsr = some tsr then { m with held := false, heldTsr := none } else m
    let s := s.modVx c fun x => if x.heldTsr = some tsr then { x with held := false, heldTsr := none } else x
    if (s.dmOf c).heldTsr = some tsr then s.dmUnhold c else s

/-- The core runs the handler of a vector (R247, finish). -/
def State.finishEntry (s : State) (c vec : Nat) : State :=
  s.modCore c fun x => { x with
    tsr := x.tsr + 64
    st := stWith x.st 0 7
    pc := x.vbase + BitVec.ofNat 48 (8 * vec)
    frameWrite := none }

/-- Writes the frame of an entry and fetches the handler's first word. -/
def State.tryEntry (s : State) (c : CoreId) (src vec ovec entryf cause : Nat) (fa : Addr) : Reply Unit × State :=
  match s.writeFrame c ((s.core c).frame src vec ovec entryf cause fa) with
  | (.ok _, t) =>
    match t.fetchWord c ((s.core c).vbase + BitVec.ofNat 48 (8 * vec)) 0 with
    | (.ok _, u) => (.ok (), u)
    | (.wait, _) => (.wait, t)
    | (.exc e, u) => (.err e.cause, u)
  | r => r

/-- The core locks up (R248, R433). -/
def State.lockUp (s : State) (c ovec cause : Nat) : State :=
  (s.modCore c fun x => { x with locked := some (ovec, cause), frameWrite := none }).startLockDelay c

/-- Escalation of an entry to vector 0 (R247): how the entry stands while the frame or the fetch waits. -/
def State.escalate (s : State) (c : CoreId) (e : Entering) (entryf : Nat) : Option Entering × State :=
  let s := if e.esc.isSome then s else (s.count fXC_ESC_COUNT c).putFrame c none
  if s.tslim c < (s.core c).tsr.toNat + 64 then (none, s.lockUp c e.vec e.cause)
  else match s.tryEntry c e.src 0 e.vec entryf e.cause e.fa with
    | (.ok _, t) => (none, t.finishEntry c 0)
    | (.err _, t) => (none, t.lockUp c e.vec e.cause)
    | (.wait, t) => (some { e with esc := some entryf }, t)

/-- The entry of an exception (R247), once the engines hold: how it stands while a frame write or the fetch waits. -/
def State.enter (s : State) (c : CoreId) (e : Entering) : Option Entering × State :=
  if let some f := e.esc then s.escalate c e f
  else if e.sync ∧ s.level_ c e.vec ≤ (s.core c).mask then s.escalate c e 0
  else if s.tslim c < (s.core c).tsr.toNat + 128 then s.escalate c e 1
  else match s.tryEntry c e.src e.vec e.vec 0 e.cause e.fa with
    | (.ok _, t) => (none, t.finishEntry c e.vec)
    | (.err _, t) => t.escalate c e 1
    | (.wait, t) => (some e, t)

/-- The core goes on with an entry. While a frame write or the fetch waits, the core waits in it (R247). -/
def State.goOnEntering (s : State) (c : CoreId) (e : Entering) : State :=
  let (w, t) := s.enter c e
  t.modCore c fun x => { x with entering := w }

/-- TAKING AN EXCEPTION (R247): the engines hold, the frame is written at TSR, and the handler starts at ring 0 and mask
level 7. -/
def State.takeException (s : State) (c : CoreId) (vec src cause : Nat) (fa : Addr) (sync : Bool) : State :=
  (s.holdEngines c).goOnEntering c { vec := vec, src := src, cause := cause, fa := fa, sync := sync }

/-- A synchronous exception of core c; a scratchpad fault writes SP_FAULT (R107). -/
def State.takeSync (s : State) (c : CoreId) (e : Exc) : State :=
  let s := match e.poison with
    | some g => s.spFault c 1 0 0 (g / 32)
    | none => s
  s.takeException c e.vec 0 e.cause e.fa true

/-- Whether event a is taken before b: the higher level, then the lower vector, then the lower SRC (R243). -/
def State.eventBefore (s : State) (c : Nat) (a b : PendingEvent) : Bool :=
  if s.level_ c a.vec ≠ s.level_ c b.vec then decide (s.level_ c b.vec < s.level_ c a.vec)
  else if a.vec ≠ b.vec then decide (a.vec < b.vec)
  else decide (a.src < b.src)

/-- The asynchronous event that a core takes at an instruction boundary, if any (R243). -/
def State.deliverable (s : State) (c : Nat) : Option PendingEvent :=
  let x := s.core c
  (x.pend.filter fun e => decide (x.mask < s.level_ c e.vec)).foldl (fun best e =>
    match best with
    | none => some e
    | some b => if s.eventBefore c e b then some e else some b) none

/-- The wait of a core ends for an event: a WFI completes, a WAIT is withdrawn (R244, R293). None while a completion is on
its way to the core. -/
def State.endWait (s : State) (c : Nat) : Option State :=
  match (s.core c).waiting with
  | .no => some s
  | .wfi => some (s.modCore c fun x => { x with waiting := .no }.next 1)
  | .counter p =>
    if s.wakeInFlight c then none
    else some ((s.withdraw c p).modCore c fun x => { x with waiting := .no })

/-- Takes the event that may be delivered (R243, R244): it is delivered, and pending no more. -/
def State.takeAsync (s : State) (c : CoreId) : Option State :=
  match s.deliverable c with
  | none => none
  | some e =>
    (s.endWait c).map fun t =>
      (t.modCore c fun x => { x with pend := x.pend.erase e }).takeException c e.vec e.src e.cause e.fa false

/-! ### Instructions -/

/-- A core runs instructions: from level 1, outside standby, unless it is locked (R248, R395, R437). -/
def State.runs (s : State) (c : Nat) : Bool :=
  decide (1 ≤ s.level) && !s.rs.standby && (s.core c).locked.isNone

/-- How an instruction begins: it does not, or it executes from a state. -/
inductive Begin where
  | stop (s : State)
  | go (s : State)

/-- Whether a core is within an instruction that waits with a part of its accesses made. -/
def Core.within (x : Core) : Bool := x.hostLoads != [] || (x.frameWrite.isSome && x.entering.isNone)

/-- The boundary before an instruction of n words (R232, R243, R244): a deliverable event comes first, a core that waits
executes nothing, and a fetch fault is taken before the instruction executes. A core in an entry goes on with it. -/
def State.begin (s : State) (c : CoreId) (n : Nat) : Begin :=
  let x := s.core c
  if !s.runs c ∨ x.within then .stop s
  else if let some e := x.entering then .stop (s.goOnEntering c e)
  else if (s.deliverable c).isSome then .stop ((s.takeAsync c).getD s)
  else if x.waiting ≠ .no then .stop s
  else match s.fetchWords c x.ring (wordsFrom x.pc n) with
    | (.ok _, t) => .go t
    | (.wait, _) => .stop s
    | (.exc e, t) => .stop (t.takeSync c e)

/-- How an instruction ends: it has taken effect, it waits and has changed nothing, it waits with a request made, or
it faults. -/
inductive Flow where
  | done (s : State)
  | wait
  | hold (s : State)
  | exc (e : Exc) (s : State)

/-- The state after an instruction that ended so; s is the state before it. -/
def Flow.state (s : State) (c : CoreId) : Flow → State
  | .done t => t
  | .wait => s
  | .hold t => t
  | .exc e t => t.takeSync c e

/-- Runs an instruction of n words. -/
def State.instr (s : State) (c : CoreId) (n : Nat) (body : State → Flow) : State :=
  match s.begin c n with
  | .stop t => t
  | .go t => (body t).state s c

/-- Runs a load of n words of instruction: one that waits for a host goes on. -/
def State.instrLoad (s : State) (c : CoreId) (n : Nat) (body : State → Flow) : State :=
  if s.runs c ∧ (s.core c).hostLoads ≠ [] then (body s).state s c else s.instr c n body

/-- An instruction that changes its own core's registers only. -/
def State.instrCore (s : State) (c : CoreId) (n : Nat) (f : Core → Core) : State :=
  s.instr c n fun t => .done (t.modCore c fun x => (f x).next n)

end Sys2Proof.Machine
end

