-- ==== Sys2Proof/Machine/Alu.lean ====
section
/-! DEFINITION. Arithmetic of Jexvik-16: the register and immediate ALU, MOVQ, ADDQ, the unary group, address
arithmetic and long arithmetic (R223–R225, R228). -/

namespace Sys2Proof.Machine

/-! ### Shared forms -/

/-- Writes an ALU result and its flags: the result only where the function writes it. -/
def Core.setResult (x : Core) (write : Bool) (n w : Nat) (r : Nat × Nzcv) : Core :=
  (if write then x.setGrs n w r.1 else x).setFlags r.2

/-- A 16-bit ALU function on gD and a second operand; shifts use bits [4:0] of it (R223). -/
def Core.alu16 (x : Core) (fn : AluFn) (rd b : Nat) : Core :=
  x.setResult fn.writes rd 1 (aluResult 16 fn (x.gr rd) (if fn.shifts then b % 32 else b) x.flags)

/-- Group 0x1: the second operand is gS. -/
def State.aluReg (s : State) (c : CoreId) (fn : AluFn) (rd rs : BitVec 4) : State :=
  s.instrCore c 1 fun x => x.alu16 fn rd.toNat (x.gr rs.toNat)

/-- Group 0x2: the second operand is word 1. -/
def State.aluImm (s : State) (c : CoreId) (fn : AluFn) (rd : BitVec 4) (imm : BitVec 16) : State :=
  s.instrCore c 2 fun x => x.alu16 fn rd.toNat imm.toNat

/-- Group 0x5: a result computed from gD. -/
def State.unary (s : State) (c : CoreId) (rd : BitVec 4) (f : Nat → Nat × Nzcv) : State :=
  s.instrCore c 1 fun x => x.setResult true rd.toNat 1 (f (x.gr rd.toNat))

/-- Group 0x6: a core's registers change, after the check of a pair or quad field (R216). -/
def State.address (s : State) (c : CoreId) (n : Nat) (aligned : Bool) (f : Core → Core) : State :=
  s.instr c n fun t =>
    if aligned then .done (t.modCore c fun x => (f x).next n) else .exc (instructionFault 2) t

/-- The words of a pair or a quad. -/
def longWords (w : Bool) : Nat := if w then 4 else 2

/-- Group 0xB: D and S name pairs or quads in index form; the operation gets the width, D and S (R216, R228). -/
def State.long (s : State) (c : CoreId) (w : Bool) (rd rs : BitVec 3) (write : Bool)
    (f : Nat → Nat → Nat → Nzcv → Nat × Nzcv) : State :=
  s.instr c 1 fun t =>
    if w ∧ (4 ≤ rd.toNat ∨ 4 ≤ rs.toNat) then .exc (instructionFault 2) t
    else .done (t.modCore c fun x =>
      let n := longWords w
      (x.setResult write (n * rd.toNat) n
        (f (16 * n) (x.grs (n * rd.toNat) n) (x.grs (n * rs.toNat) n) x.flags)).next 1)

/-- A long function that is an ALU function at the width of the operation; shifts use bits [5:0] of the low word of
S. -/
def State.longAlu (s : State) (c : CoreId) (w : Bool) (rd rs : BitVec 3) (fn : AluFn) : State :=
  s.long c w rd rs fn.writes fun width a b f => aluResult width fn a (if fn.shifts then b % 64 else b) f

/-! ### Group 0x1: register ALU (R223) -/

/-- MOV (R223). -/
def execMov (c : CoreId) (rd rs : BitVec 4) (s : State) : Host.Outcome State Fault Refusal :=
  .next (s.aluReg c .mov rd rs)

/-- ADD (R223). -/
def execAdd (c : CoreId) (rd rs : BitVec 4) (s : State) : Host.Outcome State Fault Refusal :=
  .next (s.aluReg c .add rd rs)

/-- ADC (R223). -/
def execAdc (c : CoreId) (rd rs : BitVec 4) (s : State) : Host.Outcome State Fault Refusal :=
  .next (s.aluReg c .adc rd rs)

/-- SUB (R223). -/
def execSub (c : CoreId) (rd rs : BitVec 4) (s : State) : Host.Outcome State Fault Refusal :=
  .next (s.aluReg c .sub rd rs)

/-- SBC (R223). -/
def execSbc (c : CoreId) (rd rs : BitVec 4) (s : State) : Host.Outcome State Fault Refusal :=
  .next (s.aluReg c .sbc rd rs)

/-- CMP (R223). -/
def execCmp (c : CoreId) (rd rs : BitVec 4) (s : State) : Host.Outcome State Fault Refusal :=
  .next (s.aluReg c .cmp rd rs)

/-- AND (R223). -/
def execAnd (c : CoreId) (rd rs : BitVec 4) (s : State) : Host.Outcome State Fault Refusal :=
  .next (s.aluReg c .and rd rs)

/-- OR (R223). -/
def execOr (c : CoreId) (rd rs : BitVec 4) (s : State) : Host.Outcome State Fault Refusal :=
  .next (s.aluReg c .or rd rs)

/-- XOR (R223). -/
def execXor (c : CoreId) (rd rs : BitVec 4) (s : State) : Host.Outcome State Fault Refusal :=
  .next (s.aluReg c .xor rd rs)

/-- TST (R223). -/
def execTst (c : CoreId) (rd rs : BitVec 4) (s : State) : Host.Outcome State Fault Refusal :=
  .next (s.aluReg c .tst rd rs)

/-- SHL (R223). -/
def execShl (c : CoreId) (rd rs : BitVec 4) (s : State) : Host.Outcome State Fault Refusal :=
  .next (s.aluReg c .shl rd rs)

/-- SHR (R223). -/
def execShr (c : CoreId) (rd rs : BitVec 4) (s : State) : Host.Outcome State Fault Refusal :=
  .next (s.aluReg c .shr rd rs)

/-- SAR (R223). -/
def execSar (c : CoreId) (rd rs : BitVec 4) (s : State) : Host.Outcome State Fault Refusal :=
  .next (s.aluReg c .sar rd rs)

/-- ROL (R223). -/
def execRol (c : CoreId) (rd rs : BitVec 4) (s : State) : Host.Outcome State Fault Refusal :=
  .next (s.aluReg c .rol rd rs)

/-- MULL (R223). -/
def execMull (c : CoreId) (rd rs : BitVec 4) (s : State) : Host.Outcome State Fault Refusal :=
  .next (s.aluReg c .mull rd rs)

/-- MULHU (R223). -/
def execMulhu (c : CoreId) (rd rs : BitVec 4) (s : State) : Host.Outcome State Fault Refusal :=
  .next (s.aluReg c .mulhu rd rs)

/-! ### Group 0x2: immediate ALU (R223) -/

/-- MOVI of group 0x2 (R223). -/
def execMovi (c : CoreId) (rd : BitVec 4) (imm : BitVec 16) (s : State) : Host.Outcome State Fault Refusal :=
  .next (s.aluImm c .mov rd imm)

/-- ADDI of group 0x2 (R223). -/
def execAddi (c : CoreId) (rd : BitVec 4) (imm : BitVec 16) (s : State) : Host.Outcome State Fault Refusal :=
  .next (s.aluImm c .add rd imm)

/-- ADCI of group 0x2 (R223). -/
def execAdci (c : CoreId) (rd : BitVec 4) (imm : BitVec 16) (s : State) : Host.Outcome State Fault Refusal :=
  .next (s.aluImm c .adc rd imm)

/-- SUBI of group 0x2 (R223). -/
def execSubi (c : CoreId) (rd : BitVec 4) (imm : BitVec 16) (s : State) : Host.Outcome State Fault Refusal :=
  .next (s.aluImm c .sub rd imm)

/-- SBCI of group 0x2 (R223). -/
def execSbci (c : CoreId) (rd : BitVec 4) (imm : BitVec 16) (s : State) : Host.Outcome State Fault Refusal :=
  .next (s.aluImm c .sbc rd imm)

/-- CMPI of group 0x2 (R223). -/
def execCmpi (c : CoreId) (rd : BitVec 4) (imm : BitVec 16) (s : State) : Host.Outcome State Fault Refusal :=
  .next (s.aluImm c .cmp rd imm)

/-- ANDI of group 0x2 (R223). -/
def execAndi (c : CoreId) (rd : BitVec 4) (imm : BitVec 16) (s : State) : Host.Outcome State Fault Refusal :=
  .next (s.aluImm c .and rd imm)

/-- ORI of group 0x2 (R223). -/
def execOri (c : CoreId) (rd : BitVec 4) (imm : BitVec 16) (s : State) : Host.Outcome State Fault Refusal :=
  .next (s.aluImm c .or rd imm)

/-- XORI of group 0x2 (R223). -/
def execXori (c : CoreId) (rd : BitVec 4) (imm : BitVec 16) (s : State) : Host.Outcome State Fault Refusal :=
  .next (s.aluImm c .xor rd imm)

/-- TSTI of group 0x2 (R223). -/
def execTsti (c : CoreId) (rd : BitVec 4) (imm : BitVec 16) (s : State) : Host.Outcome State Fault Refusal :=
  .next (s.aluImm c .tst rd imm)

/-- SHLI of group 0x2 (R223). -/
def execShlImmediate (c : CoreId) (rd : BitVec 4) (imm : BitVec 16) (s : State) : Host.Outcome State Fault Refusal :=
  .next (s.aluImm c .shl rd imm)

/-- SHRI of group 0x2 (R223). -/
def execShrImmediate (c : CoreId) (rd : BitVec 4) (imm : BitVec 16) (s : State) : Host.Outcome State Fault Refusal :=
  .next (s.aluImm c .shr rd imm)

/-- SARI of group 0x2 (R223). -/
def execSarImmediate (c : CoreId) (rd : BitVec 4) (imm : BitVec 16) (s : State) : Host.Outcome State Fault Refusal :=
  .next (s.aluImm c .sar rd imm)

/-- ROLI of group 0x2 (R223). -/
def execRolImmediate (c : CoreId) (rd : BitVec 4) (imm : BitVec 16) (s : State) : Host.Outcome State Fault Refusal :=
  .next (s.aluImm c .rol rd imm)

/-- MULLI of group 0x2 (R223). -/
def execMulli (c : CoreId) (rd : BitVec 4) (imm : BitVec 16) (s : State) : Host.Outcome State Fault Refusal :=
  .next (s.aluImm c .mull rd imm)

/-- MULHUI of group 0x2 (R223). -/
def execMulhui (c : CoreId) (rd : BitVec 4) (imm : BitVec 16) (s : State) : Host.Outcome State Fault Refusal :=
  .next (s.aluImm c .mulhu rd imm)

/-! ### MOVQ, ADDQ and the unary group (R224) -/

/-- MOVQ (R224): no flag changes. -/
def execMovq (c : CoreId) (rd : BitVec 4) (imm : BitVec 8) (s : State) : Host.Outcome State Fault Refusal :=
  .next (s.instrCore c 1 fun x => x.setGr rd.toNat (signExtend 8 16 imm.toNat))

/-- ADDQ (R224): the flags of ADD. -/
def execAddq (c : CoreId) (rd : BitVec 4) (imm : BitVec 8) (s : State) : Host.Outcome State Fault Refusal :=
  .next (s.instrCore c 1 fun x => x.alu16 .add rd.toNat (signExtend 8 16 imm.toNat))

/-- NOT (R224). -/
def execNot (c : CoreId) (rd : BitVec 4) (s : State) : Host.Outcome State Fault Refusal :=
  .next (s.unary c rd fun a => resultFlags 16 (0xFFFF - a))

/-- NEG (R224): the flags of a subtraction from 0. -/
def execNeg (c : CoreId) (rd : BitVec 4) (s : State) : Host.Outcome State Fault Refusal :=
  .next (s.unary c rd fun a => subFlags 16 0 a 0)

/-- SWAPB (R224). -/
def execSwapb (c : CoreId) (rd : BitVec 4) (s : State) : Host.Outcome State Fault Refusal :=
  .next (s.unary c rd fun a => resultFlags 16 (swapBytes a))

/-- ZXB (R224). -/
def execZxb (c : CoreId) (rd : BitVec 4) (s : State) : Host.Outcome State Fault Refusal :=
  .next (s.unary c rd fun a => resultFlags 16 (a % 256))

/-- SXB (R224). -/
def execSxb (c : CoreId) (rd : BitVec 4) (s : State) : Host.Outcome State Fault Refusal :=
  .next (s.unary c rd fun a => resultFlags 16 (signExtend 8 16 a))

/-- CLZ (R224). -/
def execClz (c : CoreId) (rd : BitVec 4) (s : State) : Host.Outcome State Fault Refusal :=
  .next (s.unary c rd fun a => countFlags (leadingZeros a))

/-- POPC (R224). -/
def execPopc (c : CoreId) (rd : BitVec 4) (s : State) : Host.Outcome State Fault Refusal :=
  .next (s.unary c rd fun a => countFlags (onesIn a))

/-- SHLI (R224): SHL with count N. -/
def execShli (c : CoreId) (rd : BitVec 4) (n : BitVec 4) (s : State) : Host.Outcome State Fault Refusal :=
  .next (s.unary c rd fun a => shlFlags 16 a n.toNat)

/-- SHRI (R224): SHR with count N. -/
def execShri (c : CoreId) (rd : BitVec 4) (n : BitVec 4) (s : State) : Host.Outcome State Fault Refusal :=
  .next (s.unary c rd fun a => shrFlags 16 a n.toNat)

/-- SARI (R224): SAR with count N. -/
def execSari (c : CoreId) (rd : BitVec 4) (n : BitVec 4) (s : State) : Host.Outcome State Fault Refusal :=
  .next (s.unary c rd fun a => sarFlags 16 a n.toNat)

/-- ROLI (R224): ROL with count N. -/
def execRoli (c : CoreId) (rd : BitVec 4) (n : BitVec 4) (s : State) : Host.Outcome State Fault Refusal :=
  .next (s.unary c rd fun a => rolFlags 16 a n.toNat)

/-! ### Group 0x6: address arithmetic (R225) -/

/-- AMOV (R225). -/
def execAmov (c : CoreId) (ra x : BitVec 3) (s : State) : Host.Outcome State Fault Refusal :=
  .next (s.address c 1 true fun k => k.setAr ra.toNat (k.ar x.toNat))

/-- AADD (R225). -/
def execAadd (c : CoreId) (ra : BitVec 3) (x : BitVec 4) (s : State) : Host.Outcome State Fault Refusal :=
  .next (s.address c 1 true fun k => k.setAr ra.toNat (k.ar ra.toNat + sext 16 (k.gr x.toNat)))

/-- AADDP (R225): an odd X takes the fault of R216. -/
def execAaddp (c : CoreId) (ra : BitVec 3) (x : BitVec 4) (s : State) : Host.Outcome State Fault Refusal :=
  .next (s.address c 1 (x.toNat % 2 == 0) fun k => k.setAr ra.toNat (k.ar ra.toNat + sext 32 (k.grs x.toNat 2)))

/-- AADDI (R225). -/
def execAaddi (c : CoreId) (ra : BitVec 3) (imm : BitVec 16) (s : State) : Host.Outcome State Fault Refusal :=
  .next (s.address c 2 true fun k => k.setAr ra.toNat (k.ar ra.toNat + sext 16 imm.toNat))

/-- AMOVI (R225). -/
def execAmovi (c : CoreId) (ra : BitVec 3) (imm : BitVec 48) (s : State) : Host.Outcome State Fault Refusal :=
  .next (s.address c 4 true fun k => k.setAr ra.toNat imm)

/-- APC (R225): from the address of the next instruction. -/
def execApc (c : CoreId) (ra : BitVec 3) (disp : BitVec 32) (s : State) : Host.Outcome State Fault Refusal :=
  .next (s.address c 3 true fun k => k.setAr ra.toNat (k.pc + 3 + sext 32 disp.toNat))

/-- AMOVG (R225): bits [47:0] of a quad. -/
def execAmovg (c : CoreId) (ra : BitVec 3) (x : BitVec 4) (s : State) : Host.Outcome State Fault Refusal :=
  .next (s.address c 1 (x.toNat % 4 == 0) fun k => k.setAr ra.toNat (BitVec.ofNat 48 (k.grs x.toNat 4)))

/-- GMOVA (R225): a quad, zero-extended. -/
def execGmova (c : CoreId) (ra : BitVec 3) (x : BitVec 4) (s : State) : Host.Outcome State Fault Refusal :=
  .next (s.address c 1 (x.toNat % 4 == 0) fun k => k.setGrs x.toNat 4 (k.ar ra.toNat).toNat)

/-- ACMP (R225): the flags of a subtraction over 48 bits. -/
def execAcmp (c : CoreId) (ra x : BitVec 3) (s : State) : Host.Outcome State Fault Refusal :=
  .next (s.address c 1 true fun k => k.setFlags (subFlags 48 (k.ar ra.toNat).toNat (k.ar x.toNat).toNat 0).2)

/-! ### Group 0xB: long arithmetic (R228) -/

/-- LMOV (R228). -/
def execLmov (c : CoreId) (w : Bool) (rd rs : BitVec 3) (s : State) : Host.Outcome State Fault Refusal :=
  .next (s.longAlu c w rd rs .mov)

/-- LADD (R228). -/
def execLadd (c : CoreId) (w : Bool) (rd rs : BitVec 3) (s : State) : Host.Outcome State Fault Refusal :=
  .next (s.longAlu c w rd rs .add)

/-- LSUB (R228). -/
def execLsub (c : CoreId) (w : Bool) (rd rs : BitVec 3) (s : State) : Host.Outcome State Fault Refusal :=
  .next (s.longAlu c w rd rs .sub)

/-- LCMP (R228). -/
def execLcmp (c : CoreId) (w : Bool) (rd rs : BitVec 3) (s : State) : Host.Outcome State Fault Refusal :=
  .next (s.longAlu c w rd rs .cmp)

/-- LAND (R228). -/
def execLand (c : CoreId) (w : Bool) (rd rs : BitVec 3) (s : State) : Host.Outcome State Fault Refusal :=
  .next (s.longAlu c w rd rs .and)

/-- LOR (R228). -/
def execLor (c : CoreId) (w : Bool) (rd rs : BitVec 3) (s : State) : Host.Outcome State Fault Refusal :=
  .next (s.longAlu c w rd rs .or)

/-- LXOR (R228). -/
def execLxor (c : CoreId) (w : Bool) (rd rs : BitVec 3) (s : State) : Host.Outcome State Fault Refusal :=
  .next (s.longAlu c w rd rs .xor)

/-- LNEG (R228): 0 − D with the flags of a subtraction. -/
def execLneg (c : CoreId) (w : Bool) (rd : BitVec 3) (s : State) : Host.Outcome State Fault Refusal :=
  .next (s.long c w rd 0 true fun width a _ _ => subFlags width 0 a 0)

/-- LSHL (R228). -/
def execLshl (c : CoreId) (w : Bool) (rd rs : BitVec 3) (s : State) : Host.Outcome State Fault Refusal :=
  .next (s.longAlu c w rd rs .shl)

/-- LSHR (R228). -/
def execLshr (c : CoreId) (w : Bool) (rd rs : BitVec 3) (s : State) : Host.Outcome State Fault Refusal :=
  .next (s.longAlu c w rd rs .shr)

/-- LSAR (R228). -/
def execLsar (c : CoreId) (w : Bool) (rd rs : BitVec 3) (s : State) : Host.Outcome State Fault Refusal :=
  .next (s.longAlu c w rd rs .sar)

/-- LMULU (R228). -/
def execLmulu (c : CoreId) (w : Bool) (rd rs : BitVec 3) (s : State) : Host.Outcome State Fault Refusal :=
  .next (s.longAlu c w rd rs .mull)

/-- LMULHU (R228). -/
def execLmulhu (c : CoreId) (w : Bool) (rd rs : BitVec 3) (s : State) : Host.Outcome State Fault Refusal :=
  .next (s.longAlu c w rd rs .mulhu)

/-- LMULHS (R228). -/
def execLmulhs (c : CoreId) (w : Bool) (rd rs : BitVec 3) (s : State) : Host.Outcome State Fault Refusal :=
  .next (s.long c w rd rs true fun width a b _ => mulHighSigned width a b)

/-- LSXW (R228): the low half of S, sign-extended to the width. -/
def execLsxw (c : CoreId) (w : Bool) (rd rs : BitVec 3) (s : State) : Host.Outcome State Fault Refusal :=
  .next (s.long c w rd rs true fun width _ b _ => resultFlags width (signExtend (width / 2) width b))

end Sys2Proof.Machine
end

