-- ==== Sys2Proof/Machine/Bar0.lean ====
section
/-! DEFINITION. Host requests to BAR0 (R363, R364, R366, R367, R378, R379): the port frame, the function frame, the
MSI-X table and the copy of the MG block; and the order in which a port's requests are served (R372). -/

namespace Sys2Proof.Machine

/-- Whether BAR0 is served: as configuration requests are (R366), in standby (R437) and during a warm reset (R377). -/
def State.bar0Served (s : State) : Bool := s.answersHost || s.rs.standby || (s.rs.warmKind && s.rs.inReset)

/-- A read of one DW of BAR0. -/
def State.bar0Read (s : State) (p f off : Nat) (lo hi : Bool) : Nat × State :=
  if off < 0x1000 then if f = 0 then s.readPart 9 (p * 0x1000 + off) lo hi else (0, s)
  else if off < 0x1020 then s.readPart 9 (p * 0x1000 + 0x800 + 0x20 * f + (off - 0x1000)) lo hi
  else if 0x10000 ≤ off ∧ off < 0x18000 then (s.msixDw p f ((off - 0x10000) / 4), s)
  else if 0x18000 ≤ off ∧ off < 0x18100 then
    ((List.range 32).foldl (fun v j =>
      v + oneIf (get false (s.pxOf p).pba (f * 2048 + (off - 0x18000) / 4 * 32 + j)) (2 ^ j)) 0, s)
  else if 0x20000 ≤ off ∧ off < 0x21000 then ((s.readPart 0 (off - 0x20000) lo hi).1, s)
  else (0, s)

/-- A write of one DW of the port frame by the PF: what R378 lets it write; the rest is ignored. -/
def State.pfWrite (s : State) (port : HostPort) (func : FuncId) (off v : Nat) (lo hi : Bool) : State :=
  let p := portNum port
  let write (v : Nat) : State := s.writePart (.host port func) 9 (p * 0x1000 + off) v lo hi
  if off = 4 then write (setBits v 31 31 (s.fld fPX_PCTL_HBEN p))
  else if off = 0xC ∨ off = 0x10 then write v
  else if 0x100 ≤ off ∧ off < 0x200 ∧ s.flag fPX_PCTL_HOSTMAP p then write v
  else s

/-- A write of one DW of BAR0. Bits of a vector control DW other than its mask are reserved. -/
def State.bar0Write (s : State) (port : HostPort) (func : FuncId) (off v : Nat) (lo hi : Bool) : State :=
  if off < 0x1000 then if func.val = 0 then s.pfWrite port func off v lo hi else s
  else if 0x10000 ≤ off ∧ off < 0x18000 then
    let p := portNum port
    let i := (off - 0x10000) / 4
    let new := mergeHalves (s.msixDw p func i) v lo hi
    (s.setMsixDw p func i (if i % 4 = 3 then new % 2 else new)).sendPending p func
  else s

/-- The halves that the byte enables of a DW address, as R364 admits them. -/
def enabledHalves (be : BitVec 4) : Option (Bool × Bool) :=
  if be = 0xF then some (true, true) else if be = 0x3 then some (true, false)
  else if be = 0xC then some (false, true) else none

/-- The DWs of a request: the offset and the halves of each; none for a request that R364 does not accept. -/
def bar0Parts (off dws : Nat) (be0 be1 : BitVec 4) : Option (List (Nat × Bool × Bool)) :=
  if off % 4 ≠ 0 then none
  else match dws, enabledHalves be0, enabledHalves be1 with
    | 1, some h, _ => some [(off, h.1, h.2)]
    | 2, some h, some g => some [(off, h.1, h.2), (off + 4, g.1, g.2)]
    | _, _, _ => none

/-- A request to BAR0 as its port takes it (R363, R364, R379): the request accepted, if any. -/
def State.admitBar0 (s : State) (p f off : Nat) (req : Bar0Op) : Option HostOp × State :=
  let served := s.bar0Served && s.reaches p f
  match req with
    | .read dws be0 be1 =>
      if served && (bar0Parts off dws be0 be1).isSome then (some (.bar0 off req), s) else (none, s.badRead p f)
    | .write dws be0 be1 _ poison =>
      if (s.fnCfg p f).mps < 4 * dws then (none, s.aerError p f 3)
      else
        let s := if poison then (s.count fPX_ERR_POISON p).aerError p f 2 true else s
        if served && (bar0Parts off dws be0 be1).isSome then (some (.bar0 off req), s) else (none, s.badReq p f)

/-- An accepted request to BAR0 takes effect (R363): a poisoned write changes nothing (R379). -/
def State.bar0Serve (s : State) (p f off : Nat) (req : Bar0Op) : State :=
  match req with
    | .read dws be0 be1 =>
      let (d, t) := ((bar0Parts off dws be0 be1).getD []).foldl (fun (acc : List Byte × State) q =>
        let (v, t) := acc.2.bar0Read p f q.1 q.2.1 q.2.2
        (acc.1 ++ leBytes 4 v, t)) ([], s)
      t.complete p f d
    | .write dws be0 be1 value poison =>
      if h : f < 17 ∧ !poison then
        ((bar0Parts off dws be0 be1).getD []).foldl (fun t q =>
          t.bar0Write (portName p) ⟨f, h.1⟩ q.1 (value.toNat / 2 ^ (32 * ((q.1 - off) / 4)) % 2 ^ 32) q.2.1 q.2.2) s
      else s

/-! ### The order of a port's requests (R372) -/

/-- An accepted request takes effect at its home. -/
def State.serveHost (s : State) (p f : Nat) (op : HostOp) : State :=
  match op with
  | .dramWrite a data be poison => s.hostDramWrite a data be poison
  | .dramRead a n => s.hostDramRead p f a n
  | .frameWrite o data be poison => s.frameWrites p f o data be poison
  | .frameRead o n be => s.frameReads p f o n be
  | .bar0 off req => s.bar0Serve p f off req
  | .config what => s.configServe p f what

/-- Whether a request to the context engine came from a port. -/
def CtxReq.fromPort (r : CtxReq) (p : Nat) : Bool :=
  match r with
  | .command _ b _ frame _ => frame && b == (p == 1)
  | .inDb b _ _ _ => b == (p == 1)
  | .outDb b _ _ _ => b == (p == 1)
  | .record frame b _ _ _ _ _ _ => frame && b == (p == 1)

/-- Whether an earlier posted write of a port has not been acknowledged by its home, or stands before it. -/
def State.portBusy (s : State) (p : Nat) : Bool := (s.cx.deferred.any (·.fromPort p)) || (s.pxOf p).waiting != []

/-- A request arrives at a port whose link is up (R372). What the port refuses ends there; what it accepts is served, or
waits behind earlier posted writes; a posted write with relaxed ordering passes them. -/
def State.hostArrives (s : State) (p f : Nat) (ro : Bool) (accept : State → Option HostOp × State) : State :=
  if !(s.pxOf p).linkUp then s
  else match accept s with
    | (none, t) => t
    | (some op, t) =>
      if s.portBusy p && !ro then t.modPx p fun x => { x with waiting := x.waiting ++ [⟨f, op, false⟩] }
      else t.serveHost p f op

/-- CONFIGURATION_REQUEST as its port takes it (R366, R437). -/
def State.admitConfig (s : State) (p f : Nat) (op : ConfigOp) : Option HostOp × State :=
  if s.rs.standby then (none, s.badRead p f)
  else if !s.answersHost then (none, s.leaves p (.hostCompletion (portName p) f 2 [] false))
  else if !s.fnPresent p f then (none, s.badRead p f)
  else (some (.config op), s)

/-- BAR0_ACCESS: a request to BAR0 arrives (R363, R372). -/
def State.bar0Access (s : State) (port : HostPort) (func : FuncId) (off : Nat) (req : Bar0Op) : State :=
  s.hostArrives (portNum port) func false fun t => t.admitBar0 (portNum port) func off req

/-- The completions that a step has emitted are discarded (R376): the emissions since a length of the list. -/
def State.discardSince (s : State) (n : Nat) : State :=
  let kept (e : Emission) : Bool := match e with | .hostCompletion .. => false | _ => true
  { s with out := (s.out.take (s.out.length - n)).filter kept ++ s.out.drop (s.out.length - n) }

/-- Serves a request that has waited. -/
def State.serveWait (s : State) (p : Nat) (w : HostWait) : State :=
  let t := s.serveHost p w.func w.op
  if w.mute then t.discardSince s.out.length else t

/-- Serves the waiting requests of a port in order, up to one behind a posted write that its home has not acknowledged
(R372). -/
def State.serveRun (s : State) (p : Nat) : Nat → State
  | 0 => s
  | fuel + 1 =>
    match (s.pxOf p).waiting with
    | [] => s
    | w :: r =>
      if s.cx.deferred.any (·.fromPort p) then s
      else ((s.modPx p fun x => { x with waiting := r }).serveWait p w).serveRun p fuel

/-- The requests of a port that have waited (R372). -/
def State.serveWaiting (s : State) (p : Nat) : State := s.serveRun p (s.pxOf p).waiting.length

/-- HOST_HEARTBEAT (R375): a write to PX_HBEAT, by the PF of the port through BAR0 or by a requester of the die. -/
def State.hostHeartbeat (s : State) (rq : Requester) (port : HostPort) (v : Nat) : State :=
  match rq with
  | .host q f =>
    if q = port then s.bar0Access q f 0xC (.write 1 0xF 0xF (BitVec.ofNat 64 v) false) else s
  | _ => s.regCommand rq 9 (portNum port * 0x1000 + 0xC) v fun t => t.found (portNum port) true

def execConfigurationRequest (port : HostPort) (func : FuncId) (what : ConfigOp) (s : State) :
    Host.Outcome State Fault Refusal := .next (s.hostArrives (portNum port) func false fun t => t.admitConfig (portNum port) func what)
def execHostWrite (port : HostPort) (func : FuncId) (bar : HostBar) (offset : Nat) (data : List Byte)
    (be : List Bool) (ro : Bool) (poison : Bool) (s : State) : Host.Outcome State Fault Refusal :=
  .next (s.hostArrives (portNum port) func ro fun t => t.admitWrite (portNum port) func bar offset data be poison)
def execHostRead (port : HostPort) (func : FuncId) (bar : HostBar) (offset len : Nat) (be : List Bool) (s : State) :
    Host.Outcome State Fault Refusal :=
  .next (s.hostArrives (portNum port) func false fun t => t.admitRead (portNum port) func bar offset len be)
def execBar0Access (port : HostPort) (func : FuncId) (offset : BitVec 24) (req : Bar0Op) (s : State) :
    Host.Outcome State Fault Refusal := .next (s.bar0Access port func offset.toNat req)
def execHostHeartbeat (rq : Requester) (port : HostPort) (value : BitVec 32) (s : State) :
    Host.Outcome State Fault Refusal := .next (s.hostHeartbeat rq port value.toNat)

end Sys2Proof.Machine
end

