-- ==== Sys2Proof/Machine/Branch.lean ====
section
/-! DEFINITION. Branches, jumps, calls and returns of Jexvik-16 (R227). None changes a flag. -/

namespace Sys2Proof.Machine

/-- An instruction of n words that sets PC, and LK when it is a call. The target is read before LK is written. -/
def State.jump (s : State) (c : CoreId) (n : Nat) (call : Bool) (target : Core → Addr) : State :=
  s.instr c n fun t => .done (t.modCore c fun x =>
    { x with lk := if call then x.pc + BitVec.ofNat 48 n else x.lk, pc := target x })

/-- A branch of n words: the displacement counts from the next instruction. -/
def Core.branch (x : Core) (n : Nat) (taken : Bool) (disp : Addr) : Addr :=
  if taken then x.pc + BitVec.ofNat 48 n + disp else x.pc + BitVec.ofNat 48 n

/-- SHORT_BRANCH (R227). -/
def execShortBranch (c : CoreId) (cond : Fin 15) (disp : BitVec 8) (s : State) : Host.Outcome State Fault Refusal :=
  .next (s.jump c 1 false fun x => x.branch 1 (condHolds cond x.flags) (sext 8 disp.toNat))

/-- JCC (R227). -/
def execJcc (c : CoreId) (cond : Fin 15) (disp : BitVec 32) (s : State) : Host.Outcome State Fault Refusal :=
  .next (s.jump c 3 false fun x => x.branch 3 (condHolds cond x.flags) (sext 32 disp.toNat))

/-- CALL (R227). -/
def execCall (c : CoreId) (disp : BitVec 32) (s : State) : Host.Outcome State Fault Refusal :=
  .next (s.jump c 3 true fun x => x.branch 3 true (sext 32 disp.toNat))

/-- JMPA (R227). -/
def execJmpa (c : CoreId) (ra : BitVec 3) (s : State) : Host.Outcome State Fault Refusal :=
  .next (s.jump c 1 false fun x => x.ar ra.toNat)

/-- CALLA (R227). -/
def execCalla (c : CoreId) (ra : BitVec 3) (s : State) : Host.Outcome State Fault Refusal :=
  .next (s.jump c 1 true fun x => x.ar ra.toNat)

/-- RET (R227). -/
def execRet (c : CoreId) (s : State) : Host.Outcome State Fault Refusal := .next (s.jump c 1 false fun x => x.lk)

end Sys2Proof.Machine
end

