-- ==== Sys2Proof/Machine/Dram.lean ====
section
/-! DEFINITION. The slices of the stacked DRAM: refresh, scrubbing, training, self-refresh and the slots of a
slice schedule (R162, R315–R321). -/

namespace Sys2Proof.Machine

/-- An event of a slice (R321). -/
def State.drEvent (s : State) (sl : Nat) (f : Field) : State :=
  ((s.setFld fDR_EVSTAT_SLICE sl).setFlag f true).deviceEvent 1

/-- Whether the schedule of a slice runs, and not the refresh that times itself (R185, R317). -/
def State.sliceRuns (s : State) (sl : Nat) : Bool := s.level ≥ 2 && !(s.slice sl).selfRef

/-- REFRESH_DUE (R316, R317): the debt rises; one of 16 is an event. -/
def State.refreshDue (s : State) (sl : Nat) : State :=
  if !s.sliceRuns sl then s
  else
    let d := (s.slice sl).debt + 1
    let s := s.modSlice sl fun x => { x with debt := d }
    if d = 16 then s.drEvent sl fDR_EVSTAT_DEBT else s

/-- REFRESH_OPERATION (R317): eight slots of a REFRESH window, or eight in which a STREAM window waits. -/
def State.refreshOperation (s : State) (sl : Nat) : State :=
  if !s.sliceRuns sl ∨ (s.slice sl).debt = 0 then s
  else match s.sliceNow sl with
    | none => s
    | some (x, e) =>
      let x := { x with debt := x.debt - 1 }
      match bits e 31 29 with
      | 0 => if x.streamWaits sl (bits e 28 27) then s.setSlice sl x else s
      | 2 =>
        if bits e 15 0 + 1 < x.moved + 8 then s
        else if bits e 15 0 + 1 = x.moved + 8 then s.setSlice sl { x with entry := (x.entry + 1) % 256, moved := 0 }
        else s.setSlice sl { x with moved := x.moved + 8 }
      | _ => s

/-- SLICE_SLOT (R162): a slot of an SVC or REFRESH window passes. -/
def State.sliceSlot (s : State) (sl : Nat) : State :=
  if !s.sliceRuns sl then s
  else match s.sliceNow sl with
    | none => s
    | some (x, e) => if bits e 31 29 = 1 ∨ bits e 31 29 = 2 then s.setSlice sl (x.advance e) else s

/-- SCRUB (R318): the next unit is read, and written back when the read was corrected, beyond known erasures. -/
def State.scrub (s : State) (sl : Nat) : State :=
  if !s.flag fDR_CTRL_SCRUBEN ∨ !s.sliceServesV sl then s
  else
    let u := s.fld fDR_SCRUB_NEXT sl
    let (r, s) := s.readUnit sl u
    let s := match r.off with
      | some off => if r.inner || r.outer then (s.dramMiscorrect (dramAddress sl u) off).cleanUnit sl u else s
      | none => s
    let s := s.setFld fDR_SCRUB_NEXT ((u + 1) % unitsPerSlice) sl
    if u + 1 = unitsPerSlice then s.setFld fDR_SCRUB_PASSES (s.fld fDR_SCRUB_PASSES sl + 1) sl else s

/-- Writes the recorded lanes of a slice: its known erasures (R315). -/
def State.setErased (s : State) (sl : Nat) (lanes : List Nat) : State :=
  let half (i : Nat) : Nat := match lanes[i]? with | some l => 0x8000 + l | none => 0
  let s := s.setReg .drErase sl 0 (half 0 + half 1 * 0x10000)
  let s := s.setReg .drErase sl 1 (half 2 + half 3 * 0x10000)
  s.setFld fDR_SSTATUS_NERASE (min lanes.length 4) sl

/-- Ends training or verification with the lanes that have failed (R315, R319). -/
def State.endTraining (s : State) (sl : Nat) (lanes : List Nat) : State :=
  let s := s.setErased sl lanes
  if 4 < lanes.length then
    (s.modSlice sl fun x => { x with trfail := true }).drEvent sl fDR_EVSTAT_TRFAIL
  else s.modSlice sl fun x => { x with trained := true }

/-- The lanes that a training result names, each once. -/
def laneList (failed : List (BitVec 9)) : List Nat := ((failed.map (·.toNat)).filter (· < 288)).eraseDups

/-- Writes every user unit of a slice as zero data (R319). -/
def State.zeroFill (s : State) (sl : Nat) : State :=
  { s with dram := s.dram.filter fun e => !((dramPlace e.1).1 == sl) }.modSlice sl fun x =>
    { x with err := [], poisoned := [] }

/-- TRAINING (R319): every lane has been trained and the units written as zeros. -/
def State.training (s : State) (sl : Nat) (failed : List (BitVec 9)) : State :=
  let x := s.slice sl
  if !s.level0 ∨ x.trained ∨ x.trfail ∨ x.selfRef then s
  else (s.zeroFill sl).endTraining sl (laneList failed)

/-- SELF_REFRESH_EXIT (R320): verification records the lanes that newly fail; a slice that fails it trains in
full and keeps its contents. Retired, and in standby, the slices stay in self-refresh (R436, R438). -/
def State.selfRefreshExit (s : State) (sl : Nat) (failed : List (BitVec 9)) (retrain : Bool) : State :=
  if !s.level0 ∨ s.rs.retired ∨ s.rs.standby ∨ !(s.slice sl).selfRef then s
  else
    let known := if retrain then [] else s.erasedLanes sl
    let s := s.modSlice sl fun x => { x with selfRef := false }
    s.endTraining sl (known ++ (laneList failed).filter (!known.contains ·))

def execRefreshDue (slice : SliceId) (s : State) : Host.Outcome State Fault Refusal := .next (s.refreshDue slice)
def execRefreshOperation (slice : SliceId) (s : State) : Host.Outcome State Fault Refusal :=
  .next (s.refreshOperation slice)
def execScrub (slice : SliceId) (s : State) : Host.Outcome State Fault Refusal := .next (s.scrub slice)
def execTraining (slice : SliceId) (failed : List (BitVec 9)) (s : State) : Host.Outcome State Fault Refusal :=
  .next (s.training slice failed)
def execSelfRefreshExit (slice : SliceId) (failed : List (BitVec 9)) (retrain : Bool) (s : State) :
    Host.Outcome State Fault Refusal := .next (s.selfRefreshExit slice failed retrain)
def execSliceSlot (slice : SliceId) (s : State) : Host.Outcome State Fault Refusal := .next (s.sliceSlot slice)

end Sys2Proof.Machine
end

