-- ==== Sys2Proof/Machine/Frames.lean ====
section
/-! DEFINITION. Commands to the context engine by their paths: a function's context frame in BAR2 (R190), or the CX_ block
(R204, R213). A request to a frame is a posted write of its port, so it keeps that port's order and is refused as any
other (R364, R366, R372). -/

namespace Sys2Proof.Machine

/-- A 32-bit write of a register of a context frame (R190). -/
def State.frameVia (s : State) (port : HostPort) (func : FuncId) (ctx fo v : Nat) (be : List Bool) : State :=
  s.hostArrives (portNum port) func false fun t =>
    t.admitWrite (portNum port) func .bar2 (ctx * 0x4000 + fo) (leBytes 4 v) be false

/-- All the bytes of a DW. -/
def wholeDw : List Bool := [true, true, true, true]

/-- A context command by its path (R204). CX_CMD is a register of the CX_ block (R213). -/
def State.ctxVia (s : State) (code : Nat) (via : ContextPath) (ctx : Nat) : State :=
  match via with
  | .frame port func => s.frameVia port func ctx 0x3048 code wholeDw
  | .cmd rq port func =>
    if s.mayAccess rq 4 0x60 true 0 then
      (s.cxReach (.command code (portNum port == 1) func.toNat false ctx)).emit (.regAck rq (regBase + 0x4000060))
    else s.emit (.accessError rq (regBase + 0x4000060) 1)

def execOpenContext (via : ContextPath) (ctx : CtxId) (s : State) : Host.Outcome State Fault Refusal :=
  .next (s.ctxVia 1 via ctx)
def execPark (via : ContextPath) (ctx : CtxId) (s : State) : Host.Outcome State Fault Refusal := .next (s.ctxVia 2 via ctx)
def execResumeContext (via : ContextPath) (ctx : CtxId) (s : State) : Host.Outcome State Fault Refusal :=
  .next (s.ctxVia 3 via ctx)
def execDropContext (via : ContextPath) (ctx : CtxId) (s : State) : Host.Outcome State Fault Refusal :=
  .next (s.ctxVia 4 via ctx)
def execClaim (via : ContextPath) (ctx : CtxId) (s : State) : Host.Outcome State Fault Refusal := .next (s.ctxVia 5 via ctx)
def execAssign (via : ContextPath) (ctx : CtxId) (s : State) : Host.Outcome State Fault Refusal := .next (s.ctxVia 6 via ctx)
def execCxInDb (port : HostPort) (func : FuncId) (ctx : CtxId) (value : BitVec 32) (s : State) :
    Host.Outcome State Fault Refusal := .next (s.frameVia port func ctx 0x3040 value.toNat wholeDw)
def execCxOutDb (port : HostPort) (func : FuncId) (ctx : CtxId) (value : BitVec 32) (s : State) :
    Host.Outcome State Fault Refusal := .next (s.frameVia port func ctx 0x3044 value.toNat wholeDw)

/-- A record write by its path, of the bytes enabled (R189, R190). -/
def State.recordVia (s : State) (path : RecordPath) (lo hi : Bool) (v : Nat) : State :=
  match path with
  | .window port func ctx n => s.frameVia port func ctx (0x3000 + 4 * n.val) v [lo, lo, hi, hi]
  | .recw rq n =>
    let a := regBase + 0x4000080 + 4 * n.val
    if s.mayAccess rq 4 (0x80 + 4 * n.val) true v then
      (s.cxReach (.record false false 0 (s.fld fCX_RECSEL_CTX) n lo hi v)).emit (.regAck rq a)
    else s.emit (.accessError rq a 1)

/-- An 8-bit access is refused (R3): an access error in the register region, an unsupported request of BAR2
(R364). Of a 64-bit access this is one of its two 32-bit parts. -/
def State.recordByte (s : State) (path : RecordPath) (v : Nat) : State :=
  match path with
  | .window port func ctx n => s.frameVia port func ctx (0x3000 + 4 * n.val) v [true, false, false, false]
  | .recw rq n => s.emit (.accessError rq (regBase + 0x4000080 + 4 * n.val) 2)

def execRecordWrite (path : RecordPath) (size : AccessSize) (half : Bool) (value : BitVec 32) (s : State) :
    Host.Outcome State Fault Refusal :=
  .next (match size with
    | .b8 => s.recordByte path value.toNat
    | .b16 => s.recordVia path (!half) half (if half then value.toNat % 0x10000 * 0x10000 else value.toNat % 0x10000)
    | _ => s.recordVia path true true value.toNat)

end Sys2Proof.Machine
end

