-- ==== Sys2Proof/Machine/LoadStore.lean ====
section
/-! DEFINITION. Scalar loads and stores of Jexvik-16, and the acknowledgement of the oldest store (R217, R226, R252,
R268, R269). -/

namespace Sys2Proof.Machine

/-- The words of a load or a store: a displacement follows when MODE is not 0 (R218). -/
def memLength (mode : BitVec 2) : Nat := if mode = 0 then 1 else 2

/-- The effective address (R226). -/
def Core.ea (x : Core) (mode : BitVec 2) (rb : BitVec 3) (disp : BitVec 16) : Addr :=
  if mode = 1 ∨ mode = 2 then x.ar rb.toNat + sext 16 disp.toNat else x.ar rb.toNat

/-- The update of aB (R226). -/
def Core.updateBase (x : Core) (mode : BitVec 2) (rb : BitVec 3) (disp : BitVec 16) : Core :=
  if mode = 2 ∨ mode = 3 then x.setAr rb.toNat (x.ar rb.toNat + sext 16 disp.toNat) else x

/-- A load of n words: aB is updated, and then the loaded value is written (R226). -/
def State.load (s : State) (c : CoreId) (vol : Bool) (mode : BitVec 2) (rb : BitVec 3) (disp : BitVec 16) (n : Nat)
    (aligned : Bool) (put : Core → List Half → Core) : State :=
  s.instrLoad c (memLength mode) fun t =>
    if !aligned then .exc (instructionFault 2) t
    else
      let x := t.core c
      match t.loadWords c vol (x.ea mode rb disp) n x.ring with
      | .ok ws u => .done (u.modCore c fun k => (put (k.updateBase mode rb disp) ws).next (memLength mode))
      | .wait => .wait
      | .hold u => .hold u
      | .exc e u => .exc e u

/-- A store of the words that a core holds before the instruction (R226). -/
def State.store (s : State) (c : CoreId) (mode : BitVec 2) (rb : BitVec 3) (disp : BitVec 16) (aligned : Bool)
    (words : Core → List Half) : State :=
  s.instr c (memLength mode) fun t =>
    if !aligned then .exc (instructionFault 2) t
    else
      let x := t.core c
      match t.storeWords c (x.ea mode rb disp) (words x) x.ring with
      | (.ok _, u) => .done (u.modCore c fun k => (k.updateBase mode rb disp).next (memLength mode))
      | (.wait, _) => .wait
      | (.exc e, u) => .exc e u

/-- A value of words, least significant first. -/
def wordsNat : List Half → Nat
  | [] => 0
  | w :: r => w.toNat + 0x10000 * wordsNat r

/-- LD (R226). -/
def execLd (c : CoreId) (vol : Bool) (mode : BitVec 2) (rd : BitVec 4) (rb : BitVec 3) (disp : BitVec 16) (s : State) :
    Host.Outcome State Fault Refusal :=
  .next (s.load c vol mode rb disp 1 true fun x ws => x.setGrs rd.toNat 1 (wordsNat ws))

/-- LD.P (R226): an odd D takes the fault of R216. -/
def execLdP (c : CoreId) (vol : Bool) (mode : BitVec 2) (rd : BitVec 4) (rb : BitVec 3) (disp : BitVec 16)
    (s : State) : Host.Outcome State Fault Refusal :=
  .next (s.load c vol mode rb disp 2 (rd.toNat % 2 == 0) fun x ws => x.setGrs rd.toNat 2 (wordsNat ws))

/-- LD.Q (R226): a D that is no multiple of 4 takes the fault of R216. -/
def execLdQ (c : CoreId) (vol : Bool) (mode : BitVec 2) (rd : BitVec 4) (rb : BitVec 3) (disp : BitVec 16)
    (s : State) : Host.Outcome State Fault Refusal :=
  .next (s.load c vol mode rb disp 4 (rd.toNat % 4 == 0) fun x ws => x.setGrs rd.toNat 4 (wordsNat ws))

/-- LD.A (R226): three words into an address register or LK. -/
def execLdA (c : CoreId) (vol : Bool) (mode : BitVec 2) (rd : Fin 9) (rb : BitVec 3) (disp : BitVec 16) (s : State) :
    Host.Outcome State Fault Refusal :=
  .next (s.load c vol mode rb disp 3 true fun x ws => x.setArOrLk rd (BitVec.ofNat 48 (wordsNat ws)))

/-- ST (R226). -/
def execSt (c : CoreId) (mode : BitVec 2) (rd : BitVec 4) (rb : BitVec 3) (disp : BitVec 16) (s : State) :
    Host.Outcome State Fault Refusal :=
  .next (s.store c mode rb disp true fun x => x.grWords rd.toNat 1)

/-- ST.P (R226). -/
def execStP (c : CoreId) (mode : BitVec 2) (rd : BitVec 4) (rb : BitVec 3) (disp : BitVec 16) (s : State) :
    Host.Outcome State Fault Refusal :=
  .next (s.store c mode rb disp (rd.toNat % 2 == 0) fun x => x.grWords rd.toNat 2)

/-- ST.Q (R226). -/
def execStQ (c : CoreId) (mode : BitVec 2) (rd : BitVec 4) (rb : BitVec 3) (disp : BitVec 16) (s : State) :
    Host.Outcome State Fault Refusal :=
  .next (s.store c mode rb disp (rd.toNat % 4 == 0) fun x => x.grWords rd.toNat 4)

/-- ST.A (R226): an address register or LK as three words. -/
def execStA (c : CoreId) (mode : BitVec 2) (rd : Fin 9) (rb : BitVec 3) (disp : BitVec 16) (s : State) :
    Host.Outcome State Fault Refusal :=
  .next (s.store c mode rb disp true fun x => addrWords (x.arOrLk rd))

/-- STORE_ACKNOWLEDGEMENT (R268, R252). -/
def execStoreAcknowledgement (c : CoreId) (s : State) : Host.Outcome State Fault Refusal := .next (s.storeAck c)

end Sys2Proof.Machine
end

