-- ==== Sys2Proof/Machine/Mgmt.lean ====
section
/-! DEFINITION. Management over MCTP (R422, R423), and the pins FAULT_N and ALERT_N (R453, R456). -/

namespace Sys2Proof.Machine

/-- FAULT_N is asserted (R453). -/
def State.faultN (s : State) : Bool := s.someLocked || s.rs.retired || s.pw.tripped

/-- ALERT_N is asserted (R456). -/
def State.alertN (s : State) : Bool := s.alertSrc &&& s.reg .mgAlertEn 0 0 != 0

/-- Whether a binding carries messages (R422): SMBus from level 0 on, a port while it answers configuration
requests. -/
def State.bindingUp (s : State) : Binding → Bool
  | .smbus => s.level0
  | .pcie p => (s.pxOf (portNum p)).linkUp && s.answersHost && !s.rs.standby

/-- The key of a binding's endpoint ID. -/
def bindingKey : Binding → Nat
  | .smbus => 0
  | .pcie p => 1 + portNum p

/-- A response to a vendor command (R423). -/
def State.respondVendor (s : State) (via : Binding) (command : Nat) (inst : Byte) (status : Nat) (data : List Nat) :
    State := s.emit (.mctp via command inst.toNat status data)

/-- GET_POWER. -/
def State.getPower (s : State) (via : Binding) (inst : Byte) : State :=
  if !s.bindingUp via then s
  else s.respondVendor via 1 inst 0 [s.regValue .pwPin 0 0, s.regValue .pwVin 0 0, s.regValue .pwCap 0 0,
    s.regValue .pwStatus 0 0]

/-- SET_CAP: a cap outside 150 to 600 W is out of range and changes nothing. -/
def State.setCap (s : State) (via : Binding) (inst : Byte) (cap : Nat) : State :=
  if !s.bindingUp via then s
  else if 150 ≤ cap ∧ cap ≤ 600 then (s.capWrite cap).respondVendor via 2 inst 0 []
  else s.respondVendor via 2 inst 2 []

/-- READ_REG: a 32-bit register with management's rights. -/
def State.readRegister (s : State) (via : Binding) (inst : Byte) (addr : Nat) : State :=
  if !s.bindingUp via then s
  else match s.regRead s .management addr .b32 with
    | (.ok v, t) => t.respondVendor via 3 inst 0 [v]
    | (_, t) => t.respondVendor via 3 inst 3 []

/-- WRITE_REG: a 32-bit register with management's rights. -/
def State.writeRegister (s : State) (via : Binding) (inst : Byte) (addr value : Nat) : State :=
  if !s.bindingUp via then s
  else match s.regWrite s .management addr .b32 value with
    | (.ok _, t) => t.respondVendor via 4 inst 0 []
    | (_, t) => t.respondVendor via 4 inst 3 []

/-- GET_EVENTS. -/
def State.getEvents (s : State) (via : Binding) (inst : Byte) : State :=
  if !s.bindingUp via then s
  else s.respondVendor via 5 inst 0 [s.regValue .pwEvstat 0 0, s.regValue .mgStage 0 0]

/-- A response to an MCTP control message (R422); the codes and the layouts are those of DSP0236
(notes/assumptions/60.md). -/
def State.respondControl (s : State) (via : Binding) (command : Nat) (data : List Nat) : State :=
  if s.bindingUp via then s.emit (.mctpControl via command data) else s

/-- Set Endpoint ID: 0x00 and 0xFF are no endpoint IDs. -/
def State.setEndpointId (s : State) (via : Binding) (eid : Byte) : State :=
  if !s.bindingUp via then s
  else if eid = 0 ∨ eid = 0xFF then s.respondControl via 1 [2]
  else
    let s := { s with pw := { s.pw with eids := put 0 s.pw.eids (bindingKey via) eid } }
    s.respondControl via 1 [0, 0, eid.toNat, 0]

/-- The endpoint ID of a binding. -/
def State.endpointId (s : State) (via : Binding) : Nat := (get 0 s.pw.eids (bindingKey via)).toNat

/-- A vendor message by its COMMAND (R423): any code but the five of the table is an unknown command, STATUS 1. The table
has a row for each of the five. -/
def State.vendorMessage (s : State) (via : Binding) (command : Nat) (inst : Byte) (addr value : Nat) : State :=
  match command with
  | 1 => s.getPower via inst
  | 2 => s.setCap via inst (value % 0x10000)
  | 3 => s.readRegister via inst addr
  | 4 => s.writeRegister via inst addr value
  | 5 => s.getEvents via inst
  | _ => if s.bindingUp via then s.respondVendor via command inst 1 [] else s

def execGetPower (via : Binding) (inst : Byte) (s : State) : Host.Outcome State Fault Refusal :=
  .next (s.vendorMessage via 1 inst 0 0)
def execSetCap (via : Binding) (inst : Byte) (cap : BitVec 16) (s : State) : Host.Outcome State Fault Refusal :=
  .next (s.vendorMessage via 2 inst 0 cap.toNat)
def execReadReg (via : Binding) (inst : Byte) (addr : BitVec 64) (s : State) : Host.Outcome State Fault Refusal :=
  .next (s.vendorMessage via 3 inst addr.toNat 0)
def execWriteReg (via : Binding) (inst : Byte) (addr : BitVec 64) (value : BitVec 32) (s : State) :
    Host.Outcome State Fault Refusal := .next (s.vendorMessage via 4 inst addr.toNat value.toNat)
def execGetEvents (via : Binding) (inst : Byte) (s : State) : Host.Outcome State Fault Refusal :=
  .next (s.vendorMessage via 5 inst 0 0)
def execSetEndpointId (via : Binding) (eid : Byte) (s : State) : Host.Outcome State Fault Refusal :=
  .next (s.setEndpointId via eid)
def execGetEndpointId (via : Binding) (s : State) : Host.Outcome State Fault Refusal :=
  .next (s.respondControl via 2 [0, s.endpointId via, 0, 0])
def execGetMctpVersionSupport (via : Binding) (s : State) : Host.Outcome State Fault Refusal :=
  .next (s.respondControl via 4 (0 :: Config.mctpVersions))
def execGetMessageTypeSupport (via : Binding) (s : State) : Host.Outcome State Fault Refusal :=
  .next (s.respondControl via 5 [0, 1, 0x7E])
def execGetVendorDefinedSupport (via : Binding) (s : State) : Host.Outcome State Fault Refusal :=
  .next (s.respondControl via 6 [0, 0xFF, 0, Config.vendorId % 0x10000])
def execAlertResponse (s : State) : Host.Outcome State Fault Refusal :=
  .next (if s.alertN then s.emit (.alertByte 0x74) else s)

end Sys2Proof.Machine
end

