-- ==== Sys2Proof/Machine/SystemOps.lean ====
section
/-! DEFINITION. The system group, engine issue, the synchronisation group, reserved opcodes and exception entry of
Jexvik-16 (R219, R221, R222, R229–R231, R240, R241, R247, R249, R278, R291, R292). -/

namespace Sys2Proof.Machine

/-! ### Gates and returns (R240, R241, R249) -/

/-- A protection fault with cause n. -/
def Flow.protection (cause : Nat) (s : State) : Flow := .exc (protectionFault cause) s

/-- The gate entry n of a core begins at this word. -/
def Core.gateAt (x : Core) (n : Nat) : Addr := x.gtbase + BitVec.ofNat 48 (4 * n)

/-- The words of a gate frame: words 0–8, and words 49–51 (R245). -/
def Core.gateFrame (x : Core) (n : Nat) : List Half × List Half :=
  ([0x2000, BitVec.ofNat 16 n] ++ addrWords (x.pc + 1) ++ [x.st] ++ addrWords x.lk, addrWords (x.ar 7))

/-- Writes a gate frame at TSR with ring-0 permission and waits for every acknowledgement; a fault in any word of it
changes nothing but what a walk counts (R241, R260). A write that its home refuses is the store error of R252, taken
by the instruction (DEDUCED, notes/assumptions/41.md). -/
def State.writeGateFrame (s : State) (c : CoreId) (n : Nat) : Got Unit × State :=
  let x := s.core c
  let f := x.gateFrame n
  match s.writeFrameWords c [(x.tsr, f.1), (x.tsr + 49, f.2)] with
  | (.exc e, t) => (.exc e, if e.vec = 3 then t else s)
  | r => r

/-- A GCALL writes its frame and takes the gate entry whose words it has read (R241). -/
def State.gcallFrame (s : State) (c : CoreId) (n : Nat) (ws : List Half) : Flow :=
  match s.writeGateFrame c n with
  | (.wait, u) =>
    match (u.core c).frameWrite with
    | none => .wait
    | some w => .hold (u.putFrame c (some { w with gate := ws }))
  | (.exc e, u) => .exc e (u.putFrame c none)
  | (.ok _, u) => .done (u.modCore c fun y => { y with
      tsr := y.tsr + 64
      st := stWith y.st (bits (ws.getD 3 0).toNat 3 2) y.mask
      pc := wordsAddr ws 0
      frameWrite := none })

/-- GCALL of R241. -/
def State.gcall (s : State) (c : CoreId) (n : Nat) : Flow :=
  match s.loadWords c false ((s.core c).gateAt n) 4 0 with
  | .wait => .wait
  | .hold u => .hold u
  | .exc e u => .exc e u
  | .ok ws t =>
    let x := t.core c
    let w := (ws.getD 3 0).toNat
    if !bit w 15 ∨ bits w 14 4 ≠ 0 then .protection 1 t
    else if bits w 1 0 < x.ring then .protection 2 t
    else if x.ring < bits w 3 2 then .protection 3 t
    else if t.tslim c < x.tsr.toNat + 192 then .protection 7 t
    else t.gcallFrame c n ws

/-- Reads the frame below TSR with ring-0 permission, and goes on with it when its KIND fits and its ring is no more
privileged than the present one (R241, R249). -/
def State.frameBelow (s : State) (c : CoreId) (kind : Nat) (f : State → List Half → State) : Flow :=
  match s.loadWords c false ((s.core c).tsr - 64) 64 0 with
  | .wait => .wait
  | .hold u => .hold u
  | .exc e u => .exc e u
  | .ok ws t =>
    if bits (ws.getD 0 0).toNat 15 12 ≠ kind then .protection 4 t
    else if bits (ws.getD 5 0).toNat 15 14 < (t.core c).ring then .protection 5 t
    else .done (f t ws)

/-- GRET of R241. -/
def State.gret (s : State) (c : CoreId) : Flow :=
  s.frameBelow c 2 fun t ws => t.modCore c fun x =>
    { (x.setAr 7 (wordsAddr ws 49)) with
      pc := wordsAddr ws 2
      lk := wordsAddr ws 6
      st := stWith x.st (bits (ws.getD 5 0).toNat 15 14) x.mask
      tsr := x.tsr - 64 }

/-- RETE of R249. -/
def State.rete (s : State) (c : CoreId) : Flow :=
  s.frameBelow c 1 fun t ws =>
    let below := (t.core c).tsr - 64
    (t.modCore c fun x =>
      let st := ws.getD 5 0
      let y := (List.range 8).foldl (fun k i => k.setAr i (wordsAddr ws (28 + 3 * i))) x
      let y := (List.range 16).foldl (fun k i => k.setGr i (ws.getD (12 + i) 0).toNat) y
      { y with
        pc := wordsAddr ws 2
        lk := wordsAddr ws 6
        st := stWith st (bits st.toNat 15 14) (if x.ring = 0 then bits st.toNat 13 11 else x.mask)
        tsr := below }).resumeEngines c below

/-! ### Special registers (R222) -/

/-- The fault that names a special register wrongly, or reaches one that the ring may not: none when it is permitted. -/
def sprFault (x : Core) (reg : Nat) (write : Bool) (n : Nat) : Option Exc :=
  match sprOf n with
  | none => some (instructionFault 3)
  | some p =>
    if (p.wide && decide (8 ≤ reg)) || (write && p.readOnly) then some (instructionFault 3)
    else if p.ring0 && x.ring != 0 then some (protectionFault 6)
    else none

/-- MFS of R222. -/
def State.mfs (s : State) (c : CoreId) (reg n : Nat) : Flow :=
  match sprFault (s.core c) reg false n, sprOf n with
  | none, some p => .done (s.modCore c fun x =>
      let v := x.readSpr c s.ol.devId p
      (if p.wide then x.setAr reg (BitVec.ofNat 48 v) else x.setGr reg v).next 2)
  | some e, _ => .exc e s
  | none, none => .exc (instructionFault 3) s

/-- MTS of R222. -/
def State.mts (s : State) (c : CoreId) (reg n : Nat) : Flow :=
  match sprFault (s.core c) reg true n, sprOf n with
  | none, some p => .done (s.modCore c fun x =>
      (x.writeSpr (if p.wide then (x.ar reg).toNat else x.gr reg) p).next 2)
  | some e, _ => .exc e s
  | none, none => .exc (instructionFault 3) s

/-! ### Fences (R278) -/

/-- What an engine has to do is done, so that a fence that names it completes; a supervisor core has no engines. -/
def State.engineDone (s : State) (c : Nat) : Engine → Bool
  | .matrix => decide (768 ≤ c) || ((s.mxOf c).queue.isEmpty && (s.mxOf c).writeBacks.isEmpty)
  | .vector => decide (768 ≤ c) || (s.vxOf c).queue.isEmpty
  | .dma => decide (768 ≤ c) ||
      [0, 1].all fun ch => (s.chan c ch).queue.isEmpty && (s.chan c ch).dgo.isNone

/-- Whether the stores of a core have left it: each to the own scratchpad is written, and the others have entered the entry
crossing of plane V (R278; notes/assumptions/46.md). -/
def State.storesLeft (s : State) (c : Nat) : Bool := decide (s.storesEntered c = (s.core c).stores.length)

/-- Whether a fence is complete (R278). -/
def State.fenceDone (s : State) (c : Nat) (g d v m st : Bool) : Bool :=
  (!g || (s.core c).stores.isEmpty) && (!(st || g) || s.storesLeft c) &&
    (!(m || g) || s.engineDone c .matrix) && (!(v || g) || s.engineDone c .vector) &&
    (!(d || g) || s.engineDone c .dma)

/-! ### Engine issue (R229, R230) -/

/-- The queue of an engine that a command goes to, and its room (R65, R97, R128). -/
def State.engineQueue (s : State) (c ch : Nat) : Engine → List EngineCmd × Nat
  | .matrix => ((s.mxOf c).queue, 16)
  | .vector => ((s.vxOf c).queue, 16)
  | .dma => ((s.chan c ch).queue, 8)

/-- Whether an engine is held. -/
def State.engineHeld (s : State) (c : Nat) : Engine → Bool
  | .matrix => (s.mxOf c).held
  | .vector => (s.vxOf c).held
  | .dma => (s.dmOf c).held

/-- The flag that a refused push sets. -/
def refusedFlag : Engine → Field
  | .matrix => fMX_STATUS_QREFUSED
  | .vector => fVX_STATUS_QREFUSED
  | .dma => fDM_STATUS_QREFUSED

/-- Adds a command to a queue. -/
def State.enqueue (s : State) (c ch : Nat) (e : EngineCmd) : Engine → State
  | .matrix => s.modMx c fun m => { m with queue := m.queue ++ [e] }
  | .vector => s.modVx c fun x => { x with queue := x.queue ++ [e] }
  | .dma => s.modChan c ch fun k => { k with queue := k.queue ++ [e] }

/-- The DMA channel that command word 0 names: its bit [9] (R128, R229). -/
def dmaChannel (words : List Half) : Nat := if bit (words.getD 0 0).toNat 9 then 1 else 0

/-- Pushes a command (R65, R230): none when the instruction has to wait for room. -/
def State.push (s : State) (c : Nat) (eng : Engine) (words : List Half) : Option State :=
  let ch := dmaChannel words
  let x := s.core c
  let q := s.engineQueue c ch eng
  if q.1.length < q.2 then
    some (s.enqueue c ch { words := words, ring := BitVec.ofNat 2 x.ring, sync := x.syncctx } eng)
  else if s.engineHeld c eng then some (s.setFlag (refusedFlag eng) true c)
  else none

/-- The words of an engine command. -/
def issueWords (len : Bool) : Nat := if len then 8 else 4

/-- Issues a command whose words are known: LEN has to agree with bit [10] of word 0 (R229). -/
def State.issue (s : State) (c : Nat) (eng : Engine) (len : Bool) (words : List Half) : Flow :=
  if bit (words.getD 0 0).toNat 10 ≠ len then .exc (instructionFault 5) s
  else match s.push c eng words with
    | some t => .done (t.modCore c fun x => x.next 1)
    | none => .wait

/-! ### Synchronisation (R231, R289, R291, R292) -/

/-- The amount of a synchronisation instruction: pair P. -/
def Core.amount (x : Core) (p : Nat) : Nat := x.grs (2 * p) 2

/-- WAIT of R292. -/
def State.waitOn (s : State) (c : Nat) (glb : Bool) (ident amount : Nat) : State :=
  let x := s.core c
  match s.syncTarget c x.syncctx glb ident with
  | some (.counter p) =>
    (s.sendWait c p amount (if glb then none else some (bits x.syncctx.toNat 11 0))).modCore c fun y =>
      { y with waiting := .counter p }
  | _ => (s.syncFault c 3).modCore c fun y => { y with wres := 0xC000 }.next 2

/-! ### Reserved opcodes (R219) -/

/-- Whether a local address is one that a reserved opcode may store to (R219): no register but those of its own core's
frames, since the others hold the state of contexts and of other cores. -/
def reservedMayStore (c la : Nat) : Bool :=
  if la < regBase then true
  else
    let blk := (la - regBase) / 0x1000000
    let off := (la - regBase) % 0x1000000
    decide (10 ≤ blk ∧ blk ≤ 16) && off / (if blk = 13 then 0x800 else 0x100) == c

/-- One effect of a reserved opcode, within the bounds of R219. A signal is one of the context that SYNCCTX named before. -/
def State.reservedEffect (s : State) (c : CoreId) (ctx : Half) : Config.ReservedEffect → State
  | .general n v => s.modCore c fun x => x.setGr n.toNat v.toNat
  | .address n v => s.modCore c fun x => x.setAr n.toNat v
  | .link v => s.modCore c fun x => { x with lk := v }
  | .flags v => s.modCore c fun x => x.setFlags (Nzcv.of (v.setWidth 16))
  | .waitResult v => s.modCore c fun x => { x with wres := v }
  | .special n v =>
    match sprOf n.toNat with
    | some p => s.modCore c fun x => if p.ring0 ∧ x.ring ≠ 0 then x else x.writeSpr v.toNat p
    | none => s
  | .store va words =>
    match s.translateAll c (wordsFrom va words.length) .write (s.core c).ring with
    | (.ok las, _, _) =>
      if las.all (reservedMayStore c) then
        match s.storeWords c va words (s.core c).ring with
        | (.ok _, t) => t
        | _ => s
      else s
    | _ => s
  | .push eng words =>
    if 768 ≤ c.val ∨ words.length ≠ issueWords (bit (words.getD 0 0).toNat 10) then s
    else (s.push c eng words).getD s
  | .signal glb ident amount => s.signal c ctx glb ident.toNat amount.toNat

/-- The synchronous exceptions that an instruction of a ring of a core can take, with their causes (R220, R251, R256, R252,
R107). -/
def syncExceptions (c ring : Nat) : List (Nat × Nat) :=
  [(1, 1), (1, 2), (1, 3), (1, 5), (1, 6)] ++ (if 768 ≤ c then [(1, 4)] else [(8, 1)]) ++
    [(2, 1), (2, 4), (2, 7)] ++ (if ring < 3 then [(2, 3)] else []) ++ (if ring = 0 then [] else [(2, 2), (2, 5), (2, 6)]) ++
    [(3, 1), (3, 2), (3, 3), (3, 4), (3, 5), (3, 7), (3, 8)] ++ (if ring = 0 then [] else [(3, 6)]) ++
    [(4, 1), (4, 2), (4, 3), (4, 4), (4, 5)]

/-- A free one of them. FA is free where the vector records one (R245), and so is the granule of a scratchpad fault. -/
def reservedException (c ring n : Nat) : Exc :=
  let l := syncExceptions c ring
  let (vec, cause) := l.getD (Config.freeNat n % l.length) (1, 1)
  ⟨vec, cause, if vec ≤ 2 then 0 else Config.freeAddr n,
    if vec = 8 then some (Config.freeNat (n + 1) % 0x40000) else none⟩

/-- The words of an instruction by its word 0 (R218, R221, R225–R227). -/
def instrLength (w : Nat) : Nat :=
  let fn := bits w 11 8
  match bits w 15 12 with
  | 0x0 => if fn = 7 ∨ fn = 8 then 2 else 1
  | 0x2 => 2
  | 0x6 => if fn = 3 then 2 else if fn = 4 then 4 else if fn = 5 then 3 else 1
  | 0x7 => if bits w 8 7 = 0 then 1 else 2
  | 0x8 => if bits w 8 7 = 0 then 1 else 2
  | 0xA => if fn < 2 then 3 else 1
  | 0xD => 2
  | _ => 1

/-- The words that the instruction at PC has, as its word 0 fixes them (R218). One whose word 0 cannot be fetched has no
other. -/
def State.lengthAtPc (s : State) (c : CoreId) : Nat :=
  match (s.fetchRead c (s.core c).pc (s.core c).ring).1 with
  | .ok d => instrLength (leNat d)
  | _ => 1

/-- Whether an effect of a reserved opcode writes a special register. -/
def writesSpecial : Config.ReservedEffect → Bool
  | .special _ _ => true
  | _ => false

/-- A reserved opcode: free effects, and then it goes on at a free address or takes a free exception of its ring. What it
stores, pushes and signals goes under the special registers from before it, as that of every instruction does. -/
def State.reserved (s : State) (c : CoreId) : Flow :=
  let n := s.freeCount + 1
  let x := s.core c
  let s := { s with freeCount := n + 2 }
  let l := Config.reservedEffects n
  let t := (l.filter (!writesSpecial ·) ++ l.filter writesSpecial).foldl (fun t e => t.reservedEffect c x.syncctx e) s
  if Config.freeBool n then .done (t.modCore c fun x => { x with pc := Config.freeAddr n })
  else .exc (reservedException c x.ring n) t

/-! ### Exception entry (R232, R243, R247) -/

/-- Takes the fault of fetching word k of the instruction at PC, when that is the first word that fails. -/
def State.fetchFault (s : State) (c : CoreId) (k : Nat) : State :=
  let x := s.core c
  if let some e := x.entering then s.goOnEntering c e
  else if (s.deliverable c).isSome then (s.takeAsync c).getD s
  else if x.waiting ≠ .no then s
  else match s.fetchWords c x.ring (wordsFrom x.pc k) with
    | (.ok _, t) =>
      match t.fetchWord c (x.pc + BitVec.ofNat 48 k) x.ring with
      | (.exc e, u) => u.takeSync c e
      | _ => s
    | _ => s

/-! ### The commands -/

/-- ZTRAP (R220, R221). -/
def execZtrap (c : CoreId) (s : State) : Host.Outcome State Fault Refusal :=
  .next (s.instr c 1 fun t => .exc (instructionFault 1) t)

/-- NOP (R221). -/
def execNop (c : CoreId) (s : State) : Host.Outcome State Fault Refusal := .next (s.instrCore c 1 id)

/-- WFI (R221, R244): the core waits; PC moves on when an event ends the wait. -/
def execWfi (c : CoreId) (s : State) : Host.Outcome State Fault Refusal :=
  .next (s.instr c 1 fun t => .done (t.modCore c fun x => { x with waiting := .wfi }))

/-- FENCE (R278): it waits until what it names is done. -/
def execFence (c : CoreId) (g d v m st : Bool) (s : State) : Host.Outcome State Fault Refusal :=
  .next (s.instr c 1 fun t =>
    if t.fenceDone c g d v m st then .done (t.modCore c fun x => x.next 1) else .wait)

/-- GCALL (R241): one that waits with a part of its frame written goes on with it. -/
def execGcall (c : CoreId) (gate : BitVec 8) (s : State) : Host.Outcome State Fault Refusal :=
  .next (match (s.core c).frameWrite with
    | some w =>
      if s.runs c ∧ (s.core c).entering = none then (s.gcallFrame c gate.toNat w.gate).state s c
      else s.instrLoad c 1 fun t => t.gcall c gate.toNat
    | none => s.instrLoad c 1 fun t => t.gcall c gate.toNat)

/-- GRET (R241). -/
def execGret (c : CoreId) (s : State) : Host.Outcome State Fault Refusal := .next (s.instrLoad c 1 fun t => t.gret c)

/-- RETE (R249). -/
def execRete (c : CoreId) (s : State) : Host.Outcome State Fault Refusal := .next (s.instrLoad c 1 fun t => t.rete c)

/-- MFS (R222). -/
def execMfs (c : CoreId) (reg : BitVec 4) (spr : BitVec 8) (s : State) : Host.Outcome State Fault Refusal :=
  .next (s.instr c 2 fun t => t.mfs c reg.toNat spr.toNat)

/-- MTS (R222). -/
def execMts (c : CoreId) (reg : BitVec 4) (spr : BitVec 8) (s : State) : Host.Outcome State Fault Refusal :=
  .next (s.instr c 2 fun t => t.mts c reg.toNat spr.toNat)

/-- ISYNC (R221): what was fetched is discarded; the model fetches each instruction as it executes. -/
def execIsync (c : CoreId) (s : State) : Host.Outcome State Fault Refusal := .next (s.instrCore c 1 id)

/-- EIS (R229, R230). -/
def execEis (c : CoreId) (eng : Engine) (len : Bool) (rg : BitVec 4) (s : State) : Host.Outcome State Fault Refusal :=
  .next (s.instr c 1 fun t =>
    if 768 ≤ c.val then .exc (instructionFault 4) t
    else if rg.toNat % issueWords len ≠ 0 then .exc (instructionFault 2) t
    else t.issue c eng len ((t.core c).grWords rg.toNat (issueWords len)))

/-- EISM (R229, R230). Words read from a host window are read again after a wait for room, so that an event is taken
meanwhile (DEDUCED, notes/assumptions/113.md). -/
def execEism (c : CoreId) (eng : Engine) (len : Bool) (ra : BitVec 3) (s : State) : Host.Outcome State Fault Refusal :=
  .next (s.instrLoad c 1 fun t =>
    if 768 ≤ c.val then .exc (instructionFault 4) t
    else match t.loadWords c false ((t.core c).ar ra.toNat) (issueWords len) (t.core c).ring with
      | .ok ws u =>
        match u.issue c eng len ws with
        | .wait => if (t.core c).hostLoads = [] then .wait else .hold (t.modCore c fun x => { x with hostLoads := [] })
        | f => f
      | .wait => .wait
      | .hold u => .hold u
      | .exc e u => .exc e u)

/-- SIG (R231, R291). -/
def execSig (c : CoreId) (glb : Bool) (p : BitVec 3) (ident : BitVec 10) (s : State) :
    Host.Outcome State Fault Refusal :=
  .next (s.instr c 2 fun t =>
    let x := t.core c
    if maxCount < x.amount p.toNat then .exc (instructionFault 6) t
    else .done ((t.signal c x.syncctx glb ident.toNat (x.amount p.toNat)).modCore c fun y => y.next 2))

/-- WAIT (R231, R292). -/
def execWait (c : CoreId) (glb : Bool) (p : BitVec 3) (ident : BitVec 10) (s : State) :
    Host.Outcome State Fault Refusal :=
  .next (s.instr c 2 fun t =>
    let x := t.core c
    if maxCount < x.amount p.toNat then .exc (instructionFault 6) t
    else .done (t.waitOn c glb ident.toNat (x.amount p.toNat)))

/-- RESERVED_OPCODE (R219). -/
def execReservedOpcode (c : CoreId) (s : State) : Host.Outcome State Fault Refusal :=
  .next (s.instr c (s.lengthAtPc c) fun t => t.reserved c)

/-- EXCEPTION_ENTRY (R232, R243, R247). -/
def execExceptionEntry (c : CoreId) (what : EntryKind) (s : State) : Host.Outcome State Fault Refusal :=
  .next (if !s.runs c ∨ (s.core c).within then s
    else match what with
      | .pending =>
        match (s.core c).entering with
        | some e => s.goOnEntering c e
        | none => (s.takeAsync c).getD s
      | .fetch k => s.fetchFault c k)

end Sys2Proof.Machine
end

