-- ==== Sys2Proof/Machine/Dispatch.lean ====
section
/-! DEFINITION. One arm for each command: its meaning on everything but the queue. -/

namespace Sys2Proof.Machine

def exec (i : Instr) (s : State) : Host.Outcome State Fault Refusal :=
  match i with
  | .registerWrite rq addr size value => Sys2Proof.Machine.execRegisterWrite rq addr size value s
  | .registerReadClear rq addr size => Sys2Proof.Machine.execRegisterReadClear rq addr size s
  | .tcfg k => Sys2Proof.Machine.execTcfg k s
  | .tldR k => Sys2Proof.Machine.execTldR k s
  | .tldC k => Sys2Proof.Machine.execTldC k s
  | .tstR k => Sys2Proof.Machine.execTstR k s
  | .tstC k => Sys2Proof.Machine.execTstC k s
  | .mmaT k residue => Sys2Proof.Machine.execMmaT k residue s
  | .mmaS k residue => Sys2Proof.Machine.execMmaS k residue s
  | .azero k => Sys2Proof.Machine.execAzero k s
  | .amovC k => Sys2Proof.Machine.execAmovC k s
  | .amovL k => Sys2Proof.Machine.execAmovL k s
  | .amovS k => Sys2Proof.Machine.execAmovS k s
  | .acvtS k => Sys2Proof.Machine.execAcvtS k s
  | .acvtT k => Sys2Proof.Machine.execAcvtT k s
  | .mmaWriteBack k => Sys2Proof.Machine.execMmaWriteBack k s
  | .matrixFault k => Sys2Proof.Machine.execMatrixFault k s
  | .mxAbandon rq k => Sys2Proof.Machine.execMxAbandon rq k s
  | .mxSave rq k => Sys2Proof.Machine.execMxSave rq k s
  | .mxRestore rq k => Sys2Proof.Machine.execMxRestore rq k s
  | .saveRestoreComplete k engine => Sys2Proof.Machine.execSaveRestoreComplete k engine s
  | .vopAdd k => Sys2Proof.Machine.execVopAdd k s
  | .vopSub k => Sys2Proof.Machine.execVopSub k s
  | .vopMul k => Sys2Proof.Machine.execVopMul k s
  | .vopFma k => Sys2Proof.Machine.execVopFma k s
  | .vopMin k => Sys2Proof.Machine.execVopMin k s
  | .vopMax k => Sys2Proof.Machine.execVopMax k s
  | .vopAbs k => Sys2Proof.Machine.execVopAbs k s
  | .vopNeg k => Sys2Proof.Machine.execVopNeg k s
  | .cpsgn k => Sys2Proof.Machine.execCpsgn k s
  | .cmpeq k => Sys2Proof.Machine.execCmpeq k s
  | .cmplt k => Sys2Proof.Machine.execCmplt k s
  | .cmple k => Sys2Proof.Machine.execCmple k s
  | .cmpun k => Sys2Proof.Machine.execCmpun k s
  | .sel k => Sys2Proof.Machine.execSel k s
  | .vopMov k => Sys2Proof.Machine.execVopMov k s
  | .vopAnd k => Sys2Proof.Machine.execVopAnd k s
  | .vopOr k => Sys2Proof.Machine.execVopOr k s
  | .vopXor k => Sys2Proof.Machine.execVopXor k s
  | .vopShl k => Sys2Proof.Machine.execVopShl k s
  | .vopShr k => Sys2Proof.Machine.execVopShr k s
  | .vcvt k => Sys2Proof.Machine.execVcvt k s
  | .exp2 k => Sys2Proof.Machine.execExp2 k s
  | .log2 k => Sys2Proof.Machine.execLog2 k s
  | .rcp k => Sys2Proof.Machine.execRcp k s
  | .rsqrt k => Sys2Proof.Machine.execRsqrt k s
  | .vredSum k => Sys2Proof.Machine.execVredSum k s
  | .vredMax k => Sys2Proof.Machine.execVredMax k s
  | .vredMin k => Sys2Proof.Machine.execVredMin k s
  | .argmax k => Sys2Proof.Machine.execArgmax k s
  | .vbc k => Sys2Proof.Machine.execVbc k s
  | .vld k => Sys2Proof.Machine.execVld k s
  | .vst k => Sys2Proof.Machine.execVst k s
  | .vstrm k => Sys2Proof.Machine.execVstrm k s
  | .vtopkS k => Sys2Proof.Machine.execVtopkS k s
  | .vectorFault k => Sys2Proof.Machine.execVectorFault k s
  | .vxAbandon rq k => Sys2Proof.Machine.execVxAbandon rq k s
  | .vxSave rq k => Sys2Proof.Machine.execVxSave rq k s
  | .vxRestore rq k => Sys2Proof.Machine.execVxRestore rq k s
  | .apertureWrite k plane => Sys2Proof.Machine.execApertureWrite k plane s
  | .remoteRead k plane => Sys2Proof.Machine.execRemoteRead k plane s
  | .eccWriteBack k => Sys2Proof.Machine.execEccWriteBack k s
  | .apertureOpen rq k ap value => Sys2Proof.Machine.execApertureOpen rq k ap value s
  | .apertureClose rq k ap value => Sys2Proof.Machine.execApertureClose rq k ap value s
  | .apertureClosed k ap => Sys2Proof.Machine.execApertureClosed k ap s
  | .spRelease rq k value => Sys2Proof.Machine.execSpRelease rq k value s
  | .slotReleaseEffect k => Sys2Proof.Machine.execSlotReleaseEffect k s
  | .slotWaitTimeout k waiter => Sys2Proof.Machine.execSlotWaitTimeout k waiter s
  | .heldWriteTimeout k ap slot => Sys2Proof.Machine.execHeldWriteTimeout k ap slot s
  | .dgo k ch => Sys2Proof.Machine.execDgo k ch s
  | .descriptorStart k ch => Sys2Proof.Machine.execDescriptorStart k ch s
  | .dmaPageFault k ch => Sys2Proof.Machine.execDmaPageFault k ch s
  | .chainComplete k ch => Sys2Proof.Machine.execChainComplete k ch s
  | .dmResume rq k ch => Sys2Proof.Machine.execDmResume rq k ch s
  | .dmAbandon rq k ch => Sys2Proof.Machine.execDmAbandon rq k ch s
  | .remoteAckTimeout k ch => Sys2Proof.Machine.execRemoteAckTimeout k ch s
  | .outputBeat router plane port => Sys2Proof.Machine.execOutputBeat router plane port s
  | .inputBeat router plane port => Sys2Proof.Machine.execInputBeat router plane port s
  | .streamBeatServe slice => Sys2Proof.Machine.execStreamBeatServe slice s
  | .mark slice => Sys2Proof.Machine.execMark slice s
  | .servicePacket index => Sys2Proof.Machine.execServicePacket index s
  | .readResponse src => Sys2Proof.Machine.execReadResponse src s
  | .acknowledgement index => Sys2Proof.Machine.execAcknowledgement index s
  | .refusal index => Sys2Proof.Machine.execRefusal index s
  | .stall what => Sys2Proof.Machine.execStall what s
  | .pop rq => Sys2Proof.Machine.execPop rq s
  | .openContext via ctx => Sys2Proof.Machine.execOpenContext via ctx s
  | .park via ctx => Sys2Proof.Machine.execPark via ctx s
  | .resumeContext via ctx => Sys2Proof.Machine.execResumeContext via ctx s
  | .dropContext via ctx => Sys2Proof.Machine.execDropContext via ctx s
  | .claim via ctx => Sys2Proof.Machine.execClaim via ctx s
  | .assign via ctx => Sys2Proof.Machine.execAssign via ctx s
  | .cxInDb port func ctx value => Sys2Proof.Machine.execCxInDb port func ctx value s
  | .cxOutDb port func ctx value => Sys2Proof.Machine.execCxOutDb port func ctx value s
  | .recordWrite path size half value => Sys2Proof.Machine.execRecordWrite path size half value s
  | .closeStep => Sys2Proof.Machine.execCloseStep s
  | .gatherTimeout => Sys2Proof.Machine.execGatherTimeout s
  | .compose => Sys2Proof.Machine.execCompose s
  | .release => Sys2Proof.Machine.execRelease s
  | .followerRelease => Sys2Proof.Machine.execFollowerRelease s
  | .slotMapPart sender stepNo part data => Sys2Proof.Machine.execSlotMapPart sender stepNo part data s
  | .mapCredit sender stepNo => Sys2Proof.Machine.execMapCredit sender stepNo s
  | .mapResend receiver => Sys2Proof.Machine.execMapResend receiver s
  | .ztrap c => Sys2Proof.Machine.execZtrap c s
  | .nop c => Sys2Proof.Machine.execNop c s
  | .wfi c => Sys2Proof.Machine.execWfi c s
  | .fence c g d v m st => Sys2Proof.Machine.execFence c g d v m st s
  | .gcall c gate => Sys2Proof.Machine.execGcall c gate s
  | .gret c => Sys2Proof.Machine.execGret c s
  | .rete c => Sys2Proof.Machine.execRete c s
  | .mfs c reg spr => Sys2Proof.Machine.execMfs c reg spr s
  | .mts c reg spr => Sys2Proof.Machine.execMts c reg spr s
  | .isync c => Sys2Proof.Machine.execIsync c s
  | .mov c rd rs => Sys2Proof.Machine.execMov c rd rs s
  | .add c rd rs => Sys2Proof.Machine.execAdd c rd rs s
  | .adc c rd rs => Sys2Proof.Machine.execAdc c rd rs s
  | .sub c rd rs => Sys2Proof.Machine.execSub c rd rs s
  | .sbc c rd rs => Sys2Proof.Machine.execSbc c rd rs s
  | .cmp c rd rs => Sys2Proof.Machine.execCmp c rd rs s
  | .and c rd rs => Sys2Proof.Machine.execAnd c rd rs s
  | .or c rd rs => Sys2Proof.Machine.execOr c rd rs s
  | .xor c rd rs => Sys2Proof.Machine.execXor c rd rs s
  | .tst c rd rs => Sys2Proof.Machine.execTst c rd rs s
  | .shl c rd rs => Sys2Proof.Machine.execShl c rd rs s
  | .shr c rd rs => Sys2Proof.Machine.execShr c rd rs s
  | .sar c rd rs => Sys2Proof.Machine.execSar c rd rs s
  | .rol c rd rs => Sys2Proof.Machine.execRol c rd rs s
  | .mull c rd rs => Sys2Proof.Machine.execMull c rd rs s
  | .mulhu c rd rs => Sys2Proof.Machine.execMulhu c rd rs s
  | .movi c rd imm => Sys2Proof.Machine.execMovi c rd imm s
  | .addi c rd imm => Sys2Proof.Machine.execAddi c rd imm s
  | .adci c rd imm => Sys2Proof.Machine.execAdci c rd imm s
  | .subi c rd imm => Sys2Proof.Machine.execSubi c rd imm s
  | .sbci c rd imm => Sys2Proof.Machine.execSbci c rd imm s
  | .cmpi c rd imm => Sys2Proof.Machine.execCmpi c rd imm s
  | .andi c rd imm => Sys2Proof.Machine.execAndi c rd imm s
  | .ori c rd imm => Sys2Proof.Machine.execOri c rd imm s
  | .xori c rd imm => Sys2Proof.Machine.execXori c rd imm s
  | .tsti c rd imm => Sys2Proof.Machine.execTsti c rd imm s
  | .shlImmediate c rd imm => Sys2Proof.Machine.execShlImmediate c rd imm s
  | .shrImmediate c rd imm => Sys2Proof.Machine.execShrImmediate c rd imm s
  | .sarImmediate c rd imm => Sys2Proof.Machine.execSarImmediate c rd imm s
  | .rolImmediate c rd imm => Sys2Proof.Machine.execRolImmediate c rd imm s
  | .mulli c rd imm => Sys2Proof.Machine.execMulli c rd imm s
  | .mulhui c rd imm => Sys2Proof.Machine.execMulhui c rd imm s
  | .movq c rd imm => Sys2Proof.Machine.execMovq c rd imm s
  | .addq c rd imm => Sys2Proof.Machine.execAddq c rd imm s
  | .not c rd => Sys2Proof.Machine.execNot c rd s
  | .neg c rd => Sys2Proof.Machine.execNeg c rd s
  | .swapb c rd => Sys2Proof.Machine.execSwapb c rd s
  | .zxb c rd => Sys2Proof.Machine.execZxb c rd s
  | .sxb c rd => Sys2Proof.Machine.execSxb c rd s
  | .clz c rd => Sys2Proof.Machine.execClz c rd s
  | .popc c rd => Sys2Proof.Machine.execPopc c rd s
  | .shli c rd n => Sys2Proof.Machine.execShli c rd n s
  | .shri c rd n => Sys2Proof.Machine.execShri c rd n s
  | .sari c rd n => Sys2Proof.Machine.execSari c rd n s
  | .roli c rd n => Sys2Proof.Machine.execRoli c rd n s
  | .amov c ra x => Sys2Proof.Machine.execAmov c ra x s
  | .aadd c ra x => Sys2Proof.Machine.execAadd c ra x s
  | .aaddp c ra x => Sys2Proof.Machine.execAaddp c ra x s
  | .aaddi c ra imm => Sys2Proof.Machine.execAaddi c ra imm s
  | .amovi c ra imm => Sys2Proof.Machine.execAmovi c ra imm s
  | .apc c ra disp => Sys2Proof.Machine.execApc c ra disp s
  | .amovg c ra x => Sys2Proof.Machine.execAmovg c ra x s
  | .gmova c ra x => Sys2Proof.Machine.execGmova c ra x s
  | .acmp c ra x => Sys2Proof.Machine.execAcmp c ra x s
  | .ld c vol mode rd rb disp => Sys2Proof.Machine.execLd c vol mode rd rb disp s
  | .ldP c vol mode rd rb disp => Sys2Proof.Machine.execLdP c vol mode rd rb disp s
  | .ldQ c vol mode rd rb disp => Sys2Proof.Machine.execLdQ c vol mode rd rb disp s
  | .ldA c vol mode rd rb disp => Sys2Proof.Machine.execLdA c vol mode rd rb disp s
  | .st c mode rd rb disp => Sys2Proof.Machine.execSt c mode rd rb disp s
  | .stP c mode rd rb disp => Sys2Proof.Machine.execStP c mode rd rb disp s
  | .stQ c mode rd rb disp => Sys2Proof.Machine.execStQ c mode rd rb disp s
  | .stA c mode rd rb disp => Sys2Proof.Machine.execStA c mode rd rb disp s
  | .shortBranch c cond disp => Sys2Proof.Machine.execShortBranch c cond disp s
  | .jcc c cond disp => Sys2Proof.Machine.execJcc c cond disp s
  | .call c disp => Sys2Proof.Machine.execCall c disp s
  | .jmpa c ra => Sys2Proof.Machine.execJmpa c ra s
  | .calla c ra => Sys2Proof.Machine.execCalla c ra s
  | .ret c => Sys2Proof.Machine.execRet c s
  | .lmov c w rd rs => Sys2Proof.Machine.execLmov c w rd rs s
  | .ladd c w rd rs => Sys2Proof.Machine.execLadd c w rd rs s
  | .lsub c w rd rs => Sys2Proof.Machine.execLsub c w rd rs s
  | .lcmp c w rd rs => Sys2Proof.Machine.execLcmp c w rd rs s
  | .land c w rd rs => Sys2Proof.Machine.execLand c w rd rs s
  | .lor c w rd rs => Sys2Proof.Machine.execLor c w rd rs s
  | .lxor c w rd rs => Sys2Proof.Machine.execLxor c w rd rs s
  | .lneg c w rd => Sys2Proof.Machine.execLneg c w rd s
  | .lshl c w rd rs => Sys2Proof.Machine.execLshl c w rd rs s
  | .lshr c w rd rs => Sys2Proof.Machine.execLshr c w rd rs s
  | .lsar c w rd rs => Sys2Proof.Machine.execLsar c w rd rs s
  | .lmulu c w rd rs => Sys2Proof.Machine.execLmulu c w rd rs s
  | .lmulhu c w rd rs => Sys2Proof.Machine.execLmulhu c w rd rs s
  | .lmulhs c w rd rs => Sys2Proof.Machine.execLmulhs c w rd rs s
  | .lsxw c w rd rs => Sys2Proof.Machine.execLsxw c w rd rs s
  | .eis c eng len rg => Sys2Proof.Machine.execEis c eng len rg s
  | .eism c eng len ra => Sys2Proof.Machine.execEism c eng len ra s
  | .sig c glb p ident => Sys2Proof.Machine.execSig c glb p ident s
  | .wait c glb p ident => Sys2Proof.Machine.execWait c glb p ident s
  | .reservedOpcode c => Sys2Proof.Machine.execReservedOpcode c s
  | .exceptionEntry c what => Sys2Proof.Machine.execExceptionEntry c what s
  | .tableWalk c va kind ring => Sys2Proof.Machine.execTableWalk c va kind ring s
  | .timer c => Sys2Proof.Machine.execTimer c s
  | .timerArm rq c what value => Sys2Proof.Machine.execTimerArm rq c what value s
  | .softwareInterrupt rq value => Sys2Proof.Machine.execSoftwareInterrupt rq value s
  | .invpage rq c => Sys2Proof.Machine.execInvpage rq c s
  | .invall rq c => Sys2Proof.Machine.execInvall rq c s
  | .lineFill cache line => Sys2Proof.Machine.execLineFill cache line s
  | .storeAcknowledgement c => Sys2Proof.Machine.execStoreAcknowledgement c s
  | .cacheEnable rq target value => Sys2Proof.Machine.execCacheEnable rq target value s
  | .rangeOperation rq c value => Sys2Proof.Machine.execRangeOperation rq c value s
  | .rangeComplete c => Sys2Proof.Machine.execRangeComplete c s
  | .counterSignal index => Sys2Proof.Machine.execCounterSignal index s
  | .waitComplete index => Sys2Proof.Machine.execWaitComplete index s
  | .contextNotice node ctx => Sys2Proof.Machine.execContextNotice node ctx s
  | .localNodeArrival index => Sys2Proof.Machine.execLocalNodeArrival index s
  | .dieNodeArrival index => Sys2Proof.Machine.execDieNodeArrival index s
  | .barrierArrival link bar lost => Sys2Proof.Machine.execBarrierArrival link bar lost s
  | .barrierRelease bar lost => Sys2Proof.Machine.execBarrierRelease bar lost s
  | .handSetting rq value => Sys2Proof.Machine.execHandSetting rq value s
  | .translationWrite rq value => Sys2Proof.Machine.execTranslationWrite rq value s
  | .refreshDue slice => Sys2Proof.Machine.execRefreshDue slice s
  | .refreshOperation slice => Sys2Proof.Machine.execRefreshOperation slice s
  | .scrub slice => Sys2Proof.Machine.execScrub slice s
  | .training slice failed => Sys2Proof.Machine.execTraining slice failed s
  | .selfRefreshExit slice failed retrain => Sys2Proof.Machine.execSelfRefreshExit slice failed retrain s
  | .flitSend port what => Sys2Proof.Machine.execFlitSend port what s
  | .flitReceive port words index => Sys2Proof.Machine.execFlitReceive port words index s
  | .laserFailover wave => Sys2Proof.Machine.execLaserFailover wave s
  | .narrow port bad => Sys2Proof.Machine.execNarrow port bad s
  | .widthChange port => Sys2Proof.Machine.execWidthChange port s
  | .leaveService port cause => Sys2Proof.Machine.execLeaveService port cause s
  | .retrain rq port => Sys2Proof.Machine.execRetrain rq port s
  | .portTraining port stage => Sys2Proof.Machine.execPortTraining port stage s
  | .linkLost link => Sys2Proof.Machine.execLinkLost link s
  | .hubLookup index => Sys2Proof.Machine.execHubLookup index s
  | .heartbeat port => Sys2Proof.Machine.execHeartbeat port s
  | .nonce port value => Sys2Proof.Machine.execNonce port value s
  | .reportPart port part data => Sys2Proof.Machine.execReportPart port part data s
  | .verdict port accepted => Sys2Proof.Machine.execVerdict port accepted s
  | .notReady port => Sys2Proof.Machine.execNotReady port s
  | .attestationTimeout port => Sys2Proof.Machine.execAttestationTimeout port s
  | .epochReport port epoch => Sys2Proof.Machine.execEpochReport port epoch s
  | .epochNotice port epoch => Sys2Proof.Machine.execEpochNotice port epoch s
  | .arm rq => Sys2Proof.Machine.execArm rq s
  | .go rq => Sys2Proof.Machine.execGo rq s
  | .routeTableWrite rq value => Sys2Proof.Machine.execRouteTableWrite rq value s
  | .drainEnd => Sys2Proof.Machine.execDrainEnd s
  | .configurationRequest port func what => Sys2Proof.Machine.execConfigurationRequest port func what s
  | .bar0Access port func offset req => Sys2Proof.Machine.execBar0Access port func offset req s
  | .hostWrite port func bar offset data be ro poison => Sys2Proof.Machine.execHostWrite port func bar offset data be ro poison s
  | .hostRead port func bar offset len be => Sys2Proof.Machine.execHostRead port func bar offset len be s
  | .hostWindowWrite port => Sys2Proof.Machine.execHostWindowWrite port s
  | .hostCompletion port tag status data => Sys2Proof.Machine.execHostCompletion port tag status data s
  | .completionTimeout port tag => Sys2Proof.Machine.execCompletionTimeout port tag s
  | .portLost port => Sys2Proof.Machine.execPortLost port s
  | .hostHeartbeat rq port value => Sys2Proof.Machine.execHostHeartbeat rq port value s
  | .perstN port => Sys2Proof.Machine.execPerstN port s
  | .hotReset port => Sys2Proof.Machine.execHotReset port s
  | .linkDisable port => Sys2Proof.Machine.execLinkDisable port s
  | .flr port func => Sys2Proof.Machine.execFlr port func s
  | .linkUp port speed width => Sys2Proof.Machine.execLinkUp port speed width s
  | .beginWrite rq => Sys2Proof.Machine.execBeginWrite rq s
  | .chunk rq => Sys2Proof.Machine.execChunk rq s
  | .dramchunk rq => Sys2Proof.Machine.execDramchunk rq s
  | .commit rq => Sys2Proof.Machine.execCommit rq s
  | .enrol rq => Sys2Proof.Machine.execEnrol rq s
  | .transfer rq => Sys2Proof.Machine.execTransfer rq s
  | .attest rq => Sys2Proof.Machine.execAttest rq s
  | .extend rq => Sys2Proof.Machine.execExtend rq s
  | .unlock rq => Sys2Proof.Machine.execUnlock rq s
  | .lock rq => Sys2Proof.Machine.execLock rq s
  | .abort rq => Sys2Proof.Machine.execAbort rq s
  | .operationComplete => Sys2Proof.Machine.execOperationComplete s
  | .serviceLevel0 seed => Sys2Proof.Machine.execServiceLevel0 seed s
  | .selectAndLoad => Sys2Proof.Machine.execSelectAndLoad s
  | .serviceLevel2 => Sys2Proof.Machine.execServiceLevel2 s
  | .serviceLevel3 => Sys2Proof.Machine.execServiceLevel3 s
  | .railStart => Sys2Proof.Machine.execRailStart s
  | .vinLow => Sys2Proof.Machine.execVinLow s
  | .vaonPresent => Sys2Proof.Machine.execVaonPresent s
  | .pwrEnDeassert => Sys2Proof.Machine.execPwrEnDeassert s
  | .telemetry vin pin rails => Sys2Proof.Machine.execTelemetry vin pin rails s
  | .controlTick est => Sys2Proof.Machine.execControlTick est s
  | .activityStep => Sys2Proof.Machine.execActivityStep s
  | .testStrip measured => Sys2Proof.Machine.execTestStrip measured s
  | .capmiss => Sys2Proof.Machine.execCapmiss s
  | .capWrite rq value => Sys2Proof.Machine.execCapWrite rq value s
  | .getPower via inst => Sys2Proof.Machine.execGetPower via inst s
  | .setCap via inst cap => Sys2Proof.Machine.execSetCap via inst cap s
  | .readReg via inst addr => Sys2Proof.Machine.execReadReg via inst addr s
  | .writeReg via inst addr value => Sys2Proof.Machine.execWriteReg via inst addr value s
  | .getEvents via inst => Sys2Proof.Machine.execGetEvents via inst s
  | .setEndpointId via eid => Sys2Proof.Machine.execSetEndpointId via eid s
  | .getEndpointId via => Sys2Proof.Machine.execGetEndpointId via s
  | .getMctpVersionSupport via => Sys2Proof.Machine.execGetMctpVersionSupport via s
  | .getMessageTypeSupport via => Sys2Proof.Machine.execGetMessageTypeSupport via s
  | .getVendorDefinedSupport via => Sys2Proof.Machine.execGetVendorDefinedSupport via s
  | .dipHold minv => Sys2Proof.Machine.execDipHold minv s
  | .dipHoldEnd => Sys2Proof.Machine.execDipHoldEnd s
  | .temperatureSample junctions layers => Sys2Proof.Machine.execTemperatureSample junctions layers s
  | .thermalHoldEnd => Sys2Proof.Machine.execThermalHoldEnd s
  | .densitometer slack => Sys2Proof.Machine.execDensitometer slack s
  | .run rq => Sys2Proof.Machine.execRun rq s
  | .densitometerStep cluster slack => Sys2Proof.Machine.execDensitometerStep cluster slack s
  | .warm rq => Sys2Proof.Machine.execWarm rq s
  | .cold rq => Sys2Proof.Machine.execCold rq s
  | .standby rq => Sys2Proof.Machine.execStandby rq s
  | .wake rq => Sys2Proof.Machine.execWake rq s
  | .clearret rq => Sys2Proof.Machine.execClearret rq s
  | .mrstNAssert => Sys2Proof.Machine.execMrstNAssert s
  | .warmReset => Sys2Proof.Machine.execWarmReset s
  | .lockupDelay => Sys2Proof.Machine.execLockupDelay s
  | .stroke rq value => Sys2Proof.Machine.execStroke rq value s
  | .slwarn => Sys2Proof.Machine.execSlwarn s
  | .safelightExpiry => Sys2Proof.Machine.execSafelightExpiry s
  | .alertResponse => Sys2Proof.Machine.execAlertResponse s
  | .mrstNDeassert => Sys2Proof.Machine.execMrstNDeassert s
  | .perstNDeassert port => Sys2Proof.Machine.execPerstNDeassert port s
  | .dataLinkLayerDown port => Sys2Proof.Machine.execDataLinkLayerDown port s
  | .vaonLoss => Sys2Proof.Machine.execVaonLoss s
  | .notReadyNotice port => Sys2Proof.Machine.execNotReadyNotice port s
  | .sliceSlot slice => Sys2Proof.Machine.execSliceSlot slice s

end Sys2Proof.Machine
end

