-- ==== Sys2Proof/Machine/Tick.lean ====
section
/-! DEFINITION. What happens by itself as time passes: the management reference clock counts (R452), requests that a
port has accepted leave it, in order (R371), and requests of a host that have waited for its earlier posted writes are
served (R372). -/

namespace Sys2Proof.Machine

/-- One microsecond passes. -/
def State.tick (s : State) : State :=
  let s := ({ s with clock := s.clock + 1 }.portDrains 0).portDrains 1
  (s.serveWaiting 0).serveWaiting 1

end Sys2Proof.Machine
end

