-- ==== Sys2Proof/Safety.lean ====
section
/-! DEFINITION. What counts as a safe step, and the invariant of the machine: what the spec says of registers, buffers,
counters and times in every state. -/

namespace Sys2Proof

/-- A step from a state answers a next state: the device has no command that ends its run. -/
def stepsOn (s : Machine.State) : Prop := ∃ t, Machine.step s = .next t

namespace Machine

/-- What holds of a core in every state: the reserved bits of its registers read 0 (R215, R242, R246, R253, R289), its
TLB has 64 entries (R257) and its store buffer eight (R268). -/
structure CoreOk (x : Core) : Prop where
  st     : x.st.toNat / 16 % 128 = 0
  vbase  : x.vbase.toNat % 256 = 0
  tsr    : x.tsr.toNat % 64 = 0
  ttbase : x.ttbase.toNat % 32768 = 0
  sync   : x.syncctx.toNat / 4096 % 8 = 0
  tlb    : x.tlb.length ≤ 64
  stores : x.stores.length ≤ 8

/-- The canonical form of a memory whose unlisted bytes read 0. -/
abbrev Memory.wf (m : SMap Byte) : Prop := wfMap (fun _ => (0 : Byte)) m = true

/-- What holds in every state. -/
structure State.Inv (s : State) : Prop where
  /-- Every core is as CoreOk says. -/
  cores    : ∀ c, CoreOk (s.core c)
  /-- DRAM, SRAM and the scratchpads keep their canonical form. -/
  dram     : Memory.wf s.dram
  sram     : Memory.wf s.sram
  sp       : ∀ k, Memory.wf (s.spOf k).mem
  /-- A counter stops at its largest value (R284, R285). -/
  counters : ∀ p, (s.ctr p).count ≤ maxCount
  /-- The service level is 0 to 3 (R395). -/
  level    : s.level ≤ 3
  /-- The latest power-on reset is a reset, and no reset lies in the future. -/
  resets   : s.powerOnAt ≤ s.resetAt
  now      : s.resetAt ≤ s.clock

end Machine

end Sys2Proof
end

