-- ==== Sys2Proof/Certificates/Slice0/Terms.lean ====
section
/-! DEFINITION. The terms of the statements: formulas of the rules, written apart from the meanings. -/

namespace Sys2Proof.Machine

/-! ### Jexvik-16: the results and flags of R223 to R228 over bit vectors -/

/-- N and Z of a result, with a carry and an overflow (R215). -/
def nzcvOf {w : Nat} (r : BitVec w) (c v : Bool) : Nzcv := ⟨r.msb, r == 0, c, v⟩

/-- The result and the flags of a function of R223 on operands of w bits, with shift count k and the flags f before
it. -/
def aluSpec {w : Nat} (fn : AluFn) (a b : BitVec w) (k : Nat) (f : Nzcv) : BitVec w × Nzcv :=
  let sum (cin : Nat) : BitVec w × Nzcv :=
    let r := a + b + BitVec.ofNat w cin
    (r, nzcvOf r (decide (2 ^ w ≤ a.toNat + b.toNat + cin)) (decide (r.toInt ≠ a.toInt + b.toInt + cin)))
  let difference (bin : Nat) : BitVec w × Nzcv :=
    let r := a - b - BitVec.ofNat w bin
    (r, nzcvOf r (decide (a.toNat < b.toNat + bin)) (decide (r.toInt ≠ a.toInt - b.toInt - bin)))
  let plain (r : BitVec w) (c : Bool) : BitVec w × Nzcv := (r, nzcvOf r c false)
  match fn with
  | .mov => (b, f)
  | .add => sum 0
  | .adc => sum (if f.c then 1 else 0)
  | .sub => difference 0
  | .sbc => difference (if f.c then 1 else 0)
  | .cmp => difference 0
  | .and => plain (a &&& b) false
  | .or => plain (a ||| b) false
  | .xor => plain (a ^^^ b) false
  | .tst => plain (a &&& b) false
  | .shl => plain (a <<< k) (decide (k ≠ 0 ∧ k ≤ w) && a.getLsbD (w - k))
  | .shr => plain (a >>> k) (decide (k ≠ 0) && a.getLsbD (k - 1))
  | .sar => plain (a.sshiftRight k) (decide (k ≠ 0) && a.getLsbD (min (k - 1) (w - 1)))
  | .rol => plain (a.rotateLeft k) (decide (k % w ≠ 0) && (a.rotateLeft k).getLsbD 0)
  | .mull => plain (a * b) false
  | .mulhu => plain (BitVec.ofNat w (a.toNat * b.toNat / 2 ^ w)) false

/-- A core after an ALU instruction of n words: gD, the flags and PC. -/
def aluEnds (x : Core) (n d : Nat) (fn : AluFn) (r : Half × Nzcv) : Core :=
  { x with
    g := if fn = .cmp ∨ fn = .tst then x.g else put 0 x.g d r.1
    st := r.2.into x.st
    pc := x.pc + BitVec.ofNat 48 n }

/-- The commands of group 0x1 with their functions. -/
def aluRegisterForms (c : CoreId) (rd rs : BitVec 4) : List (Instr × AluFn) :=
  [(.mov c rd rs, .mov), (.add c rd rs, .add), (.adc c rd rs, .adc), (.sub c rd rs, .sub), (.sbc c rd rs, .sbc),
   (.cmp c rd rs, .cmp), (.and c rd rs, .and), (.or c rd rs, .or), (.xor c rd rs, .xor), (.tst c rd rs, .tst),
   (.shl c rd rs, .shl), (.shr c rd rs, .shr), (.sar c rd rs, .sar), (.rol c rd rs, .rol), (.mull c rd rs, .mull),
   (.mulhu c rd rs, .mulhu)]

/-- The commands of group 0x2 with their functions. -/
def aluImmediateForms (c : CoreId) (rd : BitVec 4) (imm : Half) : List (Instr × AluFn) :=
  [(.movi c rd imm, .mov), (.addi c rd imm, .add), (.adci c rd imm, .adc), (.subi c rd imm, .sub),
   (.sbci c rd imm, .sbc), (.cmpi c rd imm, .cmp), (.andi c rd imm, .and), (.ori c rd imm, .or),
   (.xori c rd imm, .xor), (.tsti c rd imm, .tst), (.shlImmediate c rd imm, .shl), (.shrImmediate c rd imm, .shr),
   (.sarImmediate c rd imm, .sar), (.rolImmediate c rd imm, .rol), (.mulli c rd imm, .mull),
   (.mulhui c rd imm, .mulhu)]

/-- The commands of group 0x5 but CLZ and POPC, with their results on gD (R224). -/
def unaryForms (c : CoreId) (rd n : BitVec 4) (f : Nzcv) : List (Instr × (Half → Half × Nzcv)) :=
  let plain (r : Half) : Half × Nzcv := (r, nzcvOf r false false)
  [(.not c rd, fun a => plain (~~~a)), (.neg c rd, fun a => aluSpec .sub 0 a 0 f),
   (.swapb c rd, fun a => plain (a.rotateLeft 8)), (.zxb c rd, fun a => plain (a &&& 0xFF)),
   (.sxb c rd, fun a => plain ((a.setWidth 8).signExtend 16)), (.shli c rd n, fun a => aluSpec .shl a 0 n.toNat f),
   (.shri c rd n, fun a => aluSpec .shr a 0 n.toNat f), (.sari c rd n, fun a => aluSpec .sar a 0 n.toNat f),
   (.roli c rd n, fun a => aluSpec .rol a 0 n.toNat f)]

/-- The commands of group 0xB that are functions of R223 on pairs or quads, with their functions (R228). -/
def longForms (c : CoreId) (w : Bool) (rd rs : BitVec 3) : List (Instr × AluFn) :=
  [(.lmov c w rd rs, .mov), (.ladd c w rd rs, .add), (.lsub c w rd rs, .sub), (.lcmp c w rd rs, .cmp),
   (.land c w rd rs, .and), (.lor c w rd rs, .or), (.lxor c w rd rs, .xor), (.lshl c w rd rs, .shl),
   (.lshr c w rd rs, .shr), (.lsar c w rd rs, .sar), (.lmulu c w rd rs, .mull), (.lmulhu c w rd rs, .mulhu)]

/-- The pair or quad whose index is n, as a bit vector (R216). -/
def longAt (x : Core) (words n : Nat) : BitVec (16 * words) := BitVec.ofNat (16 * words) (x.grs (words * n) words)

/-- A core after a long instruction. -/
def longEnds (x : Core) (words d : Nat) (write : Bool) (r : BitVec (16 * words) × Nzcv) : Core :=
  let y := if write then x.setGrs (words * d) words r.1.toNat else x
  { y with st := r.2.into x.st, pc := x.pc + 1 }

/-- Whether a condition of R227 holds. -/
def condSpec (f : Nzcv) : Nat → Bool
  | 0x0 => f.z
  | 0x8 => !f.z
  | 0x1 => f.c
  | 0x9 => !f.c
  | 0x2 => f.n
  | 0xA => !f.n
  | 0x3 => f.v
  | 0xB => !f.v
  | 0x4 => f.c || f.z
  | 0xC => !f.c && !f.z
  | 0x5 => f.n != f.v
  | 0xD => f.n == f.v
  | 0x6 => f.z || f.n != f.v
  | 0xE => !f.z && f.n == f.v
  | 0x7 => true
  | _ => false

/-- The effective address of a load or a store, and the value that aB takes (R226). -/
def eaSpec (mode : BitVec 2) (b : Addr) (disp : Half) : Addr × Addr :=
  let sum := b + disp.signExtend 48
  if mode = 0 then (b, b) else if mode = 1 then (sum, b) else if mode = 2 then (sum, sum) else (b, sum)

/-! ### Loads, stores and the system group -/

/-- The words of a load or a store (R218). -/
def memWordsOf (mode : BitVec 2) : Nat := if mode = 0 then 1 else 2

/-- The effective address (R226). -/
def eaOf (x : Core) (mode : BitVec 2) (rb : BitVec 3) (disp : Half) : Addr :=
  if mode = 1 ∨ mode = 2 then get 0 x.a rb.toNat + disp.signExtend 48 else get 0 x.a rb.toNat

/-- A core with aB updated as MODE says, past the instruction (R226). -/
def pastAccess (x : Core) (mode : BitVec 2) (rb : BitVec 3) (disp : Half) : Core :=
  { x with
    a := if mode = 2 ∨ mode = 3 then put 0 x.a rb.toNat (get 0 x.a rb.toNat + disp.signExtend 48) else x.a
    pc := x.pc + BitVec.ofNat 48 (memWordsOf mode) }

/-- The 48-bit number of three words, least significant first (R217). -/
def threeWords (ws : List Half) (n : Nat) : Addr := ws.getD (n + 2) 0 ++ ws.getD (n + 1) 0 ++ ws.getD n 0

/-- The three words of a 48-bit number. -/
def splitAddr (a : Addr) : List Half := [a.extractLsb' 0 16, a.extractLsb' 16 16, a.extractLsb' 32 16]

/-- A status word of a ring, a mask level and flags: the reserved bits are 0 (R215). -/
def stOf (ring : BitVec 2) (mask : BitVec 3) (flags : BitVec 4) : Half := ring ++ mask ++ (0 : BitVec 7) ++ flags

/-- The flags, mask level and ring of a status word (R215). -/
def flagsOf (st : Half) : BitVec 4 := st.extractLsb' 0 4
def maskOfSt (st : Half) : BitVec 3 := st.extractLsb' 11 3
def ringOfSt (st : Half) : BitVec 2 := st.extractLsb' 14 2

/-- A 16-bit special register, by number (R222). -/
def narrowSpr (x : Core) (c : Nat) (dev : Half) : Nat → Option Half
  | 0x00 => some x.st
  | 0x03 => some x.wres
  | 0x04 => some (BitVec.ofNat 16 c)
  | 0x05 => some dev
  | 0x0C => some x.syncctx
  | _ => none

/-- A 48-bit special register, by number (R222). -/
def wideSpr (x : Core) : Nat → Option Addr
  | 0x01 => some x.lk
  | 0x02 => some x.pc
  | 0x08 => some x.vbase
  | 0x09 => some x.tsr
  | 0x0A => some x.gtbase
  | 0x0B => some x.ttbase
  | _ => none

/-- The special registers that only ring 0 reaches (R222). -/
def ring0Spr (n : Nat) : Prop := 0x08 ≤ n ∧ n ≤ 0x0C

/-- From x to y a core keeps every register that its instructions name, its buffered stores and its outstanding
accesses. -/
structure SameRegs (x y : Core) : Prop where
  g         : y.g = x.g
  a         : y.a = x.a
  lk        : y.lk = x.lk
  pc        : y.pc = x.pc
  st        : y.st = x.st
  wres      : y.wres = x.wres
  vbase     : y.vbase = x.vbase
  tsr       : y.tsr = x.tsr
  gtbase    : y.gtbase = x.gtbase
  ttbase    : y.ttbase = x.ttbase
  syncctx   : y.syncctx = x.syncctx
  waiting   : y.waiting = x.waiting
  locked    : y.locked = x.locked
  stores    : y.stores = x.stores
  hostLoads : y.hostLoads = x.hostLoads

/-- From s to t no core register and no byte of memory changes, nor an engine, a DMA channel, an aperture, a counter or a
context. -/
structure Quiet (s t : State) : Prop where
  cores : ∀ k, SameRegs (s.core k) (t.core k)
  dram  : t.dram = s.dram
  sram  : t.sram = s.sram
  mem   : ∀ k, (t.spOf k).mem = (s.spOf k).mem
  aps   : ∀ k, (t.spOf k).aps = (s.spOf k).aps
  mx    : t.mx = s.mx
  vx    : t.vx = s.vx
  dm    : t.dm = s.dm
  sync  : t.sync = s.sync
  ctx   : t.ctx = s.ctx

/-! ### Register accesses -/

/-- The local address of an offset of a register block (R10, R460). -/
def regAddr (blk off : Nat) : Nat := 0x600000000000 + blk * 0x1000000 + off

/-- A register write that is carried out is acknowledged to its requester. -/
def acked (rq : Requester) (blk off : Nat) (t : State) : Host.Outcome State Fault Refusal :=
  .next { t with out := .regAck rq (regAddr blk off) :: t.out }

/-- A register write that is refused: an access error with cause 1, and nothing else. -/
def denied (rq : Requester) (blk off : Nat) (s : State) : Host.Outcome State Fault Refusal :=
  .next { s with out := .accessError rq (regAddr blk off) 1 :: s.out }

/-- The commands that are 32-bit writes of one register, with the block, the offset and the value written. -/
def registerCommand (rq : Requester) (c : CoreId) (k : CcId) (ap : Fin 16) (ch : ChanId) (m : PortId)
    (v : BitVec 32) (i : Instr) (blk off w : Nat) : Prop :=
  (i, blk, off, w) ∈
  [(Instr.timerArm rq c .ctrl v, 10, c.val * 0x100 + 0x20, v.toNat), (Instr.timerArm rq c .tcmpLo v, 10, c.val * 0x100 + 0x24, v.toNat),
   (Instr.timerArm rq c .tcmpHi v, 10, c.val * 0x100 + 0x28, v.toNat), (Instr.softwareInterrupt rq v, 10, 0x80008, v.toNat),
   (Instr.invpage rq c, 11, c.val * 0x100, 2), (Instr.invall rq c, 11, c.val * 0x100, 1),
   (Instr.cacheEnable rq (.core c) v, 12, c.val * 0x100, v.toNat), (Instr.cacheEnable rq .l2 v, 12, 0x80000, v.toNat),
   (Instr.rangeOperation rq c v, 12, c.val * 0x100 + 0x14, v.toNat), (Instr.handSetting rq v, 5, 8, v.toNat),
   (Instr.translationWrite rq v, 5, 0x14, v.toNat), (Instr.mxAbandon rq k, 14, k.val * 0x100 + 4, 1),
   (Instr.mxSave rq k, 14, k.val * 0x100 + 4, 2), (Instr.mxRestore rq k, 14, k.val * 0x100 + 4, 4),
   (Instr.vxAbandon rq k, 15, k.val * 0x100 + 4, 1), (Instr.vxSave rq k, 15, k.val * 0x100 + 4, 2),
   (Instr.vxRestore rq k, 15, k.val * 0x100 + 4, 4), (Instr.apertureOpen rq k ap v, 13, k.val * 0x800 + 0x210 + 0x20 * ap.val, v.toNat),
   (Instr.apertureClose rq k ap v, 13, k.val * 0x800 + 0x210 + 0x20 * ap.val, v.toNat),
   (Instr.spRelease rq k v, 13, k.val * 0x800 + 0x40, v.toNat), (Instr.dmResume rq k ch, 16, k.val * 0x100 + 4, 4 * (ch.val + 1)),
   (Instr.dmAbandon rq k ch, 16, k.val * 0x100 + 4, ch.val + 1), (Instr.pop rq, 6, 0, 1),
   (Instr.retrain rq m, 8, 0x200 + 0x20 * m.val, 1), (Instr.arm rq, 8, 8, 2), (Instr.go rq, 8, 8, 1),
   (Instr.routeTableWrite rq v, 8, 0x24, v.toNat), (Instr.capWrite rq v, 3, 4, v.toNat), (Instr.run rq, 3, 0x2C, 0x40000000),
   (Instr.stroke rq v, 2, 8, v.toNat), (Instr.warm rq, 2, 4, 1), (Instr.cold rq, 2, 4, 2), (Instr.standby rq, 2, 4, 3),
   (Instr.wake rq, 2, 4, 4), (Instr.clearret rq, 2, 4, 5), (Instr.beginWrite rq, 1, 4, 1), (Instr.chunk rq, 1, 4, 2),
   (Instr.dramchunk rq, 1, 4, 3), (Instr.commit rq, 1, 4, 4), (Instr.enrol rq, 1, 4, 5), (Instr.transfer rq, 1, 4, 6),
   (Instr.attest rq, 1, 4, 7), (Instr.extend rq, 1, 4, 8), (Instr.unlock rq, 1, 4, 9), (Instr.lock rq, 1, 4, 10), (Instr.abort rq, 1, 4, 11)]

/-- Bit i of a register after a write of the addressed halves, by the access codes alone (R3, R5). -/
def bitWritten (r : RegId) (old v : Nat) (lo hi : Bool) (i : Nat) : Bool :=
  let addressed := if i < 16 then lo else hi
  if addressed && (accMask r .rw).testBit i && !(accMask r .w1c).testBit i then v.testBit i
  else if addressed && (accMask r .w1c).testBit i then
    (if (accMask r .rw).testBit i then false else old.testBit i && !v.testBit i)
  else old.testBit i

/-- The value that those bits make. -/
def plainWritten (r : RegId) (old v : Nat) (lo hi : Bool) : Nat :=
  (((List.range 32).filter fun i => bitWritten r old v lo hi i).map fun i => 2 ^ i).sum

/-- The fields whose tables bound their values: register, high bit, low bit, and the values that the field takes; any other
value leaves the field as it was (R4). -/
def boundedFields : List (RegId × Nat × Nat × (Nat → Bool)) :=
  [(.spTimeout, 19, 0, fun x => x != 0), (.dmTimeout, 19, 0, fun x => x != 0), (.msStallLimit, 19, 0, fun x => x != 0),
   (.cxGather, 9, 0, fun x => decide (x ≤ 1000)), (.cxMaprt, 15, 0, fun x => x != 0),
   (.drScrubper, 7, 0, fun x => decide (1 ≤ x ∧ x ≤ 168)), (.pxHlost, 15, 0, fun x => x != 0),
   (.rsLockdly, 15, 0, fun x => x != 0), (.olTimers, 31, 16, fun x => x != 0), (.olTimers, 15, 0, fun x => x != 0),
   (.pxHwCtl, 4, 0, fun x => decide (x ≤ 16)), (.msPeekSel, 29, 28, fun x => x != 3)]

/-- An event that is pending on a core. -/
def pends (s : State) (c vec src : Nat) : Prop := ∃ e ∈ (s.core c).pend, e.vec = vec ∧ e.src = src

/-- Nothing but the cores differs, and of the cores none but c. -/
def onlyCore (c : Nat) (s t : State) : Prop := { t with cores := s.cores } = s ∧ ∀ k, k ≠ c → t.core k = s.core k

/-- An event is pending on a core; one of the same vector and source merges into the earlier one (R243). -/
def raised (s : State) (c vec src cause : Nat) : State :=
  let x := s.core c
  s.setCore c (if x.pend.any (fun e => e.vec == vec && e.src == src) then x
    else { x with pend := x.pend ++ [⟨vec, src, cause, 0⟩] })

/-! ### Counters -/

/-- The pending waits of a counter examined in registration order (R286, R287): the count that is left, the waits that
stay, and those that complete. A frozen wait never completes (R295). -/
def examined : Nat → List WaitReg → Nat × List WaitReg × List WaitReg
  | n, [] => (n, [], [])
  | n, w :: r =>
    if w.frozen = false ∧ w.amount ≤ n then
      let q := examined (n - w.amount) r
      (q.1, q.2.1, w :: q.2.2)
    else
      let q := examined n r
      (q.1, w :: q.2.1, q.2.2)

/-- The synchronisation state after the count of a counter has become n: its waits are examined, and a completion is sent
for each that completes, with status 1 when the counter is lost (R287, R294). -/
def Settled (s t : State) (p n : Nat) (lost : Bool) : Prop :=
  let q := examined n (s.ctr p).waits
  (t.ctr p).count = q.1 ∧ (t.ctr p).waits = q.2.1 ∧ (t.ctr p).lost = lost ∧ (t.ctr p).home = (s.ctr p).home ∧
  t.sync.wakes = s.sync.wakes ++ q.2.2.map (fun w => ⟨w.who, if lost then 1 else 0, p⟩) ∧
  ∀ m, m ≠ p → t.ctr m = s.ctr m

/-! ### The vector engine -/

/-- Nothing but the vector engine of core k differs. -/
def onlyVx (k : Nat) (s t : State) : Prop := { t with vx := s.vx } = s ∧ ∀ j, j ≠ k → t.vxOf j = s.vxOf j

/-- Recorded progress moves with the queue as the head command leaves it. -/
def progressLeft (x : Vx) : Option Progress :=
  x.progress.bind fun p => if p.pidx = 0 then none else some { p with pidx := p.pidx - 1 }

/-- c is the head of a vector queue that is neither held nor being restored, and breaks no check. -/
def vxHead (s : State) (k : Nat) (c : EngineCmd) (r : List EngineCmd) : Prop :=
  (s.vxOf k).queue = c :: r ∧ (s.vxOf k).held = false ∧ (∀ j, (s.vxOf k).saving = some j → j.restore = false) ∧
  vxCheck c = 0

/-- No page of a list lies outside the core's own scratchpad, and every piece lies in pages of it. -/
def ownPieces (pt : List (Nat × PageIs)) (ps : List (Nat × Nat)) : Prop :=
  (∀ e ∈ pt, e.2 ≠ PageIs.outside) ∧ ∀ p ∈ ps, ∀ q ∈ cutPages p.1 p.2, ∃ o, placeByte pt q.1 = PageIs.own o

/-- The spans of a head command translate, at state t, to pages of the core's own scratchpad that are free of slots and of
other commands and hold no bad granule. -/
def vxSpans (s : State) (k : Nat) (c : EngineCmd) (rd wr : List (Nat × PageIs)) (t : State) : Prop :=
  s.vxPages k c = (some (rd, wr), t) ∧
  ownPieces rd (vxReadPieces c) ∧ ownPieces wr (vxWritePieces c) ∧
  t.slotsFull k (rowsRect rd (vxReadPieces c)).toList = true ∧
  t.sbAdmits k (rowsRect rd (vxReadPieces c)).toList (rowsRect wr (vxWritePieces c)) = true ∧
  (t.spOf k).code = []

/-- The byte of the scratchpad at a virtual byte address. -/
def spByte (t : State) (k : Nat) (pt : List (Nat × PageIs)) (v : Nat) : Byte :=
  match placeByte pt v with
  | .own o => get 0 (t.spOf k).mem o
  | _ => 0

/-- The 256 bytes of a chunk. -/
def chunkBytes (t : State) (k : Nat) (pt : List (Nat × PageIs)) (v : Nat) : List Byte :=
  (span v 256).map (spByte t k pt)

/-- The first chunk of a head command: the recorded one of a stopped command of several chunks. -/
def vxFirst (x : Vx) (c : EngineCmd) : Nat :=
  match x.progress with
  | some p => if p.pidx = 0 ∧ 1 < vxChunks c then p.chunk else 0
  | none => 0

/-- An exact integer result, saturated to a format, and whether it saturated. -/
def intoFmt (f : Fmt) (v : Int) : Nat × Bool :=
  let top : Int := (2 ^ (fmtBits f - 1) : Nat)
  (wrapTo (fmtBits f) (max (-top) (min (top - 1) v)), decide (v < -top ∨ top ≤ v))

/-- The element-wise commands: command, FUNC, and the result of an element with whether it saturated. -/
def vopForms (k : CcId) (f : Fmt) (a b c : Nat) : List (Instr × Nat × (Nat × Bool)) :=
  let n := fmtBits f
  let A := signedOf n a
  let B := signedOf n b
  let C := signedOf n c
  let a' := decodeExact f a
  let b' := decodeExact f b
  let c' := decodeExact f c
  let pick (i : Int) (fl : Num) : Nat × Bool := if isInt f then intoFmt f i else (encodeNum f .nearest fl, false)
  let yes (p : Bool) : Nat × Bool := (if p then 2 ^ n - 1 else 0, false)
  let neg := a / 2 ^ (n - 1) % 2
  [(.vopAdd k, 0x00, pick (A + B) (sumNum a' b')), (.vopSub k, 0x01, pick (A - B) (sumNum a' (negNum b'))),
   (.vopMul k, 0x02, pick (A * B) (mulNum a' b')), (.vopFma k, 0x03, pick (A * B + C) (sumNum (mulNum a' b') c')),
   (.vopMin k, 0x04, (numMin f a b, false)), (.vopMax k, 0x05, (numMax f a b, false)),
   (.vopAbs k, 0x06, if isInt f then intoFmt f A.natAbs else (a % 2 ^ (n - 1), false)),
   (.vopNeg k, 0x07, if isInt f then intoFmt f (-A) else (a % 2 ^ (n - 1) + (1 - neg) * 2 ^ (n - 1), false)),
   (.cpsgn k, 0x08, (a % 2 ^ (n - 1) + b / 2 ^ (n - 1) * 2 ^ (n - 1), false)),
   (.cmpeq k, 0x09, yes (numEqual f a b)), (.cmplt k, 0x0A, yes (numLess f a b)),
   (.cmple k, 0x0B, yes (numLess f a b || numEqual f a b)), (.cmpun k, 0x0C, yes (isNan f a || isNan f b)),
   (.sel k, 0x0D, (if c = 0 then b else a, false)), (.vopMov k, 0x0E, (a, false)), (.vopAnd k, 0x10, (a &&& b, false)),
   (.vopOr k, 0x11, (a ||| b, false)), (.vopXor k, 0x12, (a ^^^ b, false)),
   (.vopShl k, 0x13, ((a <<< (b % n)) % 2 ^ n, false)), (.vopShr k, 0x14, (wrapTo n (A / (2 ^ (b % n) : Nat)), false))]

/-- The tree of R86 over the lanes from j on, 2^d of them. -/
def laneTree {α : Type} (g : α → α → α) (l : Nat → α) : Nat → Nat → α
  | 0, j => l j
  | d + 1, j => g (laneTree g l d j) (laneTree g l d (j + 2 ^ d))

/-- A step of a sum over lanes, with whether one has saturated. -/
def sumLanes (f : Fmt) (a b : Nat × Bool) : Nat × Bool :=
  let r := if f = .i32 then intoFmt f (signedOf 32 a.1 + signedOf 32 b.1)
    else (encodeNum f .nearest (sumNum (decodeExact f a.1) (decodeExact f b.1)), false)
  (r.1, a.2 || b.2 || r.2)

/-- A fault register of an engine as a refused head command leaves it: VALID, CAUSE, OPCODE. -/
def faultWord (cause op : Nat) : Nat := 0x80000000 + cause * 0x8000000 + op * 0x400000

/-- The vector commands that issue a head. -/
def vectorCommands (k : CcId) : List Instr :=
  [.vopAdd k, .vopSub k, .vopMul k, .vopFma k, .vopMin k, .vopMax k, .vopAbs k, .vopNeg k, .cpsgn k, .cmpeq k, .cmplt k,
   .cmple k, .cmpun k, .sel k, .vopMov k, .vopAnd k, .vopOr k, .vopXor k, .vopShl k, .vopShr k, .vcvt k, .exp2 k, .log2 k,
   .rcp k, .rsqrt k, .vredSum k, .vredMax k, .vredMin k, .argmax k, .vbc k, .vld k, .vst k, .vstrm k, .vtopkS k,
   .vectorFault k]

/-- The matrix commands that issue a head. -/
def matrixCommands (k : CcId) : List Instr :=
  [.tcfg k, .tldR k, .tldC k, .tstR k, .tstC k, .mmaT k .clean, .mmaS k .clean, .azero k, .amovC k, .amovL k, .amovS k,
   .acvtS k, .acvtT k, .matrixFault k]

/-- A number is the lowest of the causes 1 to 4 that a command gives, or 0 where it gives none (R46, R78). -/
def lowestCause (gives : Nat → Prop) (n : Nat) : Prop :=
  (n = 0 → ∀ m, 1 ≤ m → m ≤ 4 → ¬gives m) ∧ (n ≠ 0 → n ≤ 4 ∧ gives n ∧ ∀ m, 1 ≤ m → m < n → ¬gives m)

/-- A command breaks the check of opcode, length and reserved fields against a table: per opcode the length in words and
the fields as word, high bit and low bit (R45, R78). Words 4 to 7 of a 4-word command have no fields. -/
def shapeBroken (table : List (Nat × Nat × List (Nat × Nat × Nat))) (c : EngineCmd) : Prop :=
  ∀ len fields, (c.opcode, len, fields) ∈ table →
    (c.w 0).testBit 10 ≠ decide (len = 8) ∨
    ∃ n < 8, ∃ b < 16, (c.w n).testBit b = true ∧ ¬(n = 0 ∧ 10 ≤ b) ∧ ∀ hi lo, (n, hi, lo) ∈ fields → ¬(lo ≤ b ∧ b ≤ hi)

/-- The three words of a virtual address, from word n (R48, R79). -/
def vaWords (n : Nat) : List (Nat × Nat × Nat) := [(n, 15, 0), (n + 1, 15, 0), (n + 2, 15, 0)]

/-- The vector commands and their fields (R78, R79); those of VBC depend on SRC. -/
def vectorFields (src : Bool) : List (Nat × Nat × List (Nat × Nat × Nat)) :=
  [(0x00, 4, [(0, 9, 6), (0, 5, 0), (1, 14, 10), (1, 9, 5), (1, 4, 0), (2, 4, 0)]),
   (0x01, 4, [(0, 9, 6), (1, 14, 10), (1, 9, 5), (2, 15, 12), (2, 3, 2), (2, 1, 0)]),
   (0x02, 4, [(0, 9, 6), (0, 5, 0), (1, 14, 10), (1, 9, 5)]), (0x03, 4, [(0, 9, 6), (0, 5, 0), (1, 14, 10), (1, 9, 5)]),
   (0x04, 4, (0, 9, 6) :: (0, 5, 5) :: (1, 14, 10) :: if src then [(2, 15, 0), (3, 15, 0)] else [(1, 9, 5), (2, 7, 0)]),
   (0x08, 8, [(0, 4, 0), (1, 14, 10), (1, 7, 0)] ++ vaWords 4), (0x09, 8, [(0, 4, 0), (1, 14, 10), (1, 7, 0)] ++ vaWords 4),
   (0x0C, 8, [(0, 9, 9), (0, 8, 7), (0, 6, 4), (0, 3, 1), (1, 14, 10), (1, 9, 5), (1, 4, 0), (2, 11, 0), (3, 13, 0)] ++ vaWords 4),
   (0x0D, 8, [(0, 9, 9), (0, 5, 0), (1, 14, 10), (2, 11, 0), (3, 15, 0), (7, 15, 0)] ++ vaWords 4)]

/-- The functions of VOP with the formats that they take (R77, R80). -/
def vopTakes (func : Nat) (f : Fmt) : Prop :=
  func ∈ [0, 1, 2, 3, 4, 5, 6, 7, 9, 0xA, 0xB, 0xD, 0xE] ∧ f ∈ [Fmt.f32, .f16, .bf16, .i32, .i16, .i8] ∨
  func ∈ [8, 0xC] ∧ f ∈ [Fmt.f32, .f16, .bf16] ∨ func ∈ [0x10, 0x11, 0x12, 0x13, 0x14] ∧ f ∈ [Fmt.i32, .i16, .i8]

/-- The pairs of formats that VCVT converts (R82). -/
def vcvtTakes (a b : Fmt) : Prop :=
  let floats : List Fmt := [.f32, .f16, .bf16]
  let ints : List Fmt := [.i32, .i16, .i8]
  let small : List Fmt := [.e4m3, .e5m2]
  a ∈ floats ∧ b ∈ floats ∨ a ∈ small ∧ b = .f32 ∨ a = .f32 ∧ b ∈ small ∨ a ∈ floats ∧ b ∈ ints ∨ a ∈ ints ∧ b = .f32 ∨
  a ∈ ints ∧ b ∈ ints ∨ a ∈ small ∧ a = b

/-- The causes whose check a vector command breaks at issue (R77–R83, R85, R86, R89, R90, R94). -/
def vectorBreaks (c : EngineCmd) (cause : Nat) : Prop :=
  let dest := fmtOfCode (bits (c.w 2) 15 12)
  match cause with
  | 1 => shapeBroken (vectorFields ((c.w 0).testBit 5)) c
  | 2 =>
    (c.opcode = 0x00 ∧ ∀ f, c.vfmt = some f → ¬vopTakes c.vfunc f) ∨
    (c.opcode = 0x01 ∧ ∀ a b, c.vfmt = some a → dest = some b → ¬vcvtTakes a b) ∨
    (c.opcode = 0x02 ∧ (c.vfmt ≠ some .f32 ∨ 3 < c.vfunc)) ∨
    (c.opcode = 0x03 ∧ (c.vfmt ≠ some .f32 ∧ c.vfmt ≠ some .i32 ∨ 3 < c.vfunc)) ∨
    (c.opcode = 0x04 ∧ ∀ f, c.vfmt = some f → f = .i4 ∨ f = .f4) ∨
    (c.opcode = 0x0C ∧ (bits (c.w 0) 6 4 = 7 ∨ 5 ≤ bits (c.w 0) 3 1))
  | 3 =>
    (c.opcode = 0x01 ∧ ∃ a b, c.vfmt = some a ∧ dest = some b ∧
      max (elemCount a) (elemCount b) / min (elemCount a) (elemCount b) ≤ bits (c.w 2) 3 2) ∨
    (c.opcode = 0x04 ∧ (c.w 0).testBit 5 = false ∧ ∃ f, c.vfmt = some f ∧ elemCount f ≤ bits (c.w 2) 7 0) ∨
    (c.opcode ∈ [0x08, 0x09] ∧ 32 < c.vd + (bits (c.w 0) 4 0 + 1)) ∨
    (c.opcode = 0x0C ∧ (c.vd = c.vfa ∨ c.vd = c.vfb)) ∨
    (c.opcode = 0x0D ∧ (30 < c.vd ∨
      0xFFFFFFFE < c.w 3 + 0x10000 * c.w 7 + 64 * (bits (c.w 2) 11 0 + 1) - 1))
  | _ => c.opcode ∈ [0x08, 0x09, 0x0C, 0x0D] ∧ (c.w 4).testBit 0 = true

/-- The matrix commands and their fields (R47, R48). -/
def matrixFields : List (Nat × Nat × List (Nat × Nat × Nat)) :=
  [(0x00, 4, [(1, 11, 8), (1, 7, 0), (2, 6, 0), (3, 6, 0)]),
   (0x01, 8, [(0, 2, 0), (1, 7, 0)] ++ vaWords 2), (0x02, 8, [(0, 2, 0), (1, 9, 8), (1, 7, 0)] ++ vaWords 2),
   (0x03, 8, [(0, 2, 0), (1, 7, 0)] ++ vaWords 2), (0x04, 8, [(0, 2, 0), (1, 9, 8), (1, 7, 0)] ++ vaWords 2),
   (0x08, 8, [(0, 9, 9), (0, 8, 8), (0, 7, 7), (0, 5, 4), (1, 15, 12), (1, 11, 8), (1, 7, 5), (1, 4, 2), (2, 15, 13), (2, 12, 10),
     (2, 7, 0), (3, 15, 8), (3, 7, 2), (4, 15, 10), (4, 9, 4)]),
   (0x09, 8, [(0, 9, 9), (0, 8, 8), (0, 7, 7), (0, 5, 4), (0, 3, 2), (1, 15, 12), (1, 11, 8), (1, 7, 5), (2, 15, 13), (2, 7, 0),
     (3, 15, 8), (3, 7, 0), (4, 15, 10)] ++ vaWords 5),
   (0x10, 4, [(0, 5, 4)]), (0x11, 4, [(0, 5, 4), (0, 1, 0)]),
   (0x12, 8, [(0, 5, 4), (1, 7, 0)] ++ vaWords 2), (0x13, 8, [(0, 5, 4), (1, 7, 0)] ++ vaWords 2),
   (0x14, 8, [(0, 9, 9), (0, 5, 4), (0, 3, 2), (1, 15, 12), (1, 7, 0)] ++ vaWords 2),
   (0x15, 4, [(0, 9, 9), (0, 5, 4), (0, 3, 2), (1, 15, 12), (1, 7, 5)])]

/-- The formats of an MMA that the roles, the block forms and the accumulator allow (R16, R18, R26, R35). -/
def mmaTakes (f : MmaFields) (a b : Fmt) : Prop :=
  let tile : List Fmt := [.e4m3, .e5m2, .f16, .bf16, .i8]
  a ∈ tile ∧ (f.s = false → b ∈ tile) ∧
  (f.s = true → f.form = 0 ∧ b ∈ tile ∨ f.form = 1 ∧ b ∈ [Fmt.i4, .f4] ∨ f.form = 2 ∧ b ∈ [Fmt.e4m3, .e5m2, .i8] ∨
    f.form = 3 ∧ b ∈ [Fmt.i4, .f4]) ∧
  (f.i32 = true → a = .i8 ∧ b ∈ [Fmt.i8, .i4] ∧ f.sae = false ∧ f.sbe = false)

/-- The targets of a convert-out (R18, R57). -/
def convertTakes (i32 toTile : Bool) (d : Fmt) : Prop :=
  d ∈ [Fmt.f32, .f16, .bf16, .e4m3, .e5m2, .i32, .i16, .i8] ∧ (i32 = true → d ∈ [Fmt.i32, .i16, .i8, .f32]) ∧
  (toTile = true → d ∈ [Fmt.e4m3, .e5m2, .f16, .bf16, .i8])

/-- The tile shapes that an MMA requires (R54, R55). -/
def mmaShapes (x : Mx) (f : MmaFields) (a b : Fmt) : Prop :=
  (x.tile f.ta).rows = 16 ∧ (f.aoff + f.len) * (fmtBits a / 8) ≤ (x.tile f.ta).rlen ∧
  (f.sae = true → f.sarow + f.groups ≤ (x.tile f.tsa).rows ∧ 16 ≤ (x.tile f.tsa).rlen) ∧
  (f.s = true → f.bstr = 0 ∨ f.rowsPerBlock b ≤ f.bstr) ∧
  (f.s = false → f.boff + f.len ≤ (x.tile f.tb).rows ∧ 64 * (fmtBits b / 8) ≤ (x.tile f.tb).rlen ∧
    (f.sbe = true → f.sbrow + f.groups ≤ (x.tile f.tsb).rows ∧ 64 ≤ (x.tile f.tsb).rlen))

/-- The causes whose check a matrix command breaks at issue (R45–R57, R66). -/
def matrixBreaks (x : Mx) (c : EngineCmd) (cause : Nat) : Prop :=
  let f := mmaFields c
  let dest := fmtOfCode (bits (c.w 1) 15 12)
  let i32 := (c.w 0).testBit 9
  let a := x.tile (bits (c.w 0) 2 0)
  let es := 2 ^ bits (c.w 1) 9 8
  let va := addrAt c.words (if c.opcode = 0x09 then 5 else 2)
  match cause with
  | 1 => shapeBroken matrixFields c
  | 2 =>
    (c.opcode ∈ [0x08, 0x09] ∧ ∀ a b, f.fa = some a → f.fb = some b → ¬mmaTakes f a b) ∨
    (c.opcode ∈ [0x14, 0x15] ∧ ∀ d, dest = some d → ¬convertTakes i32 (c.opcode == 0x15) d)
  | 3 =>
    (c.opcode = 0x00 ∧ bits (c.w 1) 7 0 ≠ 0 ∧
      ¬(1 ≤ c.w 2 ∧ c.w 2 ≤ 64 ∧ 1 ≤ c.w 3 ∧ c.w 3 ≤ 64 ∧ c.w 2 * (4 * c.w 3) ≤ 4096)) ∨
    (c.opcode ∈ [0x02, 0x04] ∧ (bits (c.w 1) 9 8 = 3 ∨ a.rlen % es ≠ 0)) ∨
    (c.opcode ∈ [0x08, 0x09] ∧ ∃ a b, f.fa = some a ∧ f.fb = some b ∧ mmaTakes f a b ∧ ¬mmaShapes x f a b) ∨
    (c.opcode = 0x15 ∧ ((x.tile (bits (c.w 1) 7 5)).rows < 16 ∨
      ∃ d, dest = some d ∧ (x.tile (bits (c.w 1) 7 5)).rlen < 64 * (fmtBits d / 8)))
  | _ => mxPieces x c ≠ [] ∧
    (va % 2 = 1 ∨ (c.opcode = 0x09 ∧ 2 * va % 128 ≠ 0) ∨ (c.opcode ∈ [0x02, 0x04] ∧ 128 < 2 * va % 128 + a.rows * es) ∨
      2 < (spanPages (mxPieces x c)).length)

/-! ### The matrix engine -/

/-- Nothing but the matrix engine of core k differs. -/
def onlyMx (k : Nat) (s t : State) : Prop := { t with mx := s.mx } = s ∧ ∀ j, j ≠ k → t.mxOf j = s.mxOf j

/-- c is the head of a matrix queue that is neither held nor being restored; it breaks no check and meets no hazard. -/
def mxHead (s : State) (k : Nat) (c : EngineCmd) (r : List EngineCmd) : Prop :=
  (s.mxOf k).queue = c :: r ∧ (s.mxOf k).held = false ∧ (∀ j, (s.mxOf k).saving = some j → j.restore = false) ∧
  mxCheck (s.mxOf k) c = 0 ∧ (s.mxOf k).free c = true

/-- The span of a head command translates, at state t, to pages of the core's own scratchpad that are free of slots and of
other commands and hold no bad granule. -/
def mxSpan (s : State) (k : Nat) (c : EngineCmd) (pt : List (Nat × PageIs)) (t : State) : Prop :=
  let ps := mxPieces (s.mxOf k) c
  let rect := rowsRect pt ps
  s.pageTable k (spanPages ps) (if mxWrites c then .write else .read) c.ring.toNat = (some pt, t) ∧
  ownPieces pt ps ∧ (mxWrites c = false → t.slotsFull k rect.toList = true) ∧
  t.sbAdmits k (if mxWrites c then [] else rect.toList) (if mxWrites c then rect else none) = true ∧ (t.spOf k).code = []

/-- What a head command leaves of the matrix engine besides its tiles, cells and flags. -/
def mxRest (x y : Mx) (r : List EngineCmd) : Prop :=
  y.queue = r ∧ y.held = x.held ∧ y.heldTsr = x.heldTsr ∧ y.saving = x.saving ∧ y.writeBacks = x.writeBacks

/-- The resident accumulator after a write of accumulator cn by another command than an MMA. -/
def residencyEnds (x : Mx) (cn : Nat) : Option Nat := if x.resident = some cn then none else x.resident

/-- The accumulator element n of row i, converted out with its saturation. -/
def accOut (x : Mx) (c : EngineCmd) (fd : Fmt) (i n : Nat) : Nat × Bool :=
  let code := leNat ((x.tile (8 + bits (c.w 0) 5 4)).bytes (256 * i + 4 * n) 4)
  let src : Fmt := if (c.w 0).testBit 9 then .i32 else .f32
  if src = fd then (code, false) else convert src fd (roundingOf (bits (c.w 0) 3 2)) code

/-- The virtual byte of piece j of a tile command: row j, or element j of every row. -/
def pieceAt (c : EngineCmd) (j : Nat) : Nat := vbyte (2 * addrAt c.words 2 + j * (128 * bits (c.w 1) 7 0))

/-- The 32 bits of a cell after g groups of an MMA, from the accumulator's cell, with whether a step saturated. -/
def cellAfter (i32 : Bool) (fa fb : Fmt) (as bs : Nat → List Nat) (sa sb : Nat → Nat) (start : Nat) : Nat → Nat × Bool
  | 0 => (start, false)
  | g + 1 =>
    let p := cellAfter i32 fa fb as bs sa sb start g
    if i32 then
      let q := dotGroupI32 fa fb p.1 (as g) (bs g)
      (q.1, p.2 || q.2)
    else (dotGroupF32 fa fb p.1 (as g) (bs g) (sa g) (sb g) % 2 ^ 32, p.2)

/-! ### Scratchpads, DMA channels, planes -/

/-- No scratchpad differs but that of core k. -/
def onlySp (k : Nat) (s t : State) : Prop := ∀ j, j ≠ k → t.spOf j = s.spOf j

/-- The arrivals of a scratchpad without the head of a plane. -/
def popped (p : Sp) (plane : Nat) : SMap (List Msg) := put [] p.arrivals plane (get [] p.arrivals plane).tail

/-- The bytes of a memory after a write of the enabled bytes from offset o. -/
def written (m m' : SMap Byte) (o : Nat) (d : List Byte) (be : List Bool) : Prop :=
  ∀ i, get 0 m' i = if o ≤ i ∧ i < o + d.length ∧ be.getD (i - o) false = true then d.getD (i - o) 0 else get 0 m i

/-- A channel has halted with a cause: its error register names it, and the core gets an event. -/
def haltedWith (t : State) (k ch cause : Nat) : Prop :=
  (t.chan k ch).halted = true ∧ (t.chan k ch).outbox = [] ∧ pends t k 10 (3 + ch) ∧
  bits (t.reg .dmChErr k ch) 31 27 = 16 + cause

/-- A chain has ended: the channel holds nothing of it. -/
def chainEnded (c c' : Chan) : Prop :=
  c'.dgo = none ∧ c'.chain = [] ∧ c'.halted = false ∧ c'.stop = none ∧ c'.stopped = false ∧ c'.unacked = 0 ∧
  c'.remoteOut = [] ∧ c'.outbox = [] ∧ c'.tag = c.tag ∧ ∀ r ∈ c'.reads, r.orphan = true

/-- Nothing but channel ch of core k differs. -/
def onlyChan (k ch : Nat) (s t : State) : Prop :=
  { t with dm := s.dm } = s ∧ (∀ j, (t.dmOf j).held = (s.dmOf j).held) ∧
  ∀ j h, j ≠ k ∨ h ≠ ch → t.chan j h = s.chan j h

/-- A channel is free to act: it is neither halted nor stopped by the engine's hold, and nothing of it has yet to stop. -/
def channelFree (s : State) (k ch : Nat) : Prop :=
  (s.chan k ch).halted = false ∧ (s.chan k ch).stop = none ∧ (s.dmOf k).held = false ∧ (s.chan k ch).stopped = false ∧
  (s.chan k ch).stopping = false

/-- Every piece of a descriptor's runs lies in the own scratchpad on both sides. -/
def ownToOwn (pieces : List (Run × List Piece)) : Prop :=
  ∀ r ∈ pieces, ∀ p ∈ r.2, ∃ a b, p.src = .place (.own a) ∧ p.dst = .place (.own b)

/-- A state with the scratchpads and channels of another, which hold the same but for channel ch of core k. -/
def sameBut (k ch : Nat) (s t : State) : Prop :=
  { t with dm := s.dm, sp := s.sp } = s ∧ (∀ j, t.spOf j = s.spOf j) ∧ (∀ j, (t.dmOf j).held = (s.dmOf j).held) ∧
  ∀ j h, j ≠ k ∨ h ≠ ch → t.chan j h = s.chan j h

/-- Packet i of a class of plane V has come to w on its way: it alone has moved, now as packet j of the class, and outputs
have had their turns. -/
def travelled (s : State) (resp : Bool) (i : Nat) (m : Msg) (j : Nat) (m' : Msg) (w : State) : Prop :=
  { w with vReq := s.vReq, vResp := s.vResp, vTurn := s.vTurn } = s ∧ w.vClass (!resp) = s.vClass (!resp) ∧
  (w.vClass resp)[j]? = some m' ∧ m.hop ≤ m'.hop ∧ m' = { m with hop := m'.hop, stores := m'.stores } ∧
  ((w.vClass resp).eraseIdx j).Perm ((s.vClass resp).eraseIdx i)

/-- The copy of one piece within the own scratchpad. -/
def copyPiece (k : Nat) (v : State) (p : Piece) : State :=
  match p.src, p.dst with
  | .place (.own a), .place (.own b) => if p.n = 0 then v else v.spStore k b (getBytes 0 (v.spOf k).mem a p.n)
  | _, _ => v

/-! ### The contexts and the ports -/

/-- A posted write of one DW to BAR2 by a function of a port takes effect at once: the link is up and nothing of the port
waits, the function is reached, and the device serves memory requests (R364, R366, R372, R379). -/
def frameOpen (s : State) (port : HostPort) (func : Nat) : Prop :=
  (s.pxOf (portNum port)).linkUp = true ∧ s.portBusy (portNum port) = false ∧ s.reaches (portNum port) func = true ∧
  s.servesMemory = true ∧ 4 ≤ (s.fnCfg (portNum port) func).mps

/-- DRAM holds no error, no faulty lane and no poisoned unit: a read gives what was last written (R309–R313). -/
def errorFree (s : State) : Prop :=
  ∀ sl, (s.slice sl).err = [] ∧ (s.slice sl).badLanes = [] ∧ (s.slice sl).poisoned = []

/-- A unit that the 64 bytes from an address reach is poisoned, so their read is uncorrectable (R312, R313). -/
def poisonedAt (s : State) (a : Nat) : Prop :=
  ∃ u ∈ unitsOf a 64, get false (s.slice (dramPlace u).1).poisoned ((dramPlace u).2 / 64) = true

/-- Context a stands before context b in the order of selection: PRIO descending, READYSTEP and CTX ascending (R198). -/
def selectedBefore (s : State) (a b : Nat) : Prop :=
  let x := s.ctxRec a
  let y := s.ctxRec b
  y.prio < x.prio ∨ x.prio = y.prio ∧ (x.readyStep < y.readyStep ∨ x.readyStep = y.readyStep ∧ a < b)

/-- The contexts that a composition selects, in order (R198). -/
def selection (s : State) (sel : List Nat) : Prop :=
  sel.length = min s.batch s.readyList.length ∧ sel.Nodup ∧ sel.Pairwise (selectedBefore s) ∧
  (∀ c ∈ sel, (s.ctxRec c).state = .ready) ∧
  ∀ c ∈ sel, ∀ d, (s.ctxRec d).state = .ready → d ∉ sel → selectedBefore s c d

/-- A context keeps its slot: the one it occupied in the step just closed, or in the step that a warm reset interrupted
(R198, R439). -/
def keepsSlot (s : State) (c : Nat) : Bool :=
  (s.ctxRec c).slotV && get 0 (if s.cx.kept = [] then s.cx.occ else s.cx.kept) (s.ctxRec c).slot == c + 1

/-- The slots that the selected contexts get (R198): the kept ones, and for the others the lowest-numbered unoccupied slots
below S in the order of selection. -/
def placed (s : State) (sel : List Nat) (place : Nat → Nat) : Prop :=
  let free := (List.range s.batch).filter fun n => sel.all fun c => !(keepsSlot s c) || (s.ctxRec c).slot != n
  (∀ c ∈ sel, keepsSlot s c = true → place c = (s.ctxRec c).slot) ∧
  ∀ (i c : Nat), (sel.filter fun c => !keepsSlot s c)[i]? = some c → free[i]? = some (place c)

/-- A record after the close of its step (R188, R202), with its counts moved on. -/
def closed (x y : CtxRec) : CtxRec :=
  if x.dropReq then {} else if x.parkReq then { y with state := .parked, parkReq := false }
  else { y with state := if y.eligible then .ready else .idle }

/-- The counts of a record moved on by the output entry of its slot (R202). -/
def advanced (x : CtxRec) (e : List Byte) : CtxRec :=
  { x with
    outTail := if (leNat ((e.drop 2).take 2)).testBit 0 then (x.outTail + 1) % 256 else x.outTail
    tokens := min (x.tokens + leNat (e.take 2)) 0xFFFFFFFF
    inHead := if (leNat ((e.drop 2).take 2)).testBit 1 then x.inHead else (x.inHead + 1) % 256 }

/-- The address of a slot's output entry (R202). -/
def outEntry (s : State) (slot : Nat) : Nat := s.pairAddr .cxSlotoutLo .cxSlotoutHi + 64 * slot

/-- The address of the ring entry that an emitted output goes to (R191, R202). -/
def ringEntry (s : State) (c : Nat) : Nat := s.ringAddr c (0x2000 + 64 * ((s.ctxRec c).outTail % 64))

/-! ### Optical ports -/

/-- A port has left service: its next state and its causes; no other port differs. -/
def wentDown (s t : State) (p down att : Nat) (next : PortState) : Prop :=
  t.port p = { state := next, downCause := down, attCause := att } ∧ (∀ q, q ≠ p → t.port q = s.port q) ∧
  t.flag fOL_EVSTAT_PORTDOWN = true ∧ t.fld fOL_EVSTAT_PORT = p

/-- The state that a port leaves service for. -/
def downState (s : State) : PortState := if s.flag fOL_CTRL_AUTORETRAIN then .training else .outOfService

/-- A port that a loss can take out of service. -/
def portUp (s : State) (p : Nat) : Prop :=
  (s.port p).state ≠ .dark ∧ (s.port p).state ≠ .unused ∧ (s.port p).state ≠ .outOfService

/-- A port at the block boundary that it has agreed on takes its next width before it sends on (R327). -/
def atBoundary (x : OPort) : OPort :=
  match x.nextWidth with
  | some v => if x.txBlock = [] ∧ x.blockCount = x.boundary
      then { x with width := v, lanes := (group x.waves v).getD [], nextWidth := none } else x
  | none => x

/-- A flit has left a port: it stands in the block that the port is sending, and the twentieth closes the block, whose
codewords go out on the wavelengths of the port's group (R326, R327). -/
def flitLeft (s t : State) (p : Nat) (bs : List Byte) : Prop :=
  let x := atBoundary (s.port p)
  (x.txBlock.length + 1 < 20 → t.out = .flit p bs :: s.out ∧ t.port p = { x with txBlock := x.txBlock ++ [bs] }) ∧
  (20 ≤ x.txBlock.length + 1 →
    t.out = .block p (blockWaves x.lanes (blockWords x.width x.blockCount (x.txBlock ++ [bs]))) :: .flit p bs :: s.out ∧
    t.port p = { x with txBlock := [], blockCount := (x.blockCount + 1) % 0x10000 })

/-- The device has switched to its next epoch. -/
def switched (s t : State) : Prop :=
  t.ol.epoch = (s.ol.epoch + 1) % 0x10000 ∧ t.ol.cur = s.ol.next ∧ t.ol.prev = s.ol.cur ∧ t.ol.armed = false ∧
  t.ol.draining = true ∧ t.ol.drainAt = s.clock ∧ t.flag fOL_EVSTAT_SWITCHED = true ∧
  ∀ p < 16, (s.port p).state = .ready → (t.port p).state = .inService

/-! ### Host ports -/

/-- What a write or a message of a port is when it leaves (R367, R371). -/
def sent (p : Nat) (r : HostReq) : Emission :=
  match r.vec with
  | some v => .msix (portName p) r.func v r.addr (leNat r.data)
  | none => .hostWriteReq (portName p) r.func r.addr r.data r.ro

/-- A completion, a read or a message leaves a port behind every write that the port has accepted (R371, R373). -/
def leavesBehind (s t : State) (p : Nat) (e : Emission) : Prop :=
  let x := s.pxOf p
  { t with out := s.out, px := s.px } = s ∧
  (x.linkUp = true → t.out = e :: (x.tx.map (sent p)).reverse ++ s.out ∧ t.pxOf p = { x with tx := [] } ∧
    ∀ q, q ≠ p → t.pxOf q = s.pxOf q) ∧
  (x.linkUp = false → t = { s with out := e :: s.out })

/-- An error of a function stands in its error registers, or in those of the PF where the function is not present, and is
reported (R360, R364, R379); nothing else changes but that a message drives accepted writes out before it. -/
def reported (s t : State) (p f e place : Nat) : Prop :=
  let x := s.pxOf p
  let g := if f = 0 ∨ x.vfEnable = true ∧ f ≤ x.numVfs then f else 0
  .aer (portName p) g e ∈ t.out ∧
  (t.fnCfg p g).aer.unc = (s.fnCfg p g).aer.unc ||| 2 ^ place ∧
  { t.fnCfg p g with aer := (s.fnCfg p g).aer } = s.fnCfg p g ∧ (∀ h, h ≠ g → t.fnCfg p h = s.fnCfg p h) ∧
  { t.pxOf p with fns := x.fns, tx := x.tx } = x ∧ (∀ q, q ≠ p → t.pxOf q = s.pxOf q) ∧
  { t with out := s.out, px := s.px, freeCount := s.freeCount } = s

/-- Only port p of the two host ports differs. -/
def onlyPx (p : Nat) (s t : State) : Prop := { t with px := s.px } = s ∧ ∀ q, q ≠ p → t.pxOf q = s.pxOf q

/-- A function of a port is present (R361). -/
def presentFn (x : PxPort) (f : Nat) : Prop := f = 0 ∨ x.vfEnable = true ∧ f ≤ x.numVfs

/-- The device answers configuration requests and BAR0 (R366). -/
def answering (s : State) : Prop := 1 ≤ s.level ∨ s.flag fMG_STAGE_UNCONF = true ∨ s.rs.retired = true

/-- What a function of a port shows in its configuration space (R360–R362, R367, R379). -/
def configFields (x : PxPort) (c : FnCfg) (f : Nat) : List (ConfigField × Nat) :=
  let pf (n : Nat) : Nat := if f = 0 then n else 0
  let bars (b : Bool) (a : SMap Nat) (code : Nat) : List (ConfigField × Nat) :=
    (List.finRange 6).map fun dw => (if b then .vfBar dw else .bar dw, pf (barDw a code dw.val))
  [(.vendorId, Config.vendorId % 0x10000), (.deviceId, if f = 0 then 0x9600 else 0x9601), (.classCode, 0x120000), (.revision, 1),
   (.totalVfs, pf 16), (.initialVfs, pf 16), (.firstVfOffset, pf 1), (.vfStride, pf 1),
   (.numVfs, pf x.numVfs), (.vfEnable, pf (if x.vfEnable then 1 else 0)), (.memorySpace, if c.mse then 1 else 0),
   (.busMaster, if c.bme then 1 else 0), (.msixEnable, if c.msixEn then 1 else 0), (.functionMask, if c.fmask then 1 else 0),
   (.relaxedOrdering, if c.ero then 1 else 0), (.tableSize, 2047), (.bar4Size, pf c.bar4sz), (.vfBar4Size, pf x.vfBar4sz),
   (.maxPayload, c.mps), (.maxRead, c.mrrs), (.completionTimeout, c.cto), (.powerState, if c.d3 then 3 else 0),
   (.deviceControl, c.aer.control), (.deviceStatus, c.aer.status), (.uncStatus, c.aer.unc), (.uncMask, c.aer.uncMask),
   (.uncSeverity, c.aer.severity), (.corStatus, c.aer.cor), (.corMask, c.aer.corMask), (.firstError, c.aer.first)] ++
  bars false c.bars c.bar4sz ++ bars true x.vfBars x.vfBar4sz

/-- The link of a port is down, and nothing that had not left it remains (R376). -/
def downPort (x y : PxPort) : Prop :=
  y.linkUp = false ∧ y.speed = 0 ∧ y.width = 0 ∧ y.tx = [] ∧ y.inbox = [] ∧ y.lost = x.lost

/-- The configuration space of a port is as after reset. -/
def clearedPort (y : PxPort) : Prop := y.numVfs = 0 ∧ y.vfEnable = false ∧ y.fns = [] ∧ y.msix = [] ∧
  y.pba = [] ∧ y.vfBars = [] ∧ y.vfBar4sz = 16

/-! ### The security controller, resets -/

/-- The commands of SC_CMD with their codes (R402). -/
def securityForm (rq : Requester) (i : Instr) (code : Nat) : Prop :=
  (i, code) ∈ [(Instr.beginWrite rq, 1), (.chunk rq, 2), (.dramchunk rq, 3), (.commit rq, 4), (.enrol rq, 5), (.transfer rq, 6), (.attest rq, 7),
   (.extend rq, 8), (.unlock rq, 9), (.lock rq, 0xA), (.abort rq, 0xB)]

/-- The bank that BEGIN opens (R402): never that of the running negative; when unconfigured the one with the lower SEQ, or
bank 0. -/
def bankToWrite (x : Sec) : Nat :=
  match x.bank, x.reload with
  | some b, _ => 1 - b
  | none, some b => 1 - b
  | none, none => if x.bankSeq 1 < x.bankSeq 0 then 1 else 0

/-- A port is done with its bring-up as far as level 2, or level 3, asks (R395, R440). -/
def portDone (s : State) (p : Nat) (final : Bool) : Prop :=
  let x := s.port p
  (s.link (p / 2)).role = 0 ∨ (x.state = .ready ∨ x.state = .inService) ∧ (final = true → x.final = true) ∨
  x.state = .outOfService ∨ x.downCause ≠ 0 ∨ s.level1At + 3000000 ≤ s.clock

/-- A reset has begun: it is counted with its cause, every unit but what a reset keeps stands as after reset, an open bank
write and an operation have ended, and the store is as it was (R431, R432, R435, R443). -/
def resetBegins (s t : State) (cause : Nat) : Prop :=
  t.level = 0 ∧ t.level0 = false ∧ t.rs.last = cause ∧ t.rs.count = (s.rs.count + 1) % 2 ^ 32 ∧ t.rs.inReset = true ∧
  t.rs.standby = false ∧ t.rs.armed = false ∧ t.rs.lockDelay = none ∧ t.rs.warmCause = none ∧
  t.cores = [] ∧ t.l2 = {} ∧ t.mx = [] ∧ t.vx = [] ∧ t.sp = [] ∧ t.dm = [] ∧ t.sides = [] ∧ t.tables = [] ∧
  t.vReq = [] ∧ t.vResp = [] ∧ t.cx = { kept := t.cx.kept } ∧ t.sync.counters = [] ∧ t.sync.bars = [] ∧ t.ol.links = [] ∧ t.ol.hub = [] ∧
  t.sec.write = none ∧ t.sec.op = none ∧ t.sec.debug = false ∧ t.sec.bank = none ∧
  t.sec.flash = s.sec.flash ∧ t.sec.copy0 = s.sec.copy0 ∧ t.sec.copy1 = s.sec.copy1 ∧
  t.resetAt = s.clock ∧ t.clock = s.clock ∧ t.pending = s.pending

/-- A cold or power-on reset besides: no memory, no link, no slot and no measurement of the clusters is kept. -/
def nothingKept (s t : State) : Prop :=
  t.dram = [] ∧ t.sram = [] ∧ t.ctx = [] ∧ t.cx.kept = [] ∧ t.pw.measured = false ∧ t.sec.owner = none ∧
  ∀ p, (t.pxOf p).linkUp = false ∧ (t.pxOf p).fns = [] ∧ (t.pxOf p).perst = (s.pxOf p).perst

/-- The slots of a step that a reset interrupts are kept for its contexts (R439), and the ports keep their widths (R438,
R440). -/
def slotsAndWidthsKept (s t : State) : Prop :=
  (∀ c, (s.ctxRec c).state = .running → (s.ctxRec c).slotV = true →
    (∀ d, d ≠ c → (s.ctxRec d).state = .running → (s.ctxRec d).slotV = true → (s.ctxRec d).slot ≠ (s.ctxRec c).slot) →
    get 0 t.cx.kept (s.ctxRec c).slot = c + 1) ∧
  (∀ slot c, get 0 t.cx.kept slot = c + 1 →
    (s.ctxRec c).state = .running ∧ (s.ctxRec c).slotV = true ∧ (s.ctxRec c).slot = slot ∨ t.cx.kept = s.cx.kept) ∧
  ∀ p < 16, (s.port p).state ≠ .unused → (t.port p).width = (s.port p).width

/-- The window history after a reset appended its time (R435): the latest 16 entries. -/
def appended (s : State) : List Nat :=
  (s.rs.history ++ [(s.clock - s.powerOnAt) / 1000000]).drop (s.rs.history.length - 15)

/-- The state in which a warm trigger starts a warm reset (R436, R437, R443). -/
def heedsWarm (s : State) : Prop :=
  s.rs.retired = false ∧ s.pw.railsOn = true ∧ s.pw.mrst = false ∧ s.rs.standby = false ∧ s.rs.warmCause = none ∧
  (s.rs.warmKind = false ∨ s.rs.inReset = false)

/-- A warm trigger has been heeded (R432): both hosts hear of it; nothing else has happened yet. -/
def warmTriggered (s t : State) (r : Rs) : Prop :=
  t.rs = r ∧ t.flag fPX_HEVT_WARM 0 = true ∧ t.flag fPX_HEVT_WARM 1 = true ∧
  { t with rs := s.rs, regs := s.regs, px := s.px } = s

end Sys2Proof.Machine
end

