-- ==== Sys2Proof/Certificates/Slice0/Obligations.lean ====
section
/-! DEFINITION. The statements for the provers. -/

open Sys2Proof Sys2Proof.Machine

/-- The command at the front of the queue runs alone on the state with the queue's rest; on an empty queue a microsecond
passes (a choice of the model: log entry 1), which moves the clock and lets what the ports have accepted leave, and what
waits at them be served. The model's readings that it rests on: log entries 1, 125. -/
def Obligations.StepRunsFront : Prop :=
  (∀ (s : State) (c : Instr) (q : List Instr), step { s with pending := c :: q } = exec c { s with pending := q }) ∧
  (∀ s : State, s.pending = [] → ∃ t, step s = .next t ∧ t.clock = s.clock + 1 ∧ t.pending = [] ∧
    ((s.pxOf 0).waiting = [] → (s.pxOf 1).waiting = [] → t.regs = s.regs ∧ t.cores = s.cores ∧ t.dram = s.dram ∧
      ∀ p < 2, (t.pxOf p).tx = if (s.pxOf p).linkUp then [] else (s.pxOf p).tx))

/-- Every command of the table completes in every state: it answers a next state, and leaves the queue and the clock.
The model's readings that it rests on: log entry 93. -/
def Obligations.CommandsComplete : Prop :=
  ∀ (i : Instr) (s : State), ∃ t, exec i s = .next t ∧ t.pending = s.pending ∧ t.clock = s.clock

/-- The machine after reset meets the invariant. -/
def Obligations.ResetInvariant : Prop := State.reset.Inv

/-- Every step keeps the invariant: reserved bits of core registers read 0, a TLB holds at most 64 entries and a store
buffer eight, memories keep their canonical form, a counter stays within 24 bits, the service level is 0 to 3 and no
reset lies in the future. -/
def Obligations.StepKeepsInvariant : Prop := ∀ (s t : State), s.Inv → step s = .next t → t.Inv

/-- R6, R125, R128, R188, R214, R265, R284, R431: what power-on reset leaves: the core registers that the manual gives,
scratchpads of zeros, apertures, queues, caches, counters and contexts empty, level 0 with cause 0, and every
register at the value of its After reset column, an N or P field at the value that log entry 3 gives it. -/
def Obligations.ResetValues : Prop :=
  let s := State.reset
  (∀ c, (s.core c).st = 0x3800 ∧ (s.core c).tlb = [] ∧ (s.core c).pend = [] ∧ (s.core c).waiting = .no ∧
    (s.core c).locked = none ∧ (s.core c).stores = [] ∧ (∀ set, (s.core c).icache.lines set = []) ∧
    ∀ set, (s.core c).dcache.lines set = []) ∧
  (∀ k a, get 0 (s.spOf k).mem a = 0 ∧ s.codeOf k (a / 4) = .good) ∧
  (∀ k n, (s.ap k n).state = .closed ∧ ∀ i, (get {} (s.ap k n).slots i).full = false) ∧
  (∀ k, (s.spOf k).scoreboard = [] ∧ (s.mxOf k).queue = [] ∧ (s.mxOf k).held = false ∧ (s.vxOf k).queue = [] ∧
    (s.vxOf k).held = false ∧ ∀ ch, (s.chan k ch).queue = [] ∧ (s.chan k ch).dgo = none ∧ (s.chan k ch).halted = false) ∧
  (∀ x, (s.ctxRec x).state = .free) ∧ (∀ p, (s.ctr p).count = 0 ∧ (s.ctr p).waits = []) ∧
  (∀ r u n, s.reg r u n = regReset r) ∧ s.level = 0 ∧ s.rs.last = 0 ∧ s.rs.standby = false ∧ s.rs.armed = false

/-- R223, group 0x1: gD and the flags from gD and gS; PC moves on by one word; nothing else of any core or of the device
changes. The begin of the instruction (its fetch) answers u. R223, group 0x2: as group 0x1 with word 1 as the second
operand. R224: MOVQ, ADDQ and the unary group. CLZ gives the number of zero bits above the highest set bit, POPC the
number of set bits. -/
def Obligations.ScalarAluResults : Prop :=
  (
  ∀ (s u : State) (c : CoreId) (rd rs : BitVec 4), s.begin c 1 = .go u →
    ∀ q ∈ aluRegisterForms c rd rs,
      let x := u.core c
      let b := get 0 x.g rs.toNat
      exec q.1 s = .next (u.setCore c
        (aluEnds x 1 rd.toNat q.2 (aluSpec q.2 (get 0 x.g rd.toNat) b (b.toNat % 32) x.flags)))) ∧
  (
  ∀ (s u : State) (c : CoreId) (rd : BitVec 4) (imm : Half), s.begin c 2 = .go u →
    ∀ q ∈ aluImmediateForms c rd imm,
      let x := u.core c
      exec q.1 s = .next (u.setCore c
        (aluEnds x 2 rd.toNat q.2 (aluSpec q.2 (get 0 x.g rd.toNat) imm (imm.toNat % 32) x.flags)))) ∧
  (
  ∀ (s u : State) (c : CoreId) (rd n : BitVec 4) (imm : BitVec 8), s.begin c 1 = .go u →
    let x := u.core c
    let a := get 0 x.g rd.toNat
    let counted (r : Nat) : Core :=
      { x with
        g := put 0 x.g rd.toNat (BitVec.ofNat 16 r)
        st := (Nzcv.mk false (r == 0) false false).into x.st
        pc := x.pc + 1 }
    (exec (.movq c rd imm) s = .next (u.setCore c
      { x with g := put 0 x.g rd.toNat (imm.signExtend 16), pc := x.pc + 1 })) ∧
    (exec (.addq c rd imm) s = .next (u.setCore c
      (aluEnds x 1 rd.toNat .add (aluSpec .add a (imm.signExtend 16) 0 x.flags)))) ∧
    (∀ q ∈ unaryForms c rd n x.flags, exec q.1 s = .next (u.setCore c (aluEnds x 1 rd.toNat .mov (q.2 a)))) ∧
    (∃ r, exec (.clz c rd) s = .next (u.setCore c (counted r)) ∧ r ≤ 16 ∧ (∀ i, i < r → a.getMsbD i = false) ∧
      (r < 16 → a.getMsbD r = true)) ∧
    exec (.popc c rd) s = .next (u.setCore c (counted ((List.range 16).countP fun i => a.getLsbD i))))

/-- R225: the address group. Only ACMP changes the flags, and AADDP, AMOVG and GMOVA need an even X or one that is a
multiple of 4 (R216). R216, R228: a pair or quad field that is misaligned, or an index that names q4 to q7, takes an
instruction fault with cause 2, and the instruction itself changes nothing. -/
def Obligations.AddressResults : Prop :=
  (
  (∀ (s u : State) (c : CoreId) (ra x : BitVec 3) (g : BitVec 4), s.begin c 1 = .go u →
    let k := u.core c
    let a (n : BitVec 3) : Addr := get 0 k.a n.toNat
    let ends (v : Addr) : Core := { k with a := put 0 k.a ra.toNat v, pc := k.pc + 1 }
    exec (.amov c ra x) s = .next (u.setCore c (ends (a x))) ∧
    exec (.aadd c ra g) s = .next (u.setCore c (ends (a ra + (get 0 k.g g.toNat).signExtend 48))) ∧
    (g.toNat % 2 = 0 →
      exec (.aaddp c ra g) s = .next (u.setCore c
        (ends (a ra + ((get 0 k.g (g.toNat + 1)) ++ (get 0 k.g g.toNat)).signExtend 48)))) ∧
    (g.toNat % 4 = 0 →
      exec (.amovg c ra g) s = .next (u.setCore c
        (ends ((get 0 k.g (g.toNat + 2)) ++ (get 0 k.g (g.toNat + 1)) ++ (get 0 k.g g.toNat)))) ∧
      exec (.gmova c ra g) s = .next (u.setCore c { (k.setGrs g.toNat 4 (a ra).toNat) with pc := k.pc + 1 })) ∧
    exec (.acmp c ra x) s = .next (u.setCore c
      { k with st := (aluSpec .cmp (a ra) (a x) 0 k.flags).2.into k.st, pc := k.pc + 1 })) ∧
  (∀ (s u : State) (c : CoreId) (ra : BitVec 3) (imm : Half), s.begin c 2 = .go u →
    let k := u.core c
    exec (.aaddi c ra imm) s = .next (u.setCore c
      { k with a := put 0 k.a ra.toNat (get 0 k.a ra.toNat + imm.signExtend 48), pc := k.pc + 2 })) ∧
  (∀ (s u : State) (c : CoreId) (ra : BitVec 3) (imm : Addr), s.begin c 4 = .go u →
    let k := u.core c
    exec (.amovi c ra imm) s = .next (u.setCore c { k with a := put 0 k.a ra.toNat imm, pc := k.pc + 4 })) ∧
  (∀ (s u : State) (c : CoreId) (ra : BitVec 3) (disp : BitVec 32), s.begin c 3 = .go u →
    let k := u.core c
    exec (.apc c ra disp) s = .next (u.setCore c
      { k with a := put 0 k.a ra.toNat (k.pc + 3 + disp.signExtend 48), pc := k.pc + 3 }))) ∧
  (
  ∀ (s u : State) (c : CoreId), s.begin c 1 = .go u →
    let faults (i : Instr) : Prop := exec i s = .next (u.takeSync c ⟨1, 2, 0, none⟩)
    (∀ rd rs : BitVec 3, 4 ≤ rd.toNat ∨ 4 ≤ rs.toNat →
      (∀ q ∈ longForms c true rd rs, faults q.1) ∧ faults (.lmulhs c true rd rs) ∧ faults (.lsxw c true rd rs)) ∧
    (∀ rd : BitVec 3, 4 ≤ rd.toNat → faults (.lneg c true rd)) ∧
    (∀ (ra : BitVec 3) (g : BitVec 4), g.toNat % 2 ≠ 0 → faults (.aaddp c ra g)) ∧
    (∀ (ra : BitVec 3) (g : BitVec 4), g.toNat % 4 ≠ 0 → faults (.amovg c ra g) ∧ faults (.gmova c ra g)))

/-- R216: what a pair or a quad is, and what writing one does: word i of it is the general register i above its first,
and no other register changes. R228: long arithmetic on pairs (W = 0) and on quads q0 to q3 (W = 1). The model's
readings that it rests on: log entry 91. -/
def Obligations.LongResults : Prop :=
  (
  ∀ (x : Core) (n w v : Nat), v < 0x10000 ^ w →
    (x.setGrs n w v).grs n w = v ∧
    (∀ i, i < w → (x.setGrs n w v).gr (n + i) = v / 0x10000 ^ i % 0x10000) ∧
    (∀ m, m < n ∨ n + w ≤ m → (x.setGrs n w v).gr m = x.gr m) ∧
    (∀ i, i < w → x.gr (n + i) = x.grs n w / 0x10000 ^ i % 0x10000) ∧
    (x.setGrs n w v).a = x.a ∧ (x.setGrs n w v).st = x.st) ∧
  (
  ∀ (s u : State) (c : CoreId) (w : Bool) (rd rs : BitVec 3), s.begin c 1 = .go u →
    (w = true → rd.toNat < 4 ∧ rs.toNat < 4) →
    let x := u.core c
    let words := if w then 4 else 2
    let a := longAt x words rd.toNat
    let b := longAt x words rs.toNat
    let plain (r : BitVec (16 * words)) : BitVec (16 * words) × Nzcv := (r, nzcvOf r false false)
    (∀ q ∈ longForms c w rd rs, exec q.1 s = .next (u.setCore c
      (longEnds x words rd.toNat (q.2 != .cmp) (aluSpec q.2 a b (b.toNat % 64) x.flags)))) ∧
    exec (.lneg c w rd) s = .next (u.setCore c (longEnds x words rd.toNat true (aluSpec .sub 0 a 0 x.flags))) ∧
    exec (.lmulhs c w rd rs) s = .next (u.setCore c (longEnds x words rd.toNat true
      (plain (BitVec.ofInt (16 * words) (a.toInt * b.toInt / 2 ^ (16 * words)))))) ∧
    exec (.lsxw c w rd rs) s = .next (u.setCore c (longEnds x words rd.toNat true
      (plain ((b.setWidth (8 * words)).signExtend (16 * words))))))

/-- R227: the branches, jumps, calls and returns: PC, and LK for a call; no flag changes. -/
def Obligations.BranchResults : Prop :=
  (∀ (s u : State) (c : CoreId) (ra : BitVec 3) (cond : Fin 15) (disp : BitVec 8), s.begin c 1 = .go u →
    let x := u.core c
    exec (.shortBranch c cond disp) s = .next (u.setCore c
      { x with pc := if condSpec x.flags cond then x.pc + 1 + disp.signExtend 48 else x.pc + 1 }) ∧
    exec (.jmpa c ra) s = .next (u.setCore c { x with pc := get 0 x.a ra.toNat }) ∧
    exec (.calla c ra) s = .next (u.setCore c { x with lk := x.pc + 1, pc := get 0 x.a ra.toNat }) ∧
    exec (.ret c) s = .next (u.setCore c { x with pc := x.lk })) ∧
  (∀ (s u : State) (c : CoreId) (cond : Fin 15) (disp : BitVec 32), s.begin c 3 = .go u →
    let x := u.core c
    exec (.jcc c cond disp) s = .next (u.setCore c
      { x with pc := if condSpec x.flags cond then x.pc + 3 + disp.signExtend 48 else x.pc + 3 }) ∧
    exec (.call c disp) s = .next (u.setCore c { x with lk := x.pc + 3, pc := x.pc + 3 + disp.signExtend 48 }))

/-- R232, R244, R248: an instruction begins when its core runs, waits for nothing and has no event to take, and every
word of it can be fetched. A core that is locked, or that waits, executes nothing. R232: what the fetch of an
instruction leaves alone: every register of every core, every byte of memory, the engines, the apertures, the
counters and the contexts. The model's readings that it rests on: log entries 12, 13. -/
def Obligations.InstructionBegins : Prop :=
  (
  ∀ (s t : State) (c : CoreId) (n : Nat),
    (1 ≤ s.level → s.rs.standby = false → (s.core c).locked = none → (s.core c).hostLoads = [] →
      (s.core c).frameWrite = none → (s.core c).entering = none → s.deliverable c = none → (s.core c).waiting = .no →
      s.fetchWords c (s.core c).ring (wordsFrom (s.core c).pc n) = (.ok (), t) → s.begin c n = .go t) ∧
    ((s.core c).locked ≠ none → s.begin c n = .stop s) ∧
    ((s.core c).entering = none → s.deliverable c = none → (s.core c).waiting ≠ .no → s.begin c n = .stop s)) ∧
  (
  ∀ (s u : State) (c : CoreId) (n : Nat), s.begin c n = .go u → Quiet s u)

/-- R226: LD, LD.P, LD.Q and LD.A: the words read at EA go into their register, aB is updated first, and PC moves on.
The operands are readable: loadWords answers the words. R226: ST, ST.P, ST.Q and ST.A: the words that the register
holds before the instruction go to EA, aB is updated and PC moves on. The operands are writable: storeWords answers.
The model's readings that it rests on: log entry 127. -/
def Obligations.LoadStoreResults : Prop :=
  (
  ∀ (s u v : State) (c : CoreId) (vol : Bool) (mode : BitVec 2) (rd : BitVec 4) (ra : Fin 9) (rb : BitVec 3)
    (disp : Half) (ws : List Half), s.begin c (memWordsOf mode) = .go u →
    let x := u.core c
    let reads (n : Nat) : Prop := u.loadWords c vol (eaOf x mode rb disp) n x.ring = .ok ws v
    let k := pastAccess (v.core c) mode rb disp
    (reads 1 → exec (.ld c vol mode rd rb disp) s = .next (v.setCore c
      { k with g := put 0 k.g rd.toNat (ws.getD 0 0), hostLoads := [] })) ∧
    (reads 2 → rd.toNat % 2 = 0 → exec (.ldP c vol mode rd rb disp) s = .next (v.setCore c
      { k with
        g := put 0 (put 0 k.g rd.toNat (ws.getD 0 0)) (rd.toNat + 1) (ws.getD 1 0)
        hostLoads := [] })) ∧
    (reads 4 → rd.toNat % 4 = 0 → exec (.ldQ c vol mode rd rb disp) s = .next (v.setCore c
      { k with
        g := put 0 (put 0 (put 0 (put 0 k.g rd.toNat (ws.getD 0 0)) (rd.toNat + 1) (ws.getD 1 0)) (rd.toNat + 2)
          (ws.getD 2 0)) (rd.toNat + 3) (ws.getD 3 0)
        hostLoads := [] })) ∧
    (reads 3 → exec (.ldA c vol mode ra rb disp) s = .next (v.setCore c
      (if ra.val = 8 then { k with lk := threeWords ws 0, hostLoads := [] }
       else { k with a := put 0 k.a ra.val (threeWords ws 0), hostLoads := [] })))) ∧
  (
  ∀ (s u v : State) (c : CoreId) (mode : BitVec 2) (rd : BitVec 4) (ra : Fin 9) (rb : BitVec 3) (disp : Half),
    s.begin c (memWordsOf mode) = .go u →
    let x := u.core c
    let g (i : Nat) : Half := get 0 x.g (rd.toNat + i)
    let writes (ws : List Half) : Prop := u.storeWords c (eaOf x mode rb disp) ws x.ring = (.ok (), v)
    let ends : Host.Outcome State Fault Refusal := .next (v.setCore c (pastAccess (v.core c) mode rb disp))
    (writes [g 0] → exec (.st c mode rd rb disp) s = ends) ∧
    (writes [g 0, g 1] → rd.toNat % 2 = 0 → exec (.stP c mode rd rb disp) s = ends) ∧
    (writes [g 0, g 1, g 2, g 3] → rd.toNat % 4 = 0 → exec (.stQ c mode rd rb disp) s = ends) ∧
    (writes (splitAddr (if ra.val = 8 then x.lk else get 0 x.a ra.val)) → exec (.stA c mode ra rb disp) s = ends))

/-- R217: an access of n words is made as words and even-aligned pairs, in increasing address order. R217, R266, R268: a
store that completes waits in the buffer, behind the earlier ones, and no byte of memory has changed; one that R369
refuses whole leaves the buffer as it is. The buffer never holds more than 8 entries. R268: the acknowledgement of the
oldest store, once no earlier request of its core to its home waits to be served: its bytes are at their home, every other
byte of memory is as before, and its entry frees; while one waits, nothing happens. A store to the own scratchpad meets no
poisoned granule here, and one to DRAM no unit with wrong bits. The model's readings that it rests on: log entries 46,
127. -/
def Obligations.StoreBuffer : Prop :=
  (
  ∀ (va : Addr) (las : List Nat),
    (piecesOf va las).flatMap (fun p => if p.n = 4 then [p.va, p.va + 1] else [p.va]) = wordsFrom va las.length ∧
    (∀ p ∈ piecesOf va las, p.n = 2 ∨ p.n = 4 ∧ p.va.toNat % 2 = 0) ∧ (∀ p ∈ piecesOf va las, p.la ∈ las)) ∧
  (
  ∀ (s v : State) (c : CoreId) (va : Addr) (ws : List Half) (ring : Nat),
    s.storeWords c va ws ring = (.ok (), v) →
    ((s.core c).stores.length ≤ 8 → (v.core c).stores.length ≤ 8) ∧ v.dram = s.dram ∧ v.sram = s.sram ∧ (∀ k, (v.spOf k).mem = (s.spOf k).mem) ∧
    ∃ las w t, s.translateAll c (wordsFrom va ws.length) .write ring = (.ok las, w, t) ∧
      (v.core c).stores = if spansWindows (piecesOf va las) then (s.core c).stores
        else (s.core c).stores ++ entriesOf ring (piecesOf va las) (halfBytes ws)) ∧
  (
  ∀ (s : State) (c : CoreId) (e : StoreEntry) (r : List StoreEntry), (s.core c).stores = e :: r → e.sent = false →
    (s.requestsBefore c e = true → exec (.storeAcknowledgement c) s = .next s) ∧
    (∀ o, s.requestsBefore c e = false → targetOf e.la = .scratchpad c o → (∀ g, s.codeOf c g ≠ .poisoned) →
      ∃ t, exec (.storeAcknowledgement c) s = .next t ∧ (t.core c).stores = r ∧ t.dram = s.dram ∧ t.sram = s.sram ∧
        (∀ i, i < e.bytes.length → get 0 (t.spOf c).mem (o + i) = e.bytes.getD i 0) ∧
        (∀ a, a < o ∨ o + e.bytes.length ≤ a → get 0 (t.spOf c).mem a = get 0 (s.spOf c).mem a) ∧
        (∀ k, k ≠ c.val → (t.spOf k).mem = (s.spOf k).mem)) ∧
    (s.requestsBefore c e = false → targetOf e.la = .dram → 2 ≤ s.level →
      (∀ a ∈ unitsOf e.la e.bytes.length, get {} (s.slice (dramPlace a).1).err ((dramPlace a).2 / 64) = {} ∧
        get false (s.slice (dramPlace a).1).poisoned ((dramPlace a).2 / 64) = false) →
      ∃ t, exec (.storeAcknowledgement c) s = .next t ∧ (t.core c).stores = r ∧ t.sram = s.sram ∧
        (∀ i, i < e.bytes.length → get 0 t.dram (e.la + i) = e.bytes.getD i 0) ∧
        (∀ a, a < e.la ∨ e.la + e.bytes.length ≤ a → get 0 t.dram a = get 0 s.dram a) ∧
        (∀ k, (t.spOf k).mem = (s.spOf k).mem)))

/-- R221, R278: ZTRAP takes an instruction fault with cause 1; NOP and ISYNC only move PC on; WFI waits; FENCE completes
when what it names is done, and otherwise waits and has changed nothing. The model's readings that it rests on: log
entries 45, 46, 47, 48. -/
def Obligations.SystemResults : Prop :=
  ∀ (s u : State) (c : CoreId) (g d v m st : Bool), s.begin c 1 = .go u →
    let x := u.core c
    let compute : Prop := c.val < 768
    let done : Prop :=
      (g = true → x.stores = []) ∧
      (st = true → (∀ e ∈ x.stores, ∀ o, targetOf e.la ≠ .scratchpad c o) ∧
        (x.stores = [] ∨ u.crossingBeats c + x.stores.length ≤ 4) ∧ (x.stores.filter fun e => orderedRegion e.la).length ≤ 1) ∧
      (m = true ∨ g = true → compute → (u.mxOf c).queue = [] ∧ (u.mxOf c).writeBacks = []) ∧
      (v = true ∨ g = true → compute → (u.vxOf c).queue = []) ∧
      (d = true ∨ g = true → compute → ∀ ch, ch < 2 → (u.chan c ch).queue = [] ∧ (u.chan c ch).dgo = none)
    let past : State := u.setCore c { x with pc := x.pc + 1 }
    exec (.ztrap c) s = .next (u.takeSync c ⟨1, 1, 0, none⟩) ∧
    exec (.nop c) s = .next past ∧ exec (.isync c) s = .next past ∧
    exec (.wfi c) s = .next (u.setCore c { x with waiting := .wfi }) ∧
    (done → exec (.fence c g d v m st) s = .next past) ∧ (¬done → exec (.fence c g d v m st) s = .next s)

/-- R222: MFS reads a special register that its ring may read, into a general or an address register. R215, R222, R242,
R246, R253, R257, R289: MTS writes the special registers; at rings 1 to 3 a write of ST leaves MASK, and RING never
changes; the low bits of VBASE, TSR and TTBASE and the reserved bits of SYNCCTX stay 0; a write of TTBASE empties
the TLB. The registers that no MTS may write take an instruction fault, and the ring-0 ones a protection fault
outside ring 0. The model's readings that it rests on: log entry 43. -/
def Obligations.SpecialRegisters : Prop :=
  (
  ∀ (s u : State) (c : CoreId) (reg : BitVec 4) (spr : BitVec 8), s.begin c 2 = .go u →
    let x := u.core c
    let n := spr.toNat
    let fault (vec cause : Nat) : Prop :=
      exec (.mfs c reg spr) s = .next (u.takeSync c ⟨vec, cause, 0, none⟩)
    ((ring0Spr n → ringOfSt x.st = 0) →
      (∀ w, narrowSpr x c u.ol.devId n = some w →
        exec (.mfs c reg spr) s = .next (u.setCore c { x with g := put 0 x.g reg.toNat w, pc := x.pc + 2 })) ∧
      (∀ w, wideSpr x n = some w → reg.toNat < 8 →
        exec (.mfs c reg spr) s = .next (u.setCore c { x with a := put 0 x.a reg.toNat w, pc := x.pc + 2 }))) ∧
    (narrowSpr x c u.ol.devId n = none → wideSpr x n = none → fault 1 3) ∧
    (wideSpr x n ≠ none → 8 ≤ reg.toNat → fault 1 3) ∧
    (ring0Spr n → (wideSpr x n ≠ none → reg.toNat < 8) → ringOfSt x.st ≠ 0 → fault 2 6)) ∧
  (
  ∀ (s u : State) (c : CoreId) (reg : BitVec 4), s.begin c 2 = .go u →
    let x := u.core c
    let w : Half := get 0 x.g reg.toNat
    let a : Addr := get 0 x.a reg.toNat
    let mts (n : BitVec 8) (y : Core) : Prop := exec (.mts c reg n) s = .next (u.setCore c { y with pc := x.pc + 2 })
    let fault (n : BitVec 8) (vec cause : Nat) : Prop :=
      exec (.mts c reg n) s = .next (u.takeSync c ⟨vec, cause, 0, none⟩)
    (mts 0x00 { x with
      st := stOf (ringOfSt x.st) (if ringOfSt x.st = 0 then maskOfSt w else maskOfSt x.st) (flagsOf w) }) ∧
    (reg.toNat < 8 → mts 0x01 { x with lk := a }) ∧
    (∀ n : BitVec 8, n = 0x03 ∨ n = 0x04 ∨ n = 0x05 ∨ n = 0x02 → fault n 1 3) ∧
    (∀ n : BitVec 8, narrowSpr x c u.ol.devId n.toNat = none → wideSpr x n.toNat = none → fault n 1 3) ∧
    (ringOfSt x.st = 0 →
      mts 0x0C { x with syncctx := w &&& 0x8FFF } ∧
      (reg.toNat < 8 →
        mts 0x08 { x with vbase := a.extractLsb' 8 40 ++ (0 : BitVec 8) } ∧
        mts 0x09 { x with tsr := a.extractLsb' 6 42 ++ (0 : BitVec 6) } ∧
        mts 0x0A { x with gtbase := a } ∧
        mts 0x0B { x with ttbase := a.extractLsb' 15 33 ++ (0 : BitVec 15), tlb := [] })) ∧
    (ringOfSt x.st ≠ 0 →
      fault 0x0C 2 6 ∧ (reg.toNat < 8 → fault 0x08 2 6 ∧ fault 0x09 2 6 ∧ fault 0x0A 2 6 ∧ fault 0x0B 2 6)))

/-- R240, R241: GCALL through a valid entry: the gate frame is written, TSR rises by one block, the ring becomes that of
the entry, and PC its target; MASK and the flags stay. What an entry refuses is a protection fault. R241, R249: GRET
and RETE read the block below TSR. GRET restores a7, LK, PC and the ring; RETE restores every general and address
register, LK, PC, the flags and the ring, and the mask level at ring 0 alone, and resumes the engines that recorded
the block. A frame of the other kind, or of a more privileged ring, is a protection fault. The model's readings that
it rests on: log entries 41, 42. -/
def Obligations.GatesAndReturns : Prop :=
  (
  ∀ (s u t v : State) (c : CoreId) (gate : BitVec 8) (ws : List Half), s.begin c 1 = .go u →
    u.loadWords c false ((u.core c).gtbase + 4 * gate.setWidth 48) 4 0 = .ok ws t →
    let x := t.core c
    let w : Half := ws.getD 3 0
    let valid : Prop := w.getLsbD 15 = true ∧ w.extractLsb' 4 11 = 0
    let admits : Prop := (ringOfSt x.st).toNat ≤ (w.extractLsb' 0 2).toNat
    let inward : Prop := (w.extractLsb' 2 2).toNat ≤ (ringOfSt x.st).toNat
    let room : Prop := x.tsr.toNat + 192 ≤ t.tslim c
    let fault (cause : Nat) : Prop :=
      exec (.gcall c gate) s = .next (t.takeSync c ⟨2, cause, 0, none⟩)
    (valid → admits → inward → room → t.writeGateFrame c gate.toNat = (.ok (), v) →
      exec (.gcall c gate) s = .next (v.setCore c { v.core c with
        tsr := (v.core c).tsr + 64
        st := stOf (w.extractLsb' 2 2) (maskOfSt (v.core c).st) (flagsOf (v.core c).st)
        pc := threeWords ws 0
        frameWrite := none })) ∧
    (¬valid → fault 1) ∧ (valid → ¬admits → fault 2) ∧ (valid → admits → ¬inward → fault 3) ∧
    (valid → admits → inward → ¬room → fault 7)) ∧
  (
  ∀ (s u t : State) (c : CoreId) (ws : List Half), s.begin c 1 = .go u →
    u.loadWords c false ((u.core c).tsr - 64) 64 0 = .ok ws t →
    let x := t.core c
    let st : Half := ws.getD 5 0
    let kind : Nat := ((ws.getD 0 0).extractLsb' 12 4).toNat
    let outward : Prop := (ringOfSt x.st).toNat ≤ (ringOfSt st).toNat
    let fault (i : Instr) (cause : Nat) : Prop := exec i s = .next (t.takeSync c ⟨2, cause, 0, none⟩)
    (kind = 2 → outward → exec (.gret c) s = .next (t.setCore c { x with
      a := put 0 x.a 7 (threeWords ws 49), pc := threeWords ws 2, lk := threeWords ws 6
      st := stOf (ringOfSt st) (maskOfSt x.st) (flagsOf x.st), tsr := x.tsr - 64 })) ∧
    (kind = 1 → outward → ∃ y : Core,
      exec (.rete c) s = .next ((t.setCore c y).resumeEngines c (x.tsr - 64)) ∧
      (∀ i, i < 16 → get 0 y.g i = ws.getD (12 + i) 0) ∧ (∀ i, i < 8 → get 0 y.a i = threeWords ws (28 + 3 * i)) ∧
      y.pc = threeWords ws 2 ∧ y.lk = threeWords ws 6 ∧ y.tsr = x.tsr - 64 ∧
      y.st = stOf (ringOfSt st) (if ringOfSt x.st = 0 then maskOfSt st else maskOfSt x.st) (flagsOf st) ∧
      y.vbase = x.vbase ∧ y.gtbase = x.gtbase ∧ y.ttbase = x.ttbase ∧ y.syncctx = x.syncctx ∧ y.wres = x.wres ∧
      y.stores = x.stores) ∧
    (kind ≠ 2 → fault (.gret c) 4) ∧ (kind ≠ 1 → fault (.rete c) 4) ∧
    (kind = 2 → ¬outward → fault (.gret c) 5) ∧ (kind = 1 → ¬outward → fault (.rete c) 5))

/-- R243: the event taken at a boundary is pending, its level exceeds the mask level, and no other such event comes
before it: a higher level, then a lower vector, then a lower SRC. With no such event none is taken. R244, R247:
EXCEPTION_ENTRY: the event that may be delivered is delivered, and pending no more; a WFI that waited has completed,
so the saved PC names the next instruction; the fault of a word that cannot be fetched is taken. The model's
readings that it rests on: log entries 11, 12, 48. -/
def Obligations.EventEntry : Prop :=
  (
  ∀ (s : State) (c : Nat),
    let x := s.core c
    let open_ (e : PendingEvent) : Prop := e ∈ x.pend ∧ x.mask < s.level_ c e.vec
    (∀ e, s.deliverable c = some e → open_ e ∧
      ∀ d, open_ d → s.level_ c d.vec < s.level_ c e.vec ∨ s.level_ c d.vec = s.level_ c e.vec ∧
        (e.vec < d.vec ∨ e.vec = d.vec ∧ e.src ≤ d.src)) ∧
    (s.deliverable c = none ↔ ∀ e, ¬open_ e)) ∧
  (
  ∀ (s : State) (c : CoreId), 1 ≤ s.level → s.rs.standby = false → (s.core c).locked = none →
    (s.core c).hostLoads = [] → (s.core c).frameWrite = none → (s.core c).entering = none →
    let x := s.core c
    (∀ e, s.deliverable c = some e →
      let taken (y : Core) : Host.Outcome State Fault Refusal :=
        .next ((s.setCore c { y with pend := x.pend.erase e }).takeException c e.vec e.src e.cause e.fa false)
      (x.waiting = .no → exec (.exceptionEntry c .pending) s = taken x) ∧
      (x.waiting = .wfi →
        exec (.exceptionEntry c .pending) s = taken { x with waiting := .no, pc := x.pc + 1 })) ∧
    (∀ (k : Fin 4) t u e, s.deliverable c = none → x.waiting = .no →
      s.fetchWords c x.ring (wordsFrom x.pc k) = (.ok (), t) →
      t.fetchWord c (x.pc + BitVec.ofNat 48 k) x.ring = (.exc e, u) →
      exec (.exceptionEntry c (.fetch k)) s = .next (u.takeSync c e)))

/-- R245: the 64 words of an exception frame. R247, R248: an exception is entered: once the engines hold, the frame is
written and the handler fetched, TSR rises by one block, the ring becomes 0 and the mask level 7 with the flags
unchanged, and PC is at the handler. While the frame write or the fetch waits, the engines hold and the core waits in
the entry. A masked synchronous exception, or one that lacks room, escalates to vector 0, and counts; an escalation
without room locks the core up. The model's readings that it rests on: log entries 41, 89. -/
def Obligations.ExceptionEntered : Prop :=
  (
  ∀ (x : Core) (src vec ovec entryf cause : Nat) (fa : Addr),
    src < 16 → vec < 32 → ovec < 32 → entryf < 2 → cause < 256 →
    let ws := x.frame src vec ovec entryf cause fa
    ws.length = 64 ∧
    ws.getD 0 0 = (1 : BitVec 4) ++ BitVec.ofNat 4 src ++ (0 : BitVec 3) ++ BitVec.ofNat 5 vec ∧
    ws.getD 1 0 = BitVec.ofNat 1 entryf ++ (0 : BitVec 2) ++ BitVec.ofNat 5 ovec ++ BitVec.ofNat 8 cause ∧
    threeWords ws 2 = x.pc ∧ ws.getD 5 0 = x.st ∧ threeWords ws 6 = x.lk ∧ threeWords ws 9 = fa ∧
    (∀ i, i < 16 → ws.getD (12 + i) 0 = get 0 x.g i) ∧ (∀ i, i < 8 → threeWords ws (28 + 3 * i) = get 0 x.a i) ∧
    (∀ i, 52 ≤ i → ws.getD i 0 = 0)) ∧
  (
  ∀ (s : State) (c : CoreId) (vec src cause : Nat) (fa : Addr) (sync : Bool),
    let h := s.holdEngines c
    let x := h.core c
    let masked : Prop := sync = true ∧ h.level_ c vec ≤ x.mask
    let after : State := s.takeException c vec src cause fa sync
    let enters (t : State) (v : Nat) : State := t.setCore c { t.core c with
      tsr := (t.core c).tsr + 64
      st := stOf 0 7 (flagsOf (t.core c).st)
      pc := (t.core c).vbase + BitVec.ofNat 48 (8 * v)
      frameWrite := none
      entering := none }
    let waits (t : State) (esc : Option Nat) : State :=
      t.setCore c { t.core c with entering := some ⟨vec, src, cause, fa, sync, esc⟩ }
    let counted : State := (h.count fXC_ESC_COUNT c).setCore c { x with frameWrite := none }
    let escalates (f : Nat) : Prop :=
      (∀ t, counted.tryEntry c src 0 vec f cause fa = (.ok (), t) → after = enters t 0) ∧
      (∀ t, counted.tryEntry c src 0 vec f cause fa = (.wait, t) → after = waits t (some f))
    (∀ t, ¬masked → x.tsr.toNat + 128 ≤ h.tslim c → h.tryEntry c src vec vec 0 cause fa = (.ok (), t) →
      after = enters t vec) ∧
    (∀ t, ¬masked → x.tsr.toNat + 128 ≤ h.tslim c → h.tryEntry c src vec vec 0 cause fa = (.wait, t) →
      after = waits t none) ∧
    (masked → x.tsr.toNat + 64 ≤ h.tslim c → escalates 0) ∧
    (¬masked → x.tsr.toNat + 64 ≤ h.tslim c → h.tslim c < x.tsr.toNat + 128 → escalates 1) ∧
    (h.tslim c < x.tsr.toNat + 64 →
      (after.core c).locked = some (vec, cause) ∧ (after.core c).pc = x.pc ∧ (after.core c).tsr = x.tsr))

/-- R229, R230: EIS and EISM push a command onto the queue of their engine, with the ring and SYNCCTX in force, when LEN
agrees with bit [10] of word 0 and the queue has room; onto a full queue of a held engine they push nothing and set
its QREFUSED; with a full queue of an engine that is not held they wait. R220, R229: an engine issue on a supervisor
core takes an instruction fault with cause 4. The model's readings that it rests on: log entries 44, 113. -/
def Obligations.EngineIssue : Prop :=
  (
  ∀ (s u : State) (c : CoreId) (eng : Engine) (len : Bool) (rg : BitVec 4) (ra : BitVec 3), c.val < 768 →
    s.begin c 1 = .go u →
    let n := if len then 8 else 4
    let effect (i : Instr) (t : State) (ws : List Half) : Prop :=
      let x := t.core c
      let ch := if (ws.getD 0 0).getLsbD 9 then 1 else 0
      let cmd : EngineCmd := { words := ws, ring := ringOfSt x.st, sync := x.syncctx }
      let past (v : State) : Host.Outcome State Fault Refusal := .next (v.setCore c { v.core c with pc := x.pc + 1 })
      let room : Nat := if eng = .dma then 8 else 16
      let queue : List EngineCmd := match eng with
        | .matrix => (t.mxOf c).queue
        | .vector => (t.vxOf c).queue
        | .dma => (t.chan c ch).queue
      let held : Bool := match eng with
        | .matrix => (t.mxOf c).held
        | .vector => (t.vxOf c).held
        | .dma => (t.dmOf c).held
      ((ws.getD 0 0).getLsbD 10 = len → queue.length < room → exec i s = past (match eng with
        | .matrix => t.setMx c { t.mxOf c with queue := queue ++ [cmd] }
        | .vector => t.setVx c { t.vxOf c with queue := queue ++ [cmd] }
        | .dma => t.setChan c ch { t.chan c ch with queue := queue ++ [cmd] })) ∧
      ((ws.getD 0 0).getLsbD 10 = len → room ≤ queue.length → held = true → exec i s = past (t.setFlag (match eng with
        | .matrix => fMX_STATUS_QREFUSED
        | .vector => fVX_STATUS_QREFUSED
        | .dma => fDM_STATUS_QREFUSED) true c)) ∧
      ((ws.getD 0 0).getLsbD 10 = len → room ≤ queue.length → held = false → exec i s = .next s) ∧
      ((ws.getD 0 0).getLsbD 10 ≠ len → exec i s = .next (t.takeSync c ⟨1, 5, 0, none⟩))
    (rg.toNat % n = 0 →
      effect (.eis c eng len rg) u ((List.range n).map fun i => get 0 (u.core c).g (rg.toNat + i))) ∧
    (rg.toNat % n ≠ 0 → exec (.eis c eng len rg) s = .next (u.takeSync c ⟨1, 2, 0, none⟩)) ∧
    (∀ t ws, u.loadWords c false (get 0 (u.core c).a ra.toNat) n (u.core c).ring = .ok ws t →
      effect (.eism c eng len ra) t ws)) ∧
  (
  ∀ (s u : State) (c : CoreId) (eng : Engine) (len : Bool) (rg : BitVec 4) (ra : BitVec 3), 768 ≤ c.val →
    s.begin c 1 = .go u →
    exec (.eis c eng len rg) s = .next (u.takeSync c ⟨1, 4, 0, none⟩) ∧
    exec (.eism c eng len ra) s = .next (u.takeSync c ⟨1, 4, 0, none⟩))

/-- R231, R289, R291, R292, R295: SIG sends its amount to what its identifier names, or raises a synchronisation fault with
cause 2 on its core; either way PC moves on. R179, R286, R287, R292: WAIT sends its wait to its counter's node, and
its core waits: behind an earlier signal of the core to that node the wait is on its way, and else it is pending
there and the counter is examined; one whose context is free there ends with status 2 at once (log entry 119). A WAIT that names no counter
ends at once with STATUS 3 and a fault with cause 3. An amount above 0xFFFFFF is an instruction fault with cause 6.
The model's readings that it rests on: log entries 45, 90, 118, 119. -/
def Obligations.SignalAndWait : Prop :=
  ∀ (s u : State) (c : CoreId) (glb : Bool) (p : BitVec 3) (ident : BitVec 10), s.begin c 2 = .go u →
    let x := u.core c
    let amount := x.gr (2 * p.toNat) + 0x10000 * x.gr (2 * p.toNat + 1)
    let target := u.syncTarget c x.syncctx glb ident.toNat
    let past (v : State) : Host.Outcome State Fault Refusal := .next (v.setCore c { v.core c with pc := x.pc + 2 })
    let tag : Option Nat := if glb then none else some (bits x.syncctx.toNat 11 0)
    (amount ≤ 0xFFFFFF →
      exec (.sig c glb p ident) s = past (match target with
        | some t => { u with sync := { u.sync with sigs := u.sync.sigs ++ [⟨c, t, amount, false⟩] } }
        | none => u.raise c 11 6 2) ∧
      (∀ k, target = some (.counter k) → ∃ v, exec (.wait c glb p ident) s = .next v ∧
        v.core c = { x with waiting := .counter k } ∧
        let behind : Prop := ∃ m ∈ u.sync.sigs, m.src = c.val ∧ sigNode m = k % 24
        let free : Prop := ∃ n, tag = some n ∧ (u.nodeView (k % 24) n).1 = .free
        let frozen : Bool := match tag with | some n => get false u.sync.parked (k % 24 * 4096 + n) | none => false
        (behind → v.sync = { u.sync with regs := u.sync.regs ++
          [{ ctr := k, wait := ⟨c, amount, tag, false⟩
             ahead := (u.sync.sigs.filter fun m => m.src == c.val && sigNode m == k % 24).length }] }) ∧
        (¬behind → free → v.sync = { u.sync with wakes := u.sync.wakes ++ [⟨c, 2, k⟩] }) ∧
        (¬behind → ¬free →
          let q := examined (u.ctr k).count ((u.ctr k).waits ++ [⟨c, amount, tag, frozen⟩])
          (v.ctr k).count = q.1 ∧ (v.ctr k).waits = q.2.1 ∧
          v.sync.wakes = u.sync.wakes ++ q.2.2.map fun w => ⟨w.who, if (u.ctr k).lost then 1 else 0, k⟩)) ∧
      ((∀ k, target ≠ some (.counter k)) → ∃ v, exec (.wait c glb p ident) s = .next v ∧
        (v.core c).wres = 0xC000 ∧ (v.core c).pc = x.pc + 2 ∧ pends v c 11 6 ∧ v.sync = u.sync)) ∧
    (0xFFFFFF < amount → exec (.sig c glb p ident) s = .next (u.takeSync c ⟨1, 6, 0, none⟩) ∧
      exec (.wait c glb p ident) s = .next (u.takeSync c ⟨1, 6, 0, none⟩))

/-- R219: a reserved opcode completes, whatever its free effects are; when it goes on, the ring of its core has not
changed, and it leaves the registers of every other core alone; else it takes an exception that its ring can take. The
model's readings that it rests on: log entries 6, 8. -/
def Obligations.ReservedOpcodeBounds : Prop :=
  ∀ (s u : State) (c : CoreId), s.begin c (s.lengthAtPc c) = .go u →
    let n := u.freeCount + 1
    (Config.freeBool n = true → ∃ t, exec (.reservedOpcode c) s = .next t ∧ (t.core c).ring = (u.core c).ring ∧
      (t.core c).pc = Config.freeAddr n ∧ ∀ k, k ≠ c.val → SameRegs (u.core k) (t.core k)) ∧
    (Config.freeBool n = false → ∃ (t : State) (e : Exc), exec (.reservedOpcode c) s = .next (t.takeSync c e) ∧
      (e.vec, e.cause) ∈ syncExceptions c (u.core c).ring ∧ (t.core c).ring = (u.core c).ring ∧
      ∀ k, k ≠ c.val → SameRegs (u.core k) (t.core k))

/-- R3, R252 and the access rules of the blocks: a register command of a requester that may not access the register
changes nothing; the requester gets an access error with cause 1. R260, R74, R98, R127, R149, R282: the frames of a
core are its own ring 0's, and management's with debug unlocked; no other requester reads or writes them. The
model's readings that it rests on: log entry 101. -/
def Obligations.RegisterAccess : Prop :=
  (
  ∀ (s : State) (rq : Requester) (c : CoreId) (k : CcId) (ap : Fin 16) (ch : ChanId) (m : PortId) (v : BitVec 32)
    (i : Instr) (blk off w : Nat), registerCommand rq c k ap ch m v i blk off w →
      s.mayAccess rq blk off true w = false → exec i s = denied rq blk off s) ∧
  (
  ∀ (s : State) (rq : Requester) (n o v : Nat) (write : Bool), o < 0x100 → n < 776 →
    let owns : Prop :=
      rq = .management ∧ s.sec.debug = true ∨ ∃ c : CoreId, rq = .core c ∧ c.val = n ∧ (s.core c).ring = 0
    (∀ blk, blk = 10 ∨ blk = 11 ∨ blk = 12 ∨ blk = 14 ∨ blk = 15 ∨ blk = 16 →
      (s.mayAccess rq blk (n * 0x100 + o) write v = true ↔ owns)) ∧
    (∀ p, p < 0x400 → p ≠ 0x40 ∨ write = false →
      (s.mayAccess rq 13 (n * 0x800 + p) write v = true ↔ owns)))

/-- R3, R4, R5: a write of a register takes the written value in its RW bits, clears the W1C bits that are written 1, and
leaves every other bit, and every bit of a half that is not addressed. A field whose table bounds its values keeps its old
value against any other, and the other fields take effect. -/
def Obligations.WriteByAccessCode : Prop :=
  ∀ (r : RegId) (old v i : Nat) (lo hi : Bool), i < 32 → old < 2 ^ 32 →
    let made := plainWritten r old v lo hi
    ((∀ h l ok, (r, h, l, ok) ∉ boundedFields) → (mergeWrite r old v lo hi).testBit i = bitWritten r old v lo hi i) ∧
    (∀ h l ok, (r, h, l, ok) ∈ boundedFields →
      bits (mergeWrite r old v lo hi) h l = if ok (bits made h l) then bits made h l else bits old h l) ∧
    ((∀ h l ok, (r, h, l, ok) ∈ boundedFields → ¬(l ≤ i ∧ i ≤ h)) → (mergeWrite r old v lo hi).testBit i = bitWritten r old v lo hi i)

/-- R3, R5, R252: REGISTER_READ_CLEAR: a 32-bit read answers the register's value and clears its RC fields, a 16-bit read
those of its half, and a 64-bit read is two 32-bit reads; an access that R3 refuses, or that the requester may not make,
answers an access error and changes no register. R3, R4, R252: REGISTER_WRITE: the effect of writing the register, of a
16-bit write that of its half, of a 64-bit write that of two 32-bit writes, and the acknowledgement; a misaligned or 8-bit
access and one that the requester may not make answer an access error and change nothing. A 16-bit write of a write-only
register acts only where every field lies in the half. A register without an effect of its own
takes the value by its access codes. A register with a field whose value the spec leaves open draws free values as
it is read. The model's readings that it rests on: log entries 15, 25, 27, 100, 101. -/
def Obligations.RegisterAccesses : Prop :=
  (
  ∀ (s : State) (rq : Requester) (a : BitVec 48) (blk off u n : Nat) (r : RegId),
    a.toNat = regAddr blk off → blk ≤ 16 → off < 0x1000000 →
    (off % 4 = 0 → s.mayAccess rq blk off false 0 = true → findReg blk off = some (r, u, n) →
      r ∉ [RegId.msRate, .mxStatus, .vxStatus] →
      ∃ t, exec (.registerReadClear rq a .b32) s = .next { t with
          out := .regData rq a.toNat (s.regValue r u n % 2 ^ 32) :: t.out } ∧
        { t with regs := s.regs } = s ∧
        (accMask r .rc = 0 → t = s) ∧
        (∀ i, i < 32 → (t.reg r u n).testBit i = ((s.reg r u n).testBit i && !(accMask r .rc).testBit i)) ∧
        (∀ q w m, regKey q w m ≠ regKey r u n → t.reg q w m = s.reg q w m)) ∧
    (off % 4 = 0 → s.mayAccess rq blk off false 0 = true → findReg blk off = some (r, u, n) →
      r ∈ [RegId.msRate, .mxStatus, .vxStatus] →
      exec (.registerReadClear rq a .b32) s = .next { s with
        freeCount := s.freeCount + 2, out := .regData rq a.toNat (s.regValue r u n % 2 ^ 32) :: s.out }) ∧
    (off % 4 = 0 → s.mayAccess rq blk off false 0 = false →
      exec (.registerReadClear rq a .b32) s = .next { s with out := .accessError rq a.toNat 1 :: s.out }) ∧
    (off % 4 ≠ 0 →
      exec (.registerReadClear rq a .b32) s = .next { s with out := .accessError rq a.toNat 2 :: s.out }) ∧
    exec (.registerReadClear rq a .b8) s = .next { s with out := .accessError rq a.toNat 2 :: s.out } ∧
    (off % 4 ≠ 0 → exec (.registerReadClear rq a .b64) s = .next { s with out := .accessError rq a.toNat 2 :: s.out }) ∧
    (off % 2 ≠ 0 → exec (.registerReadClear rq a .b16) s = .next { s with out := .accessError rq a.toNat 2 :: s.out }) ∧
    (off % 2 = 0 →
      let h := off / 2 % 2
      (s.mayAccess rq blk (off / 4 * 4) false 0 = false →
        exec (.registerReadClear rq a .b16) s = .next { s with out := .accessError rq a.toNat 1 :: s.out }) ∧
      (s.mayAccess rq blk (off / 4 * 4) false 0 = true → findReg blk (off / 4 * 4) = some (r, u, n) →
        r ∉ [RegId.msRate, .mxStatus, .vxStatus] →
        ∃ t : State, exec (.registerReadClear rq a .b16) s = .next { t with
            out := .regData rq a.toNat (s.regValue r u n / 2 ^ (16 * h) % 2 ^ 16) :: t.out } ∧
          { t with regs := s.regs } = s ∧
          (∀ i, i < 32 → (t.reg r u n).testBit i =
            ((s.reg r u n).testBit i && !((accMask r .rc).testBit i && decide (i / 16 = h)))) ∧
          ∀ q w m, regKey q w m ≠ regKey r u n → t.reg q w m = s.reg q w m)) ∧
    (off % 4 = 0 → off + 4 < 0x1000000 →
      (s.mayAccess rq blk off false 0 = false →
        exec (.registerReadClear rq a .b64) s = .next { s with out := .accessError rq a.toNat 1 :: s.out }) ∧
      (∀ q w m, s.mayAccess rq blk off false 0 = true → s.mayAccess rq blk (off + 4) false 0 = true →
        findReg blk off = some (r, u, n) → findReg blk (off + 4) = some (q, w, m) → accMask r .rc = 0 → accMask q .rc = 0 →
        r ∉ [RegId.msRate, .mxStatus, .vxStatus] → q ∉ [RegId.msRate, .mxStatus, .vxStatus] →
        exec (.registerReadClear rq a .b64) s = .next { s with
          out := .regData rq a.toNat (s.regValue r u n % 2 ^ 32 + s.regValue q w m % 2 ^ 32 * 2 ^ 32) :: s.out }))) ∧
  (
  ∀ (s : State) (rq : Requester) (a : BitVec 48) (v : BitVec 64) (blk off u n : Nat) (r : RegId),
    a.toNat = regAddr blk off → blk ≤ 16 → off < 0x1000000 →
    let w := v.toNat % 2 ^ 32
    (off % 4 = 0 → s.mayAccess rq blk off true w = true → findReg blk off = some (r, u, n) →
      exec (.registerWrite rq a .b32 v) s = acked rq blk off (s.writeReg rq r u n w true true)) ∧
    (∀ q ∈ [RegId.mgAlertEn, .spTimeout, .dmTimeout, .drScrubper, .xcDevroute, .xcVlvl, .rsLockdly],
      s.writeReg rq q u n w true true = s.setReg q u n (mergeWrite q (s.reg q u n) w true true)) ∧
    (off % 4 = 0 → s.mayAccess rq blk off true w = false →
      exec (.registerWrite rq a .b32 v) s = denied rq blk off s) ∧
    (off % 4 ≠ 0 →
      exec (.registerWrite rq a .b32 v) s = .next { s with out := .accessError rq a.toNat 2 :: s.out }) ∧
    exec (.registerWrite rq a .b8 v) s = .next { s with out := .accessError rq a.toNat 2 :: s.out } ∧
    (off % 4 ≠ 0 → exec (.registerWrite rq a .b64 v) s = .next { s with out := .accessError rq a.toNat 2 :: s.out }) ∧
    (off % 2 ≠ 0 → exec (.registerWrite rq a .b16 v) s = .next { s with out := .accessError rq a.toNat 2 :: s.out }) ∧
    (off % 2 = 0 →
      let h := off / 2 % 2
      let x := v.toNat % 2 ^ 16 * 2 ^ (16 * h)
      let within : Prop := ∀ f ∈ regFields r, 16 * h ≤ f.lo ∧ f.hi < 16 * h + 16
      (s.mayAccess rq blk (off / 4 * 4) true x = false → exec (.registerWrite rq a .b16 v) s = denied rq blk off s) ∧
      (s.mayAccess rq blk (off / 4 * 4) true x = true → findReg blk (off / 4 * 4) = some (r, u, n) →
        ((∃ f ∈ regFields r, f.acc ≠ .wo) ∨ within ∨ r = .pxHbeat → exec (.registerWrite rq a .b16 v) s =
          acked rq blk off (s.writeReg rq r u n x (h == 0) (h == 1))) ∧
        ((∀ f ∈ regFields r, f.acc = .wo) → ¬within → r ≠ .pxHbeat →
          exec (.registerWrite rq a .b16 v) s = acked rq blk off s))) ∧
    (off % 4 = 0 → off + 4 < 0x1000000 → s.mayAccess rq blk off true w = true → findReg blk off = some (r, u, n) →
      let w' := v.toNat / 2 ^ 32
      let first := s.writeReg rq r u n w true true
      (s.mayAccess rq blk (off + 4) true w' = false →
        exec (.registerWrite rq a .b64 v) s = .next { first with out := .accessError rq a.toNat 1 :: first.out }) ∧
      ∀ q y m, s.mayAccess rq blk (off + 4) true w' = true → findReg blk (off + 4) = some (q, y, m) →
        exec (.registerWrite rq a .b64 v) s = acked rq blk off (first.writeReg rq q y m w' true true)))

/-- R258: the timer event is raised once for an arming, when TEN is set and XC_TNOW stands at XC_TCMP or beyond it; a
write of either half of XC_TCMP, or one that sets TEN, arms it again. A write of a core number to XC_SWI raises a
software interrupt on that core. R253, R257: INVPAGE and INVALL take entries out of the TLB; a walk that ends well
enters its page as the most recently used, and one that ends in a fault of any cause enters nothing. A page that is
held, or lies beyond the virtual space, has no walk. The model's readings that it rests on: log entries 28, 97. -/
def Obligations.TimersAndTlb : Prop :=
  (
  ∀ (s : State) (rq : Requester) (c : CoreId) (v : BitVec 32),
    let due (t : State) : Prop := t.flag fXC_CTRL_TEN c = true ∧ t.tcmp c ≤ t.clock - t.resetAt
    let fires (t : State) : State := raised (t.setCore c { t.core c with timerRaised := true }) c 12 7 0
    let armed (t : State) : State := t.setCore c { t.core c with timerRaised := false }
    (due s → (s.core c).timerRaised = false → exec (.timer c) s = .next (fires s)) ∧
    (¬due s ∨ (s.core c).timerRaised = true → exec (.timer c) s = .next s) ∧
    (∀ what r off, (what, r, off) ∈ [(TimerReg.tcmpLo, RegId.xcTcmpLo, 0x24), (TimerReg.tcmpHi, RegId.xcTcmpHi, 0x28)] →
      s.mayAccess rq 10 (c.val * 0x100 + off) true v.toNat = true →
      let t := armed (s.setReg r c 0 v.toNat)
      t.reg r c 0 = v.toNat ∧
      (due t → exec (.timerArm rq c what v) s = acked rq 10 (c.val * 0x100 + off) (fires t)) ∧
      (¬due t → exec (.timerArm rq c what v) s = acked rq 10 (c.val * 0x100 + off) t)) ∧
    (s.mayAccess rq 10 (c.val * 0x100 + 0x20) true v.toNat = true →
      let t := armed (s.setFlag fXC_CTRL_TEN true c)
      (v.getLsbD 0 = true → due t → exec (.timerArm rq c .ctrl v) s = acked rq 10 (c.val * 0x100 + 0x20) (fires t)) ∧
      (v.getLsbD 0 = true → ¬due t → exec (.timerArm rq c .ctrl v) s = acked rq 10 (c.val * 0x100 + 0x20) t) ∧
      (v.getLsbD 0 = false →
        exec (.timerArm rq c .ctrl v) s = acked rq 10 (c.val * 0x100 + 0x20) (s.setFlag fXC_CTRL_TEN false c))) ∧
    (s.mayAccess rq 10 0x80008 true v.toNat = true →
      (v.toNat % 1024 < 776 →
        exec (.softwareInterrupt rq v) s = acked rq 10 0x80008 (raised s (v.toNat % 1024) 13 8 0)) ∧
      (776 ≤ v.toNat % 1024 → exec (.softwareInterrupt rq v) s = acked rq 10 0x80008 s))) ∧
  (
  ∀ (s : State) (rq : Requester) (c : CoreId) (va : Addr) (kind : AccessKind) (ring : BitVec 2),
    let x := s.core c
    let page := 2 * va.toNat / 0x10000
    (s.mayAccess rq 11 (c.val * 0x100) true 2 = true →
      exec (.invpage rq c) s = acked rq 11 (c.val * 0x100) (s.setCore c { x with
        tlb := x.tlb.filter fun e => e.page != 2 * s.pairAddr .trInvvaLo .trInvvaHi c / 0x10000 })) ∧
    (s.mayAccess rq 11 (c.val * 0x100) true 1 = true →
      exec (.invall rq c) s = acked rq 11 (c.val * 0x100) (s.setCore c { x with tlb := [] })) ∧
    (2 ^ 39 ≤ va.toNat ∨ (∃ e ∈ x.tlb, e.page = page) → exec (.tableWalk c va kind ring) s = .next s) ∧
    (va.toNat < 2 ^ 39 → (∀ e ∈ x.tlb, e.page ≠ page) →
      (∀ e t, s.walkEntries c page = (.ok e, t) →
        let admitted : Prop := ring.toNat ≤ e.ring.toNat ∧
          (match kind with | .read => e.r | .write => e.w | .fetch => e.x) = true
        ∃ u, exec (.tableWalk c va kind ring) s = .next u ∧
          u.fld fTR_STATUS_WALKS c = min (t.fld fTR_STATUS_WALKS c + 1) 0xFFFF ∧
          (admitted → (u.core c).tlb = (e :: x.tlb).take 64 ∧ u.fld fTR_STATUS_FAULTS c = t.fld fTR_STATUS_FAULTS c) ∧
          (¬admitted → (u.core c).tlb = x.tlb ∧
            u.fld fTR_STATUS_FAULTS c = min (t.fld fTR_STATUS_FAULTS c + 1) 0xFFFF)) ∧
      (∀ cause t, s.walkEntries c page = (.err cause, t) →
        ∃ u, exec (.tableWalk c va kind ring) s = .next u ∧ (u.core c).tlb = x.tlb ∧
          u.fld fTR_STATUS_WALKS c = min (t.fld fTR_STATUS_WALKS c + 1) 0xFFFF ∧
          u.fld fTR_STATUS_FAULTS c = min (t.fld fTR_STATUS_FAULTS c + 1) 0xFFFF) ∧
      (∀ t, s.walkEntries c page = (.wait, t) → exec (.tableWalk c va kind ring) s = .next s)))

/-- R270: a write that sets an enable bit needs the clean flag, else it sets ENREF; one that clears an enable bit clears
the clean flag. R264, R265, R271, R272: a line that arrives is allocated as the most recently used of its set,
unless its allocation was cancelled or its cache is off; a range operation starts when none is in progress and a
target is named, else it sets RERR; its completion leaves no line that it marked in a cache it names, and sets the
clean flag of a cache that it emptied. The model's readings that it rests on: log entries 35, 38, 114, 115. -/
def Obligations.CacheCommands : Prop :=
  (
  ∀ (s : State) (rq : Requester) (c : CoreId) (v : BitVec 32),
    let after (on en clean : Bool) : Bool × Bool × Bool :=
      (on && (en || clean), clean && !(!on && en), on && !en && !clean)
    (s.mayAccess rq 12 (c.val * 0x100) true v.toNat = true →
      ∃ t, exec (.cacheEnable rq (.core c) v) s = acked rq 12 (c.val * 0x100) t ∧
        let i := after (v.getLsbD 0) (s.flag fCF_CTRL_IEN c) (s.flag fCF_STATUS_ICLEAN c)
        let d := after (v.getLsbD 1) (s.flag fCF_CTRL_DEN c) (s.flag fCF_STATUS_DCLEAN c)
        t.flag fCF_CTRL_IEN c = i.1 ∧ t.flag fCF_STATUS_ICLEAN c = i.2.1 ∧
        t.flag fCF_CTRL_DEN c = d.1 ∧ t.flag fCF_STATUS_DCLEAN c = d.2.1 ∧
        t.flag fCF_STATUS_ENREF c = (s.flag fCF_STATUS_ENREF c || i.2.2 || d.2.2) ∧ t.cores = s.cores) ∧
    (s.mayAccess rq 12 0x80000 true v.toNat = true →
      ∃ t, exec (.cacheEnable rq .l2 v) s = acked rq 12 0x80000 t ∧
        let e := after (v.getLsbD 0) (s.flag fCF_L2CTRL_EN) (s.flag fCF_L2STATUS_CLEAN)
        t.flag fCF_L2CTRL_EN = e.1 ∧ t.flag fCF_L2STATUS_CLEAN = e.2.1 ∧
        t.flag fCF_L2STATUS_ENREF = (s.flag fCF_L2STATUS_ENREF || e.2.2) ∧ t.l2 = s.l2)) ∧
  (
  (∀ (s : State) (n : CacheName) (a : Nat) (m : MissReg),
    let line := a / 64 * 64
    ((s.cache n).miss.find? (·.line == line) = some m →
      ∃ t, exec (.lineFill n a) s = .next t ∧ (t.cache n).miss = (s.cache n).miss.erase m ∧
        (m.cancelled = false → s.cacheOn n = true → ∃ w r,
          (t.cache n).lines (cacheSet n line) = { way := w, line := line, data := m.data } :: r ∧
          ∀ l ∈ r, l ∈ (s.cache n).lines (cacheSet n line) ∧ l.line ≠ line) ∧
        (m.cancelled = true ∨ s.cacheOn n = false → (t.cache n).sets = (s.cache n).sets)) ∧
    ((s.cache n).miss.find? (·.line == line) = none → exec (.lineFill n a) s = .next s)) ∧
  (∀ (s : State) (rq : Requester) (c : CoreId) (v : BitVec 32),
    s.mayAccess rq 12 (c.val * 0x100 + 0x14) true v.toNat = true →
    let l2 := v.getLsbD 2 && decide (768 ≤ c.val)
    let named : Prop := v.getLsbD 0 = true ∨ v.getLsbD 1 = true ∨ l2 = true
    ∃ t, exec (.rangeOperation rq c v) s = acked rq 12 (c.val * 0x100 + 0x14) t ∧
      ((s.core c).range = none → named → ∃ r : RangeOp, (t.core c).range = some r ∧ r.i = v.getLsbD 0 ∧
        r.d = v.getLsbD 1 ∧ r.l2 = l2 ∧ r.all = v.getLsbD 3) ∧
      ((s.core c).range ≠ none ∨ ¬named → t = s.setFlag fCF_STATUS_RERR true c)) ∧
  (∀ (s : State) (c : CoreId) (r : RangeOp), (s.core c).range = some r → r.ahead = [] →
    ∃ t, exec (.rangeComplete c) s = .next t ∧ (t.core c).range = none ∧
      (∀ n ∈ r.caches c, ∀ set, set < cacheSets n → ∀ l ∈ (t.cache n).lines set, c.val ∉ l.doomed) ∧
      (r.all = true → (r.i = true → t.flag fCF_STATUS_ICLEAN c = true) ∧
        (r.d = true → t.flag fCF_STATUS_DCLEAN c = true) ∧ (r.l2 = true → t.flag fCF_L2STATUS_CLEAN = true))))

/-- R285, R287: COUNTER_SIGNAL: a signal whose turn has come adds its amount, and the count stops at 0xFFFFFF with a
synchronisation fault with cause 1 on the home core; the pending waits are then examined in registration order, and
waits of its source that were on their way behind it come to their nodes. One whose turn has not come changes
nothing. R291, R292, R294: WAIT_COMPLETE: WRES takes the status and the counter, PC moves past the WAIT, and the
core waits no more; the context engine notes that its wait is done and, on a primary, closes. R295, R296:
CONTEXT_NOTICE: at the node that it reaches, the waits of a parked context freeze, those of one that is resumed do
not stay frozen, and those of one that is free are gone; the other nodes' counters are as before. A counter that holds waits
of the context has them re-armed and is examined in registration order; when the context is free they complete with STATUS 2
and subtract nothing. The model's
readings that it rests on: log entries 45, 90, 118, 119. -/
def Obligations.CountersAndWaits : Prop :=
  (
  ∀ (s : State) (i src p n : Nat) (lost : Bool), s.sync.sigs[i]? = some ⟨src, .counter p, n, lost⟩ →
    let x := s.ctr p
    (s.sigReady i = true → ∃ t, exec (.counterSignal i) s = .next (t.dueWaits src (p % 24)) ∧
      Settled s t p (min (x.count + n) 0xFFFFFF) (x.lost || lost) ∧ t.sync.sigs = s.sync.sigs.eraseIdx i ∧
      (0xFFFFFF < x.count + n → pends t x.home 11 6) ∧ (x.count + n ≤ 0xFFFFFF → t.cores = s.cores) ∧
      ((∀ e ∈ s.sync.regs, e.wait.who ≠ src) → t.dueWaits src (p % 24) = t)) ∧
    (s.sigReady i = false → exec (.counterSignal i) s = .next s)) ∧
  (
  ∀ (s : State) (i : Nat) (w : WakeMsg), s.sync.wakes[i]? = some w →
    ∃ t, exec (.waitComplete i) s = .next t ∧ t.sync.wakes = s.sync.wakes.eraseIdx i ∧
      (w.who ≠ 776 → w.status < 4 → w.cnt < 0x4000 →
        t.core w.who = { s.core w.who with
          wres := BitVec.ofNat 2 w.status ++ BitVec.ofNat 14 w.cnt, pc := (s.core w.who).pc + 2, waiting := .no } ∧
        (∀ k, k ≠ w.who → t.core k = s.core k)) ∧
      (w.who = 776 → t.cx.done = true ∧ t.cores = s.cores ∧
        (s.cx.phase = .running → s.cx.released = true → s.flag fCX_CFG_ROLE = false → t.cx.phase = .closing))) ∧
  (
  ∀ (s : State) (node : ClusterId) (ctx : CtxId) (n : Notice),
    s.sync.notices.find? (fun n => n.node == node.val && n.ctx == ctx.val) = some n →
    ∃ t, exec (.contextNotice node ctx) s = .next t ∧
      (∀ p, p % 24 ≠ node.val → t.ctr p = s.ctr p) ∧
      (n.state = .parked → ∀ p, p % 24 = node.val → ∀ w ∈ (t.ctr p).waits, w.tag = some ctx.val → w.frozen = true) ∧
      (n.state ≠ .parked → n.state ≠ .free →
        ∀ p, p % 24 = node.val → ∀ w ∈ (t.ctr p).waits, w.tag = some ctx.val → w.frozen = false) ∧
      (n.state = .free → ∀ p, p % 24 = node.val → ∀ w ∈ (t.ctr p).waits, w.tag ≠ some ctx.val) ∧
      ∀ p, p % 24 = node.val → (∃ w ∈ (s.ctr p).waits, w.tag = some ctx.val) →
        let x := s.ctr p
        let ends (done : List WakeMsg) : Prop :=
          t.sync.wakes.filter (·.cnt == p) = s.sync.wakes.filter (·.cnt == p) ++ done
        let q := examined x.count (x.waits.map fun w =>
          if w.tag = some ctx.val then { w with frozen := n.state == .parked } else w)
        (n.state = .free → (t.ctr p).count = x.count ∧ (t.ctr p).waits = x.waits.filter (·.tag != some ctx.val) ∧
          ends ((x.waits.filter (·.tag == some ctx.val)).map fun w => ⟨w.who, 2, p⟩)) ∧
        (n.state ≠ .free → (t.ctr p).count = q.1 ∧ (t.ctr p).waits = q.2.1 ∧
          ends (q.2.2.map fun w => ⟨w.who, if x.lost then 1 else 0, p⟩)))

/-- R298: a barrier signal adds to the accumulator of its local node; what reaches the expectation goes on to the die
node, and an arrival at a node without an expectation is dropped with a synchronisation fault with cause 4. R298,
R299: DIE_NODE_ARRIVAL of a barrier without TORUS: the count rises by one; when it reaches the number of local nodes
with an expectation, the round completes, the exit counter is signalled with EXITINC and status OK, and the count
loses that number, as often as it is due. R299: an arrival of a child is kept with its status until its round completes; at the root the
round is released with that status. A release from the parent is passed on with its status. Neither happens for a
link or a round that the barrier does not have. The model's readings that it rests on: log entries 63, 64. -/
def Obligations.BarrierArrivals : Prop :=
  (
  ∀ (s : State) (i src bn n : Nat) (lost : Bool), s.sync.sigs[i]? = some ⟨src, .barrier bn, n, lost⟩ →
    s.sigReady i = true →
    let node := if src < 768 then src / 32 else 24
    let b := s.bar bn
    let e := get 0 b.exp node
    let sum := min (get 0 b.acc node + n) 0xFFFFFF
    ∃ t, exec (.localNodeArrival i) s = .next t ∧ t.sync.sigs = s.sync.sigs.eraseIdx i ∧
      (e = 0 → src < 776 → pends t src 11 6 ∧ t.sync.dieArrivals = s.sync.dieArrivals) ∧
      (0 < e → get 0 (t.bar bn).acc node = sum % e ∧
        (sum < e → t.sync.dieArrivals = s.sync.dieArrivals) ∧
        (e ≤ sum → t.sync.dieArrivals = s.sync.dieArrivals ++ [(bn, node, sum / e)]) ∧
        (0xFFFFFF < get 0 b.acc node + n → pends t b.homeCore 11 6))) ∧
  (
  ∀ (s : State) (i bn n c : Nat), s.sync.dieArrivals[i]? = some (bn, n, c) →
    let b := s.bar bn
    b.children = [] → b.parent = none → b.lostParent = false → b.die < 0xFFFFFF →
    ∃ t, exec (.dieNodeArrival i) s = .next t ∧
      (b.locals = 0 ∨ b.die + 1 < b.locals → (t.bar bn).die = b.die + 1 ∧ (t.bar bn).rounds = b.rounds ∧
        t.sync.sigs = s.sync.sigs) ∧
      (0 < b.locals → b.locals ≤ b.die + 1 →
        let q := (b.die + 1) / b.locals
        (t.bar bn).die = (b.die + 1) % b.locals ∧ (t.bar bn).rounds = (b.rounds + q) % 0x1000000 ∧
        t.sync.sigs = s.sync.sigs ++
          List.replicate q ⟨777, .counter (bits b.cfg.toNat 13 0), bits b.inc.toNat 23 0, false⟩)) ∧
  (
  ∀ (s : State) (link : LinkId) (bar : BarrierId) (lost : Bool),
    let b := s.bar bar
    let exit (status : Bool) : SigMsg := ⟨777, .counter (bits b.cfg.toNat 13 0), bits b.inc.toNat 23 0, status⟩
    (link.val ∉ b.children → exec (.barrierArrival link bar lost) s = .next s) ∧
    (link.val ∈ b.children → b.die < b.locals →
      ∃ t, exec (.barrierArrival link bar lost) s = .next t ∧
        get [] (t.bar bar).kids link = get [] b.kids link ++ [lost] ∧ t.sync.sigs = s.sync.sigs) ∧
    (b.children = [link.val] → b.locals = 0 → b.die = 0 → b.kids = [] → b.lostKids = [] → b.parent = none →
      b.lostParent = false →
      ∃ t, exec (.barrierArrival link bar lost) s = .next t ∧ (t.bar bar).lastLost = lost ∧
        t.sync.sigs = s.sync.sigs ++ [exit lost]) ∧
    (b.pendingUp = [] → exec (.barrierRelease bar lost) s = .next s) ∧
    (∀ o r, b.pendingUp = o :: r →
      ∃ t, exec (.barrierRelease bar lost) s = .next t ∧ (t.bar bar).pendingUp = r ∧ (t.bar bar).lastLost = lost ∧
        t.sync.sigs = s.sync.sigs ++ [exit lost]))

/-- R290, R303: a hand-setting sets the count of the selected counter and examines its waits; a translation write sets
the selected per-context entry, and one to the device-wide table is ignored. The model's readings that it rests on:
log entry 87. -/
def Obligations.SyncRegisterWrites : Prop :=
  ∀ (s : State) (rq : Requester) (v : BitVec 32),
    (s.mayAccess rq 5 8 true v.toNat = true →
      ∃ t, exec (.handSetting rq v) s = acked rq 5 8 t ∧
        Settled s t (s.fld fSY_CNT_SEL_CNT) (v.toNat % 0x1000000) (s.ctr (s.fld fSY_CNT_SEL_CNT)).lost ∧
        t.cores = s.cores) ∧
    (s.mayAccess rq 5 0x14 true v.toNat = true →
      (s.flag fSY_XLAT_SEL_GLB = true → exec (.translationWrite rq v) s = acked rq 5 0x14 s) ∧
      (s.flag fSY_XLAT_SEL_GLB = false →
        ∃ t, exec (.translationWrite rq v) s = acked rq 5 0x14 t ∧ t.sync.xlatGlb = s.sync.xlatGlb ∧
          get 0 t.sync.xlat (s.fld fSY_XLAT_SEL_ENTRY) = v.setWidth 16 ∧
          ∀ e, e ≠ s.fld fSY_XLAT_SEL_ENTRY → get 0 t.sync.xlat e = get 0 s.sync.xlat e))

/-- R340: the torus neighbour across a link differs in the link's dimension alone, by +1 or −1 modulo its size; in a
dimension of size 2 both links reach the same device. -/
def Obligations.TorusNeighbours : Prop :=
  ∀ (sizes : List Nat) (c k : Nat), sizes.length = 4 → (∀ n ∈ sizes, 1 ≤ n ∧ n ≤ 16) → k < 8 → c < 0x10000 →
    (∀ d, d < 4 → coordOf c d < sizes.getD d 1) →
    let d := k / 2
    let n := sizes.getD d 1
    (∀ e, e < 4 → e ≠ d → coordOf (torusNeighbour sizes c k) e = coordOf c e) ∧
    (k % 2 = 0 → coordOf (torusNeighbour sizes c k) d = (coordOf c d + 1) % n) ∧
    (k % 2 = 1 → (coordOf (torusNeighbour sizes c k) d + 1) % n = coordOf c d) ∧
    (n = 2 → torusNeighbour sizes c (2 * d) = torusNeighbour sizes c (2 * d + 1))

/-- R76, R80, R91: an element-wise vector command computes every element of VD from the same elements of VA, VB and VC
and leaves the queue; a saturation sets VX_STATUS.SAT; nothing else changes. R81, R82, R83, R85, R86, R87: VBC,
VCVT, the special functions and the reductions write VD and leave the queue. The model's readings that it rests on:
log entries 14, 112. -/
def Obligations.VectorRegisters : Prop :=
  (
  ∀ (s : State) (k : CcId) (c : EngineCmd) (r : List EngineCmd) (f : Fmt), vxHead s k c r →
    (s.spOf k).scoreboard.length < 16 → c.opcode = 0 → c.vfmt = some f →
    let x := s.vxOf k
    let at_ (reg j : Nat) : Nat := (x.elems reg f).getD j 0
    let row (j : Nat) := vopForms k f (at_ c.vfa j) (at_ c.vfb j) (at_ (bits (c.w 2) 4 0) j)
    ∀ n < 20, ∀ i g, (∃ v, (row 0)[n]? = some (i, g, v)) → c.vfunc = g →
      let res (j : Nat) : Nat × Bool := (((row j)[n]?).map (·.2.2)).getD (0, false)
      let all := (List.range (elemCount f)).map res
      ∃ t, exec i s = .next t ∧
        onlyVx k (if all.any (·.2) then s.setFlag fVX_STATUS_SAT true k else s) t ∧
        t.vxOf k = { x with queue := r, progress := progressLeft x, v := put [] x.v c.vd (packElems f (all.map (·.1))) }) ∧
  (
  ∀ (s : State) (k : CcId) (c : EngineCmd) (r : List EngineCmd), vxHead s k c r → (s.spOf k).scoreboard.length < 16 →
    let x := s.vxOf k
    let ends (i : Instr) (sat : Bool) (d : SMap Byte) : Prop := ∃ t, exec i s = .next t ∧
      onlyVx k (if sat then s.setFlag fVX_STATUS_SAT true k else s) t ∧
      t.vxOf k = { x with queue := r, progress := progressLeft x, v := put [] x.v c.vd d }
    (∀ f, c.opcode = 4 → c.vfmt = some f → ends (.vbc k) false (packElems f (List.replicate (elemCount f)
      (if (c.w 0).testBit 5 then c.w 2 + 0x10000 * c.w 3 else (x.elems c.vfa f).getD (c.w 2 % 0x100) 0)))) ∧
    (∀ a b, c.opcode = 1 → c.vfmt = some a → fmtOfCode (bits (c.w 2) 15 12) = some b →
      let na := elemCount a
      let nb := elemCount b
      let part := bits (c.w 2) 3 2
      let conv (j : Nat) : Nat × Bool := cvtElem a b (bits (c.w 2) 1 0) ((x.elems c.vfa a).getD j 0)
      (na ≤ nb → ends (.vcvt k) ((List.range na).any fun j => (conv j).2)
        (packElems b ((List.range nb).map fun j => if part * na ≤ j ∧ j < part * na + na then (conv (j - part * na)).1
          else (x.elems c.vd b).getD j 0))) ∧
      (nb < na → ends (.vcvt k) ((List.range nb).any fun j => (conv (part * nb + j)).2)
        (packElems b ((List.range nb).map fun j => (conv (part * nb + j)).1)))) ∧
    (∀ i g fn, (i, g, fn) ∈ [(Instr.exp2 k, 0, sfnExp2), (.log2 k, 1, sfnLog2), (.rcp k, 2, sfnRcp), (.rsqrt k, 3, sfnRsqrt)] →
      c.opcode = 2 → c.vfunc = g → ends i false (packElems .f32 ((x.elems c.vfa .f32).map fn))) ∧
    (∀ f, c.opcode = 3 → c.vfmt = some f →
      let lane (j : Nat) : Nat := (x.elems c.vfa f).getD j 0
      (c.vfunc = 0 → let t := laneTree (sumLanes f) (fun j => (lane j, false)) 6 0
        ends (.vredSum k) t.2 (packElems .i32 [t.1, 0])) ∧
      (c.vfunc = 1 → ends (.vredMax k) false (packElems .i32 [laneTree (numMax f) lane 6 0, 0])) ∧
      (c.vfunc = 2 → ends (.vredMin k) false (packElems .i32 [laneTree (numMin f) lane 6 0, 0])) ∧
      (c.vfunc = 3 → ∃ n < 64, (∀ m < 64, selectRank f (lane m) ≤ selectRank f (lane n)) ∧
        (∀ m < n, selectRank f (lane m) < selectRank f (lane n)) ∧
        ends (.argmax k) false (packElems .i32 [canonical f (lane n), n]))))

/-- R88, R89, R90, R93: VLD, VST, VSTRM and VTOPK.S run over their chunks, from the recorded one on, in order. The
model's readings that it rests on: log entries 15, 111. -/
def Obligations.VectorMemory : Prop :=
  ∀ (s : State) (k : CcId) (c : EngineCmd) (r : List EngineCmd) (rd wr : List (Nat × PageIs)) (t : State),
    vxHead s k c r → vxSpans s k c rd wr t →
    let x := t.vxOf k
    let m := vxFirst x c
    let N := vxChunks c
    m < N →
    let bytes (u : State) (n : Nat) : List Byte := chunkBytes u k rd (vxChunk c n)
    let left (u : State) : Prop := (u.vxOf k).queue = r ∧ (u.vxOf k).progress = progressLeft x ∧ (u.vxOf k).held = false
    (c.opcode = 8 → ∃ u, exec (.vld k) s = .next u ∧ onlyVx k t u ∧ left u ∧
      (∀ n, m ≤ n → n < N → (u.vxOf k).reg (c.vd + n) = ofBytes 0 (bytes t n)) ∧
      ∀ g, g < c.vd + m ∨ c.vd + N ≤ g → (u.vxOf k).reg g = x.reg g) ∧
    (c.opcode = 9 → ∃ u, exec (.vst k) s = .next u ∧ left u ∧
      onlyVx k ((span m (N - m)).foldl (fun v n => (v.writeSpan k wr (vxChunk c n) (getBytes 0 (x.reg (c.vd + n)) 0 256)).2) t) u ∧
      ∀ g, (u.vxOf k).reg g = x.reg g) ∧
    (c.opcode = 0xC → ∃ (u : State) (f : Nat → State), exec (.vstrm k) s = .next u ∧ left u ∧ onlyVx k (f N) u ∧ f m = t ∧
      (∀ g, (u.vxOf k).reg g = ((f N).vxOf k).reg g) ∧
      ∀ n, m ≤ n → n < N →
        let y := List.zipWith (fun v bc => streamOp2 (bits (c.w 0) 3 1) (streamOp1 (bits (c.w 0) 6 4) v bc.1 bc.2))
          (lanesOf (bytes (f n) n)) (List.zip (x.elems c.vfa .f32) (x.elems c.vfb .f32))
        onlyVx k (if (c.w 0).testBit 9 then ((f n).writeSpan k wr (vxDest c n) (y.flatMap (leBytes 4))).2 else f n) (f (n + 1)) ∧
        (∀ g, g ≠ c.vd ∨ bits (c.w 0) 8 7 = 0 → ((f (n + 1)).vxOf k).reg g = ((f n).vxOf k).reg g) ∧
        (bits (c.w 0) 8 7 ≠ 0 → ((f (n + 1)).vxOf k).reg c.vd =
          packElems .f32 (List.zipWith (streamRed (bits (c.w 0) 8 7)) (((f n).vxOf k).elems c.vd .f32) y))) ∧
    (c.opcode = 0xD → ∃ u, exec (.vtopkS k) s = .next u ∧ onlyVx k t u ∧ left u ∧
      (∀ g, g ≠ c.vd → g ≠ c.vd + 1 → (u.vxOf k).reg g = x.reg g) ∧
      let l := (span m (N - m)).foldl (fun l n => topChunk c l n (bytes t n))
        (if m = 0 ∧ (c.w 0).testBit 9 = false then [] else topList x c)
      (u.vxOf k).reg c.vd = packElems .f32 (l.map (·.1) ++ List.replicate (64 - l.length) 0xFF800000) ∧
      (u.vxOf k).reg (c.vd + 1) = packElems .i32 (l.map (·.2) ++ List.replicate (64 - l.length) 0xFFFFFFFF))

/-- R45, R46, R48, R54, R57, R66, R77–R79, R82, R94: a head command that breaks a check stops with the lowest cause it
breaks: opcode, length and reserved fields give 1, formats, functions and pairs 2, shapes and ranges 3, spans 4; the engine
holds, its fault register names the cause and the opcode, and the core gets an exception. No head issues from an engine
that is held or from an empty queue. The model's readings that it rests on: log entries 15, 16, 21, 111, 135. -/
def Obligations.EngineStops : Prop :=
  (∀ (c : EngineCmd), lowestCause (vectorBreaks c) (vxCheck c) ∧ ∀ x : Mx, lowestCause (matrixBreaks x c) (mxCheck x c)) ∧
  (∀ (s : State) (k : CcId) (c : EngineCmd) (r : List EngineCmd), (s.vxOf k).queue = c :: r → (s.vxOf k).held = false →
    (∀ j, (s.vxOf k).saving = some j → j.restore = false) → vxCheck c ≠ 0 →
    ∃ t, exec (.vectorFault k) s = .next t ∧ t.vxOf k = { s.vxOf k with held := true } ∧ pends t k 7 2 ∧
      t.reg .vxFault k 0 = faultWord (vxCheck c) c.opcode ∧ { t with regs := s.regs, cores := s.cores, vx := s.vx } = s) ∧
  (∀ (s : State) (k : CcId) (c : EngineCmd) (r : List EngineCmd), (s.mxOf k).queue = c :: r → (s.mxOf k).held = false →
    (∀ j, (s.mxOf k).saving = some j → j.restore = false) → mxCheck (s.mxOf k) c ≠ 0 →
    ∃ t, exec (.matrixFault k) s = .next t ∧ t.mxOf k = { s.mxOf k with held := true } ∧ pends t k 6 1 ∧
      t.reg .mxFault k 0 = faultWord (mxCheck (s.mxOf k) c) c.opcode ∧
      { t with regs := s.regs, cores := s.cores, mx := s.mx } = s) ∧
  (∀ (s : State) (k : CcId),
    ((s.vxOf k).held = true ∨ (s.vxOf k).queue = [] → ∀ i ∈ vectorCommands k, exec i s = .next s) ∧
    ((s.mxOf k).held = true ∨ (s.mxOf k).queue = [] → ∀ i ∈ matrixCommands k, exec i s = .next s))

/-- R64, R69, R70, R71, R96: ABANDON of a matrix engine that is held empties its queue; SAVE and RESTORE of one that is
held start, after the write-backs in flight (R59), and one that is refused sets SRERR; a save that ends has written
its image, and SAVEBUSY clears. The model's readings that it rests on: log entries 19, 20, 109, 110. -/
def Obligations.EngineControls : Prop :=
  ∀ (s : State) (rq : Requester) (k : CcId),
    let v := s.vxOf k
    let m := s.mxOf k
    let may (blk w : Nat) : Prop := s.mayAccess rq blk (k.val * 0x100 + 4) true w = true
    let ack (blk : Nat) (t : State) := acked rq blk (k.val * 0x100 + 4) t
    let vbase := s.fld fVX_SAVE_BASE_ROW k
    let mbase := s.fld fMX_SAVE_BASE_ROW k
    let w := s.mxWriteBacks k
    let m' := w.mxOf k
    let mrows := 3 + 32 * ((List.range 12).filter fun n => (m'.tile n).inUse).length
    (may 14 1 → (m.held = false → exec (.mxAbandon rq k) s = ack 14 s) ∧
      (m.held = true → ∃ t, exec (.mxAbandon rq k) s = ack 14 t ∧ (t.mxOf k).queue = [] ∧ (t.mxOf k).held = true ∧
        ((∀ c ∈ m.queue, c.begun = false) → t = s.setMx k { m with queue := [] }))) ∧
    (may 15 2 → v.saving = none → (v.held = true → vbase + 67 ≤ 8192 → ∃ t, exec (.vxSave rq k) s = ack 15 t ∧
        t.vxOf k = { v with saving := some ⟨false, vbase, 67, v.image (s.flag fVX_STATUS_SAT k)⟩ }) ∧
      (v.held = false ∨ 8192 < vbase + 67 → exec (.vxSave rq k) s = ack 15 (s.setFlag fVX_STATUS_SRERR true k))) ∧
    (m'.writeBacks = [] ∧ m'.queue = m.queue ∧ m'.held = m.held ∧ m'.saving = m.saving ∧ (m.writeBacks = [] → w = s) ∧
      { w with mx := s.mx, sp := s.sp } = s) ∧
    (may 14 2 → m.saving = none → (m.held = true → mbase + mrows ≤ 8192 → ∃ t, exec (.mxSave rq k) s = ack 14 t ∧
        t.mxOf k = { m' with saving := some ⟨false, mbase, mrows, m'.image (s.flag fMX_STATUS_SAT k)⟩ }) ∧
      (m.held = true → 8192 < mbase + mrows → exec (.mxSave rq k) s = ack 14 (w.setFlag fMX_STATUS_SRERR true k)) ∧
      (m.held = false → exec (.mxSave rq k) s = ack 14 (s.setFlag fMX_STATUS_SRERR true k))) ∧
    ((s.spOf k).code = [] → may 15 4 → v.saving = none → v.held = true → vbase + 67 ≤ 8192 →
      let h := getBytes 0 (s.spOf k).mem (vbase * 128) 128
      let p := leNat ((h.drop 6).take 4)
      let good : Prop := byteWord h 0 = 1 ∧ byteWord h 1 ≤ 16 ∧ (p.testBit 31 = true → bits p 19 16 < byteWord h 1)
      (good → ∃ t, exec (.vxRestore rq k) s = ack 15 t ∧ t.vxOf k = { v with saving := some ⟨true, vbase, 67, h⟩ }) ∧
      (¬good → exec (.vxRestore rq k) s = ack 15 (s.setFlag fVX_STATUS_SRERR true k))) ∧
    ((s.spOf k).code = [] → may 14 4 → m.saving = none → m.held = true →
      let h := getBytes 0 (s.spOf k).mem (mbase * 128) 128
      let rows := 3 + 32 * ((List.range 12).filter fun n => (byteWord h 1).testBit n).length
      let good : Prop := byteWord h 0 = 1 ∧ byteWord h 2 ≤ 16 ∧ (∀ n < 8, shapeOk (byteWord h (4 + n)) = true) ∧
        mbase + rows ≤ 8192
      (good → ∃ t, exec (.mxRestore rq k) s = ack 14 t ∧ t.mxOf k = { m' with saving := some ⟨true, mbase, rows, h⟩ }) ∧
      (¬good → exec (.mxRestore rq k) s = ack 14 (s.setFlag fMX_STATUS_SRERR true k))) ∧
    (∀ j, v.saving = some j → (s.spOf k).scoreboard.any (·.owner == .saveVector) = true →
      (j.restore = false → ∃ t, exec (.saveRestoreComplete k .vector) s = .next t ∧ t.vxOf k = { v with saving := none } ∧
        (t.spOf k).mem = ((s.spStore k (j.base * 128) j.image).spOf k).mem ∧
        (t.spOf k).scoreboard = (s.spOf k).scoreboard.eraseP (·.owner == .saveVector)) ∧
      (j.restore = true → (s.spOf k).code = [] → ∃ t, exec (.saveRestoreComplete k .vector) s = .next t ∧
        (t.vxOf k).saving = none ∧ (t.vxOf k).held = v.held ∧ (t.spOf k).mem = (s.spOf k).mem ∧
        (t.vxOf k).queue.length = byteWord j.image 1 ∧ t.flag fVX_STATUS_SAT k = (byteWord j.image 2).testBit 0 ∧
        (67 ≤ j.rows → ∀ n < 32, ∀ b < 256, get 0 ((t.vxOf k).reg n) b =
          get 0 (s.spOf k).mem (j.base * 128 + 384 + 256 * n + b)))) ∧
    (∀ j, m.saving = some j → (s.spOf k).scoreboard.any (·.owner == .saveMatrix) = true → j.restore = false →
      ∃ t, exec (.saveRestoreComplete k .matrix) s = .next t ∧ t.mxOf k = { m with saving := none } ∧
        (t.spOf k).mem = ((s.spStore k (j.base * 128) j.image).spOf k).mem ∧
        (t.spOf k).scoreboard = (s.spOf k).scoreboard.eraseP (·.owner == .saveMatrix))

/-- R95: VX_CTRL.ABANDON: while the engine is held it discards the queue and clears VX_PROGRESS.VALID, and everything
else, the vector registers and the scratchpad among it, keeps its contents; while the engine is not held it is
ignored. -/
def Obligations.VectorAbandon : Prop :=
  ∀ (s : State) (rq : Requester) (k : CcId), s.mayAccess rq 15 (k.val * 0x100 + 4) true 1 = true →
    ((s.vxOf k).held = true → ∃ t, exec (.vxAbandon rq k) s = acked rq 15 (k.val * 0x100 + 4) t ∧ onlyVx k s t ∧
      t.vxOf k = { s.vxOf k with queue := [], progress := none } ∧
      (t.regValue .vxProgress k 0).testBit 31 = false ∧ ∀ j, t.spOf j = s.spOf j) ∧
    ((s.vxOf k).held = false → exec (.vxAbandon rq k) s = acked rq 15 (k.val * 0x100 + 4) s)

/-- R41, R44, R52, R56, R57, R61: TCFG, AZERO, AMOV.C and ACVT.T write tiles of the engine, leave the queue, and change no
other tile. TCFG and AMOV.C end the residency of the accumulators they write; AZERO keeps it, with its cells zero. The
model's readings that it rests on: log entry 15. -/
def Obligations.MatrixRegisters : Prop :=
  ∀ (s : State) (k : CcId) (c : EngineCmd) (r : List EngineCmd), mxHead s k c r → (s.spOf k).scoreboard.length < 16 →
    let x := s.mxOf k
    let cn := bits (c.w 0) 5 4
    (c.opcode = 0 → ∃ t, exec (.tcfg k) s = .next t ∧ onlyMx k s t ∧ mxRest x (t.mxOf k) r ∧ (t.mxOf k).cells = x.cells ∧
      (∀ n < 8, (t.mxOf k).tile n = if (c.w 1).testBit n then { rows := c.w 2, rlen4 := c.w 3, data := [], inUse := false }
        else x.tile n) ∧
      (∀ n < 4, (t.mxOf k).tile (8 + n) = if (c.w 1).testBit (8 + n) then {} else x.tile (8 + n)) ∧
      (∀ n, x.resident = some n → (t.mxOf k).resident = if (c.w 1).testBit (8 + n) then none else some n) ∧
      (x.resident = none → (t.mxOf k).resident = none)) ∧
    (c.opcode = 0x10 → ∃ t, exec (.azero k) s = .next t ∧ onlyMx k s t ∧ mxRest x (t.mxOf k) r ∧
      (t.mxOf k).tile (8 + cn) = { x.tile (8 + cn) with data := [], inUse := true } ∧
      (∀ n, n ≠ 8 + cn → (t.mxOf k).tile n = x.tile n) ∧ (t.mxOf k).resident = x.resident ∧
      (t.mxOf k).cells = if x.resident = some cn then [] else x.cells) ∧
    (c.opcode = 0x11 → ∃ t, exec (.amovC k) s = .next t ∧ onlyMx k s t ∧ mxRest x (t.mxOf k) r ∧
      (t.mxOf k).tile (8 + cn) =
        { x.tile (8 + cn) with data := (x.tile (8 + bits (c.w 0) 1 0)).data, inUse := true } ∧
      (∀ n, n ≠ 8 + cn → (t.mxOf k).tile n = x.tile n) ∧ (t.mxOf k).resident = residencyEnds x cn) ∧
    (∀ fd, c.opcode = 0x15 → fmtOfCode (bits (c.w 1) 15 12) = some fd →
      let td := bits (c.w 1) 7 5
      let es := fmtBits fd / 8
      let sat := (List.range 16).any fun i => (List.range 64).any fun n => (accOut x c fd i n).2
      ∃ t, exec (.acvtT k) s = .next t ∧ onlyMx k (if sat then s.setFlag fMX_STATUS_SAT true k else s) t ∧
        mxRest x (t.mxOf k) r ∧ (t.mxOf k).resident = x.resident ∧ (t.mxOf k).cells = x.cells ∧
        (∀ n, n ≠ td → (t.mxOf k).tile n = x.tile n) ∧ ((t.mxOf k).tile td).inUse = true ∧
        ((t.mxOf k).tile td).rows = (x.tile td).rows ∧ ((t.mxOf k).tile td).rlen4 = (x.tile td).rlen4 ∧
        (∀ i < 16, ∀ n < 64, ((t.mxOf k).tile td).bytes (i * (x.tile td).rlen + n * es) es =
          leBytes es (accOut x c fd i n).1) ∧
        ∀ o, (∀ i < 16, o < i * (x.tile td).rlen ∨ i * (x.tile td).rlen + 64 * es ≤ o) →
          get 0 ((t.mxOf k).tile td).data o = get 0 (x.tile td).data o)

/-- R49, R50, R53, R56, R57: the loads and stores of tiles and accumulators, in row view and in column view. A load
changes nothing but its tile; a store changes nothing but the bytes it stores. The model's readings that it rests
on: log entries 15, 16, 111. -/
def Obligations.MatrixMemory : Prop :=
  ∀ (s : State) (k : CcId) (c : EngineCmd) (r : List EngineCmd) (pt : List (Nat × PageIs)) (t : State),
    mxHead s k c r → mxSpan s k c pt t →
    let x := t.mxOf k
    let n := bits (c.w 0) 2 0
    let cn := bits (c.w 0) 5 4
    let es := 2 ^ bits (c.w 1) 9 8
    let a := x.tile n
    let loads (i : Instr) (n rows rlen : Nat) (from_ : Nat → Nat → Nat) (resident : Option Nat) : Prop :=
      ∃ u, exec i s = .next u ∧ onlyMx k t u ∧ mxRest x (u.mxOf k) r ∧ (u.mxOf k).resident = resident ∧
        (u.mxOf k).cells = x.cells ∧ (∀ m, m ≠ n → (u.mxOf k).tile m = x.tile m) ∧
        ((u.mxOf k).tile n).rows = (x.tile n).rows ∧ ((u.mxOf k).tile n).rlen4 = (x.tile n).rlen4 ∧
        (0 < rows → ((u.mxOf k).tile n).inUse = true) ∧
        (∀ j < rows, ∀ b < rlen, get 0 ((u.mxOf k).tile n).data (j * rlen + b) = spByte t k pt (from_ j b)) ∧
        ∀ o, rows * rlen ≤ o → get 0 ((u.mxOf k).tile n).data o = get 0 (x.tile n).data o
    let stores (i : Instr) (sat : Bool) (v : State) : Prop :=
      ∃ u, exec i s = .next u ∧ onlyMx k (if sat then v.setFlag fMX_STATUS_SAT true k else v) u ∧ u.mxOf k = { x with queue := r }
    let put_ (v : State) (o : Nat) (d : List Byte) : State := (v.writeSpan k pt o d).2
    (c.opcode = 1 → loads (.tldR k) n a.rows a.rlen (fun j b => pieceAt c j + b) x.resident) ∧
    (c.opcode = 2 → loads (.tldC k) n a.rows a.rlen (fun j b => pieceAt c (b / es) + j * es + b % es) x.resident) ∧
    (c.opcode = 0x12 → loads (.amovL k) (8 + cn) 16 256 (fun j b => pieceAt c j + b) (residencyEnds x cn)) ∧
    (c.opcode = 3 → stores (.tstR k) false
      ((List.range a.rows).foldl (fun v j => put_ v (pieceAt c j) (a.bytes (j * a.rlen) a.rlen)) t)) ∧
    (c.opcode = 4 → stores (.tstC k) false ((List.range a.rows).foldl (fun v j => (List.range (a.rlen / es)).foldl
      (fun v e => put_ v (pieceAt c e + j * es) (a.bytes (j * a.rlen + e * es) es)) v) t)) ∧
    (c.opcode = 0x13 → stores (.amovS k) false
      ((List.range 16).foldl (fun v i => put_ v (pieceAt c i) ((x.tile (8 + cn)).bytes (256 * i) 256)) t)) ∧
    (∀ fd, c.opcode = 0x14 → fmtOfCode (bits (c.w 1) 15 12) = some fd →
      stores (.acvtS k) ((List.range 16).any fun i => (List.range 64).any fun n => (accOut x c fd i n).2)
        ((List.range 16).foldl (fun v i => put_ v (pieceAt c i)
          ((List.range 64).flatMap fun n => leBytes (fmtBits fd / 8) (accOut x c fd i n).1)) t))

/-- R54, R55, R59, R61, R67: an MMA forms its cells group by group, from the resident cells or the accumulator, and
starts its write-back; the write-back gives them to the accumulator, and until then the command holds a place of the
scoreboard (R111). A residue mismatch is counted as a retry; one that the retry does not clear stops the command with
cause 7. The model's readings that it rests on: log entries 15, 17, 136. -/
def Obligations.MatrixMultiply : Prop :=
  (∀ (s : State) (k : CcId) (c : EngineCmd) (r : List EngineCmd) (pt : List (Nat × PageIs)) (t : State)
    (fa fb : Fmt) (check : ResidueCheck), mxHead s k c r → mxSpan s k c pt t → c.opcode = 8 ∨ c.opcode = 9 →
    (mmaFields c).formats = some (fa, fb) →
    let x := t.mxOf k
    let f := mmaFields c
    let i : Instr := if f.s then .mmaS k check else .mmaT k check
    let block (g : Nat) : List Nat :=
      (span (vbyte (2 * f.va + g * f.step fb * 128)) (128 * f.rowsPerBlock fb)).map fun v => (spByte t k pt v).toNat
    let len (g : Nat) : List Nat := List.range (min 32 (f.len - 32 * g))
    let as (i g : Nat) : List Nat := (len g).map fun q => (x.tile f.ta).elem (fmtBits fa / 8) i (f.aoff + 32 * g + q)
    let bs (j g : Nat) : List Nat := (len g).map fun q =>
      if f.s then blockElem f.form fb (if f.sbe then (block g).drop 128 else block g) q j
      else (x.tile f.tb).elem (fmtBits fb / 8) (f.boff + 32 * g + q) j
    let sa (i g : Nat) : Nat := if f.sae then (x.tile f.tsa).elem 1 (f.sarow + g) i else 0x7F
    let sb (j g : Nat) : Nat :=
      if f.sbe then (if f.s then (block g).getD j 0 else (x.tile f.tsb).elem 1 (f.sbrow + g) j) else 0x7F
    let start := if x.resident = some f.cn then x.cells else (x.tile (8 + f.cn)).data
    let cell (i j : Nat) : Nat × Bool := cellAfter f.i32 fa (if f.s then widenedFmt fb else fb) (as i) (bs j) (sa i) (sb j)
      (leNat (getBytes 0 start (4 * (64 * i + j)) 4)) f.groups
    let sat := (List.range 16).any fun i => (List.range 64).any fun j => (cell i j).2
    (check ≠ .twice → ∃ u w, exec i s = .next u ∧
      (∀ i < 16, ∀ j < 64, getBytes 0 (u.mxOf k).cells (4 * (64 * i + j)) 4 = leBytes 4 (cell i j).1) ∧
      u.mxOf k = { x with queue := r, resident := some f.cn, cells := w, writeBacks := x.writeBacks ++
        [{ acc := f.cn, cells := w, reads := (mxTiles c).1 }] } ∧
      (∀ j, j ≠ k.val → u.mxOf j = t.mxOf j) ∧ { u with mx := t.mx, regs := t.regs, sp := t.sp } = t ∧
      onlySp k t u ∧ u.spOf k = { t.spOf k with scoreboard := (t.spOf k).scoreboard ++
        [{ owner := .matrix, reads := (rowsRect pt (mxPieces (s.mxOf k) c)).toList }] } ∧
      (sat = true → u.flag fMX_STATUS_SAT k = true) ∧ (sat = false → check = .clean → u.regs = t.regs) ∧
      (check = .once → u.fld fMX_RESIDUE_RETRIES k = satAdd 16 (t.fld fMX_RESIDUE_RETRIES k) 1)) ∧
    (check = .twice → ∃ u, exec i s = .next u ∧ (u.mxOf k).held = true ∧ (u.mxOf k).queue = c :: r ∧ pends u k 6 1 ∧
      (u.mxOf k).tiles = x.tiles ∧ (u.mxOf k).cells = x.cells ∧
      (u.mxOf k).resident = (if x.resident = some f.cn then x.resident else none) ∧ bits (u.reg .mxFault k 0) 31 27 = 16 + 7 ∧
      u.fld fMX_RESIDUE_FAULTS k = satAdd 16 (t.fld fMX_RESIDUE_FAULTS k) 1 ∧
      u.fld fMX_RESIDUE_RETRIES k = satAdd 16 (t.fld fMX_RESIDUE_RETRIES k) 1)) ∧
  (∀ (s : State) (k : CcId) (b : WriteBack) (r : List WriteBack), (s.mxOf k).writeBacks = b :: r →
    ∃ t, exec (.mmaWriteBack k) s = .next t ∧ (t.mxOf k).writeBacks = r ∧
      (t.mxOf k).tile (8 + b.acc) = { (s.mxOf k).tile (8 + b.acc) with data := b.cells, inUse := true } ∧
      (∀ n, n ≠ 8 + b.acc → (t.mxOf k).tile n = (s.mxOf k).tile n) ∧ (t.mxOf k).queue = (s.mxOf k).queue ∧
      (t.mxOf k).resident = (s.mxOf k).resident ∧ { t with mx := s.mx, sp := s.sp } = s ∧
      onlySp k s t ∧ t.spOf k = { s.spOf k with scoreboard := (s.spOf k).scoreboard.eraseP (·.owner == .matrix) })

/-- R19: two 4-bit elements share a byte: element 2i is bits 3 to 0 of byte i, and element 2i + 1 its bits 7 to 4. -/
def Obligations.NibbleElements : Prop :=
  ∀ (data : List Byte) (i : Nat), i < data.length →
    let bytes := data.map (·.toNat)
    nibbleAt bytes (2 * i) = ((data.getD i 0).extractLsb' 0 4).toNat ∧
    nibbleAt bytes (2 * i + 1) = ((data.getD i 0).extractLsb' 4 4).toNat

/-- R104, R108, R115, R117, R121: what meets the apertures of a scratchpad. A write that an aperture admits is written,
accumulated or counted in its slot, and its sender is told; a write to a full slot is held; any other write is
counted, refused with its reason and changes no byte. A remote read answers the bytes, or is refused. Then the beat
in the link latch before a stream exit follows into it. The model's readings that it rests on: log entries 24, 103. -/
def Obligations.ScratchpadArrivals : Prop :=
  ∀ (s : State) (k : CcId) (plane : Fin 4) (m : Msg),
    let p := s.spOf k
    let o := m.addr % 0x100000
    (∀ t : State, t.exitRefill k plane = if plane.val < 3 then t.crossLink k plane 4 else t) ∧
    (∀ b : Msg, plane.val < 3 → (s.sideOf (sideKey k plane 4 true)).latch = some b → b.kind ≠ .void → s.exitRoom k plane = true →
      ((s.crossLink k plane 4).sideOf (sideKey k plane 4 true)).latch = none ∧
      get [] ((s.crossLink k plane 4).spOf k).arrivals plane = get [] p.arrivals plane ++ [b] ∧ onlySp k s (s.crossLink k plane 4)) ∧
    ((get [] p.arrivals plane).head? = some m → (∀ h ∈ p.held, h.plane ≠ plane) → p.code = [] →
    (m.kind = .write → m.poison = false → m.data ≠ [] → m.be.length = m.data.length → ∀ r n, s.writeTest k o m = (r, n) →
      let d := s.apDesc k n
      let sl := (o / 128 - d.row0) / d.slotRows
      let v := get {} (s.ap k n).slots sl
      (r ≠ 0 → ∃ t, exec (.apertureWrite k plane) s = .next (t.exitRefill k plane) ∧ onlySp k s t ∧
        t.spOf k = { p with arrivals := popped p plane } ∧
        t.fld fSP_REFUSE_COUNT k = min (s.fld fSP_REFUSE_COUNT k + 1) 0xFFFF ∧
        (m.chan ≠ 9 → m.chan ≠ 12 → m.sdev = s.ol.devId → t.vResp = s.vResp ++ [{ s.answerTo k m .refusal with reason := r }])) ∧
      (r = 0 → d.mode = 0 → ∃ t, exec (.apertureWrite k plane) s = .next (t.exitRefill k plane) ∧ onlySp k s t ∧
        { t with sp := s.sp } = s.writeDone k plane m ∧ written p.mem (t.spOf k).mem o m.data m.be ∧
        (t.spOf k).aps = p.aps ∧ (t.spOf k).held = p.held) ∧
      (r = 0 → d.mode = 1 → ∃ t, exec (.apertureWrite k plane) s = .next (t.exitRefill k plane) ∧ onlySp k s t ∧
        { t with sp := s.sp, regs := s.regs } = s.writeDone k plane m ∧
        (∀ j < m.data.length / 4, getBytes 0 (t.spOf k).mem (o + 4 * j) 4 =
          leBytes 4 (accumulateOp d.op (leNat (getBytes 0 p.mem (o + 4 * j) 4)) (leNat ((m.data.drop (4 * j)).take 4))).1) ∧
        (∀ i, i < o ∨ o + m.data.length ≤ i → get 0 (t.spOf k).mem i = get 0 p.mem i) ∧
        (t.spOf k).aps = p.aps ∧ (t.spOf k).held = p.held) ∧
      (r = 0 → d.mode = 2 → v.full = false → ∃ t, exec (.apertureWrite k plane) s = .next (t.exitRefill k plane) ∧ onlySp k s t ∧
        { t with sp := s.sp } = s.writeDone k plane m ∧ written p.mem (t.spOf k).mem o m.data m.be ∧
        (get {} (t.ap k n).slots sl =
          if d.slotRows * d.ng ≤ v.fill + m.data.length / 4 then { full := true, fill := 0 }
          else { full := false, fill := v.fill + m.data.length / 4 }) ∧
        (∀ i, i ≠ sl → get {} (t.ap k n).slots i = get {} (s.ap k n).slots i) ∧ (t.spOf k).held = p.held) ∧
      (r = 0 → d.mode = 2 → v.full = true → ∃ t, exec (.apertureWrite k plane) s = .next (t.exitRefill k plane) ∧ onlySp k s t ∧
        { t with sp := s.sp } = s ∧ t.spOf k = { p with
          arrivals := popped p plane, held := p.held ++ [{ ap := n, slot := sl, plane := plane, msg := m }] })) ∧
    (m.kind = .readReq → ∀ n, s.apCovering k (o / 128) (o % 128 / 4) = some n →
      let d := s.apDesc k n
      (o + m.len - 1) / 128 = o / 128 → (o + m.len - 1) % 128 / 4 < d.g0 + d.ng → d.admits m.sdev.toNat m.req = true →
      (d.mode = 0 → d.rread = true → ∃ t, exec (.remoteRead k plane) s = .next (t.exitRefill k plane) ∧ onlySp k s t ∧
        t.spOf k = { p with arrivals := popped p plane } ∧ { t with sp := s.sp } = s.respond k m (getBytes 0 p.mem o m.len)) ∧
      (d.mode ≠ 0 ∨ d.rread = false → ∃ t, exec (.remoteRead k plane) s = .next (t.exitRefill k plane) ∧ onlySp k s t ∧
        t.spOf k = { p with arrivals := popped p plane } ∧
        { t with sp := s.sp, regs := s.regs } = s.refuse k m 8 (if m.sdev = s.ol.devId then 6 else 0))) ∧
    (m.kind = .readReq → s.apCovering k (o / 128) (o % 128 / 4) = none →
      ∃ t, exec (.remoteRead k plane) s = .next (t.exitRefill k plane) ∧ onlySp k s t ∧ t.spOf k = { p with arrivals := popped p plane } ∧
        { t with sp := s.sp, regs := s.regs } = s.refuse k m 1 (if m.sdev = s.ol.devId then 6 else 0)))

/-- R106, R114, R116, R118, R120, R121: opening and closing apertures, releasing slots, the write-back of corrected
granules, and the two timeouts of slots. The model's readings that it rests on: log entries 22, 31, 104. -/
def Obligations.ApertureCommands : Prop :=
  ∀ (s : State) (rq : Requester) (k : CcId) (n : Fin 16) (v : BitVec 32),
    let p := s.spOf k
    let off := k.val * 0x800 + 0x210 + 0x20 * n.val
    let opening := s.setReg .spApCtrl k n (v.toNat &&& 0xFF3F)
    (s.mayAccess rq 13 off true v.toNat = true →
      ((s.ap k n).state = .closed → opening.apCanOpen k n = true →
        exec (.apertureOpen rq k n v) s =
          acked rq 13 off ((opening.setAp k n { state := .opened }).setFlag fSP_AP_CTRL_OPEN true k n)) ∧
      ((s.ap k n).state = .closed → opening.apCanOpen k n = false →
        exec (.apertureOpen rq k n v) s = acked rq 13 off (opening.setFlag fSP_STATUS_APERR true k)) ∧
      ((s.ap k n).state ≠ .closed → exec (.apertureOpen rq k n v) s = acked rq 13 off s) ∧
      ((s.ap k n).state = .opened → ∃ t, exec (.apertureClose rq k n v) s = acked rq 13 off t ∧
        t.ap k n = { s.ap k n with state := .closing } ∧ t.flag fSP_AP_CTRL_OPEN k n = false ∧ onlySp k s t ∧
        (t.spOf k).held = p.held.filter (·.ap != n.val) ∧ (t.spOf k).mem = p.mem) ∧
      ((s.ap k n).state = .closing → exec (.apertureClose rq k n v) s = acked rq 13 off s)) ∧
    ((s.ap k n).state = .closing → (∀ h ∈ p.held, h.ap ≠ n.val) → exec (.apertureClosed k n) s = .next (s.setAp k n {})) ∧
    ((s.ap k n).state ≠ .closing ∨ (∃ h ∈ p.held, h.ap = n.val) → exec (.apertureClosed k n) s = .next s) ∧
    (s.mayAccess rq 13 (k.val * 0x800 + 0x40) true v.toNat = true →
      let a := bits v.toNat 27 24
      ((s.ap k a).state = .opened ∧ (s.apDesc k a).mode = 2 → exec (.spRelease rq k v) s =
        acked rq 13 (k.val * 0x800 + 0x40) (s.setSp k { p with
          releases := p.releases ++ [{ ap := a, slot := bits v.toNat 23 16, count := v.toNat % 0x100 + 1 }] })) ∧
      (¬((s.ap k a).state = .opened ∧ (s.apDesc k a).mode = 2) →
        exec (.spRelease rq k v) s = acked rq 13 (k.val * 0x800 + 0x40) (s.setFlag fSP_STATUS_RELERR true k))) ∧
    (∀ q rest, p.releases = q :: rest →
      (s.releaseReady k q = true → (s.ap k q.ap).state = .opened → (s.apDesc k q.ap).mode = 2 → p.held = [] →
        ∃ t, exec (.slotReleaseEffect k) s = .next t ∧ (t.spOf k).releases = rest ∧ (t.spOf k).mem = p.mem ∧ onlySp k s t ∧
          (∀ i, get {} (t.ap k q.ap).slots i =
            if q.slot ≤ i ∧ i < q.slot + q.count ∧ i < (s.apDesc k q.ap).slotCount ∧ (get {} (s.ap k q.ap).slots i).full = true
            then {} else get {} (s.ap k q.ap).slots i) ∧
          ((∃ i, q.slot ≤ i ∧ i < q.slot + q.count ∧ i < (s.apDesc k q.ap).slotCount ∧
            (get {} (s.ap k q.ap).slots i).full = false) → t.flag fSP_STATUS_RELERR k = true)) ∧
      (s.releaseReady k q = false → exec (.slotReleaseEffect k) s = .next s)) ∧
    (∀ g rest, p.corrected = g :: rest → ∃ t, exec (.eccWriteBack k) s = .next t ∧ { t with sp := s.sp } = s ∧ onlySp k s t ∧
      (t.spOf k).corrected = rest ∧ (t.spOf k).mem = p.mem ∧
      ∀ i, t.codeOf k i = if i = g ∧ s.codeOf k g = .single then .good else s.codeOf k i) ∧
    (∀ ap sl fa, s.mxGate k = some (ap, sl, fa) → ∃ t, exec (.slotWaitTimeout k .matrix) s = .next t ∧
      t.mxOf k = { s.mxOf k with held := true } ∧ pends t k 8 1 ∧
      t.reg .spFault k 0 = (0x80000000 + 2 * 0x8000000 + ap * 0x800000 + sl * 0x8000) % 2 ^ 32) ∧
    (∀ ap sl fa, s.vxGate k = some (ap, sl, fa) → ∃ t, exec (.slotWaitTimeout k .vector) s = .next t ∧
      t.vxOf k = { s.vxOf k with held := true } ∧ pends t k 8 2 ∧
      t.reg .spFault k 0 = (0x80000000 + 2 * 0x8000000 + ap * 0x800000 + sl * 0x8000) % 2 ^ 32) ∧
    (∀ ch ap sl fa, s.chanGate k ch = some (ap, sl, fa) → ∀ h : ch < 2,
      ∃ t, exec (.slotWaitTimeout k (.channel ⟨ch, h⟩)) s = .next t ∧ (t.dmOf k).held = true ∧ pends t k 8 (3 + ch)) ∧
    (∀ (sl : BitVec 8) h, p.held.find? (fun h => h.ap == n.val && h.slot == sl.toNat) = some h →
      ∃ t, exec (.heldWriteTimeout k n sl) s = .next t ∧ t.spOf k = { p with held := p.held.erase h } ∧ onlySp k s t ∧
        pends t k 9 5 ∧ t.fld fSP_REFUSE_COUNT k = min (s.fld fSP_REFUSE_COUNT k + 1) 0xFFFF ∧
        bits (t.reg .spFault k 0) 31 27 = 16 + 3)

/-- R130, R132–R134, R143–R146, R173: the commands of a DMA channel: a DGO copies its chain, a descriptor moves its
runs, a complete chain signals its counter and frees the channel, a refused command halts the channel with its
cause, and RESUME and ABANDON end a chain. A channel that halts keeps no beat it has not issued, and no read after the
first that such a beat asks for. The model's readings that it rests on: log entries 46, 49, 50, 52, 53, 54, 106,
107, 108. -/
def Obligations.DmaChannels : Prop :=
  (∀ (s : State) (k : CcId) (ch : ChanId) (q : EngineCmd) (rest : List EngineCmd),
    (s.chan k ch).queue = q :: rest → channelFree s k ch → (s.chan k ch).dgo = none →
    let v := 2 * addrAt q.words 1
    let n := 32 * (wordAt q.words 0 % 16 + 1)
    (State.dgo.wellShaped1 q = true → v % 32 = 0 → v / 0x10000 = (v + n - 1) / 0x10000 → ∀ b t,
      s.pageIs k (v / 0x10000) .read q.ring.toNat = (some (.own b), t) →
      let o := b + v % 0x10000
      t.slotsFull k [⟨o / 128, (o + n - 1) / 128, 0, 31⟩] = true →
      t.sbAdmits k [⟨o / 128, (o + n - 1) / 128, 0, 31⟩] none = true → (t.spOf k).code = [] →
      ∃ u, exec (.dgo k ch) s = .next u ∧ onlyChan k ch t u ∧ u.chan k ch = { t.chan k ch with
        queue := rest, dgo := some q, chain := (chunks 32 17 (getBytes 0 (t.spOf k).mem o n)).map bytesHalf, didx := 0
        z := 0, y := 0, x := 0, base := (t.chan k ch).tag, owed := [], accPart := [] }) ∧
    (State.dgo.wellShaped1 q = false ∨ v % 32 ≠ 0 ∨ v / 0x10000 ≠ (v + n - 1) / 0x10000 →
      ∃ u, exec (.dgo k ch) s = .next u ∧ haltedWith u k ch 1 ∧ (u.chan k ch).queue = rest)) ∧
  (∀ (s : State) (k : CcId) (ch : ChanId) (q : EngineCmd) (w : List Half),
    let c := s.chan k ch
    let d := descOf w
    c.dgo = some q → c.chain[c.didx]? = some w → channelFree s k ch → c.reading = false → c.outbox = [] →
    (d.ind = 0 ∨ s.storesEntered k = 0) →
    (d.malformed = true → ∃ u, exec (.descriptorStart k ch) s = .next u ∧ haltedWith u k ch 1) ∧
    (d.malformed = false → d.refusedAtStart s.ol.devId.toNat = true →
      ∃ u, exec (.descriptorStart k ch) s = .next u ∧ haltedWith u k ch 2) ∧
    (d.malformed = false → d.refusedAtStart s.ol.devId.toNat = false → d.cvt = false → d.acc = false → ∀ r t,
      s.descPlan k ch q w = (some r, t) → r.buffered = false → c.didx = 0 ∨ c.plane = r.plane ∨ c.settled = true →
      t.slotsFull k r.reads.toList = true → t.sbAdmits k r.reads.toList r.writes = true → (t.spOf k).code = [] →
      (∀ e ∈ (t.spOf k).scoreboard, e.owner ≠ .channel ch) →
      let pieces := r.x.foresee t r.plan
      (ownToOwn pieces → ∃ u, exec (.descriptorStart k ch) s = .next u ∧
        sameBut k ch ((pieces.flatMap (·.2)).foldl (copyPiece k) t) u ∧
        u.chan k ch = { t.chan k ch with didx := c.didx + 1, z := 0, y := 0, x := 0, plane := r.plane }) ∧
      (∀ i p a b, pieces = [(i, [p])] → d.ind = 0 → d.plane = 3 → p.src = .place (.own a) → p.dst = .place (.onDie b) →
        ∃ u, exec (.descriptorStart k ch) s = .next u ∧ sameBut k ch t { u with vReq := t.vReq } ∧
          (u.chan k ch).unacked = c.unacked + 1 ∧ (u.chan k ch).didx = c.didx + 1 ∧
          ∃ m, u.vReq = t.vReq ++ [m] ∧ m.kind = .write ∧ m.ddev = t.ol.devId ∧ m.addr = b ∧ m.req = k.val ∧ m.chan = ch.val ∧
            m.data = getBytes 0 (t.spOf k).mem a p.n ∧ m.be = List.replicate p.n true ∧ m.gen = BitVec.ofNat 8 d.gen) ∧
      (∀ i p a b, pieces = [(i, [p])] → d.ind = 0 → d.plane = 3 → p.src = .place (.onDie a) → p.dst = .place (.own b) →
        ∃ u, exec (.descriptorStart k ch) s = .next u ∧ { u with dm := t.dm, vReq := t.vReq, sp := t.sp } = t ∧
          onlySp k t u ∧ u.spOf k = { t.spOf k with
            scoreboard := (t.spOf k).scoreboard ++ [{ owner := .channel ch, reads := [], write := r.writes }] } ∧
          (u.chan k ch).didx = c.didx + 1 ∧
          (∃ rd, (u.chan k ch).reads = c.reads ++ [rd] ∧ rd.dst = .own b ∧ rd.addr = a ∧ rd.len = p.n ∧ rd.tag = c.tag) ∧
          ∃ m, u.vReq = t.vReq ++ [m] ∧ m.kind = .readReq ∧ m.ddev = t.ol.devId ∧ m.addr = a ∧ m.len = p.n ∧ m.tag = c.tag))) ∧
  (∀ (s : State) (rq : Requester) (k : CcId) (ch : ChanId),
    let c := s.chan k ch
    let off := k.val * 0x100 + 4
    (∀ q, c.dgo = some q → c.stopped = false →
      (c.complete = true → ∃ u, onlyChan k ch s u ∧ chainEnded c (u.chan k ch) ∧ (u.chan k ch).queue = c.queue ∧
        exec (.chainComplete k ch) s = .next (if (wordAt q.words 0).testBit 8
          then u.signal k q.sync ((wordAt q.words 0).testBit 7) (wordAt q.words 4 % 1024) 1 else u)) ∧
      (c.complete = false → exec (.chainComplete k ch) s = .next s)) ∧
    (s.mayAccess rq 16 off true (4 * (ch.val + 1)) = true →
      (c.halted = true → ∃ t, exec (.dmResume rq k ch) s = acked rq 16 off t ∧ chainEnded c (t.chan k ch) ∧
        (t.chan k ch).queue = c.queue) ∧
      (c.halted = false → exec (.dmResume rq k ch) s = acked rq 16 off s)) ∧
    (s.mayAccess rq 16 off true (ch.val + 1) = true →
      (c.halted = true ∨ (s.dmOf k).held = true → c.finishing = false → ∃ t, exec (.dmAbandon rq k ch) s = acked rq 16 off t ∧
        chainEnded c (t.chan k ch) ∧ (t.chan k ch).queue = []) ∧
      (c.halted = true ∨ (s.dmOf k).held = true → c.finishing = true → ∃ t, exec (.dmAbandon rq k ch) s = acked rq 16 off t ∧
        onlyChan k ch s t ∧ t.chan k ch = { c with queue := [] }) ∧
      (c.halted = false ∧ (s.dmOf k).held = false → exec (.dmAbandon rq k ch) s = acked rq 16 off s)) ∧
    (∀ cause va, c.stop = some (.page cause va) →
      (c.settled = true → ∃ t, exec (.dmaPageFault k ch) s = .next t ∧ (t.dmOf k).held = true ∧
        (t.chan k ch).stop = none ∧ (t.chan k ch).queue = c.queue ∧ pends t k 3 (3 + ch.val) ∧
        bits (t.reg .dmChErr k ch) 31 27 = 16 + 4 ∧
        (c.dgo ≠ none → (t.chan k ch).stopped = true ∧ t.fld fDM_CH_PROGX_VALID k ch = 1 ∧
          t.reg .dmChProg k ch = (c.x * 0x10000 + c.y * 0x100 + c.z) % 2 ^ 32)) ∧
      (c.settled = false → exec (.dmaPageFault k ch) s = .next s)) ∧
    ((∀ cause va, c.stop ≠ some (.page cause va)) → exec (.dmaPageFault k ch) s = .next s) ∧
    (∀ w rest, c.remoteOut = w :: rest → c.halted = false →
      ∃ t, exec (.remoteAckTimeout k ch) s = .next t ∧ haltedWith t k ch 9))

/-- R133, R144, R146, R155, R170, R173, R178, R179, R252: plane V. A packet travels along its route, alone, and packets of
one source to one home keep their order; one that has arrived is served: a request at its home, which answers it, once no
store of its core that went before it to that home is unacknowledged; an acknowledgement, a refusal and a read response at
their channel, which then does what it waited with for that. The model's readings that it rests on: log entries 46, 102,
130, 131, 134. -/
def Obligations.PlaneV : Prop :=
  (∀ (s : State) (i : Nat) (m0 : Msg), s.vReq[i]? = some m0 →
    (inOrder s.requestDest s.vReq i = false → exec (.servicePacket i) s = .next s) ∧
    (inOrder s.requestDest s.vReq i = true → ∃ j m w, travelled s false i m0 j m w ∧
      ((s.vTravel false i).1 = none → exec (.servicePacket i) s = .next w) ∧
      (s.vNext false m0 = none → w = s ∧ m = m0 ∧ j = i) ∧
      ((s.vTravel false i).1.isSome = true → w.storesBefore m = true → exec (.servicePacket i) s = .next w) ∧
      ((s.vTravel false i).1.isSome = true → w.storesBefore m = false →
        let t := { w with vReq := dropAt w.vReq j }
        (m.ddev ≠ s.ol.devId → exec (.servicePacket i) s = .next (t.toHub m)) ∧
        (m.ddev = s.ol.devId → ∀ k o, targetOf m.addr = .scratchpad k o →
          let q := get [] (s.spOf k).arrivals 3
          let held := ((s.spOf k).held.filter (·.plane == 3)).map (·.msg)
          let beats := ((q ++ held).map packetBeats).sum + packetBeats m
          (beats ≤ 4 → ∃ u, exec (.servicePacket i) s = .next u ∧ { u with sp := s.sp } = t ∧ onlySp k s u ∧
            u.spOf k = { s.spOf k with arrivals := put [] (s.spOf k).arrivals 3 (q ++ [m]) }) ∧
          (4 < beats → exec (.servicePacket i) s = .next w)) ∧
        (m.ddev = s.ol.devId → m.sdev = s.ol.devId → m.relay = 0 → targetOf m.addr = .dram →
          s.sliceServesV (dramPlace m.addr).1 = true →
          let unit := 1000 + (dramPlace m.addr).1
          (∀ d u, m.kind = .readReq → t.dramRead m.addr m.len = (.ok d, u) →
            exec (.servicePacket i) s = .next (u.respond unit m d)) ∧
          (∀ u, m.kind = .write → t.dramWrite m.addr m.data m.be = (.ok (), u) →
            exec (.servicePacket i) s = .next (u.ack unit m))) ∧
        (m.ddev = s.ol.devId → targetOf m.addr = .dram → s.sliceServesV (dramPlace m.addr).1 = false →
          exec (.servicePacket i) s = .next w) ∧
        (m.ddev = s.ol.devId → m.sdev = s.ol.devId → m.relay = 0 → ∀ o u, targetOf m.addr = .sram o → m.kind = .write →
          t.sramWrite o m.data m.be = (.ok (), u) → exec (.servicePacket i) s = .next (u.ack 2000 m)) ∧
        (m.ddev = s.ol.devId → targetOf m.addr = .register ∨ targetOf m.addr = .unmapped →
          exec (.servicePacket i) s = .next (t.refuse 2003 m 0 6))))) ∧
  (∀ (s : State) (i : Nat) (m : Msg), s.vResp[i]? = some m → inOrder responseDest s.vResp i = true → m.chan < 2 →
    let c := s.chan m.req m.chan
    ∃ j m' w, travelled s true i m j m' w ∧
      ((s.vTravel true i).1 = none → m.kind = .ack → exec (.acknowledgement i) s = .next w) ∧
      ((s.vTravel true i).1 = none → m.kind = .refusal → exec (.refusal i) s = .next w) ∧
      ((s.vTravel true i).1 = none → m.kind = .readResp → exec (.readResponse (.service i)) s = .next w) ∧
      (s.vNext true m = none → w = s ∧ j = i) ∧
      ((s.vTravel true i).1.isSome = true →
        let t := { w with vResp := dropAt w.vResp j }
        (m.kind = .ack → m.sdev = s.ol.devId →
          ∃ u, exec (.acknowledgement i) s = .next (u.chanSettle m.req m.chan) ∧ onlyChan m.req m.chan t u ∧
            u.chan m.req m.chan = if m.tag < c.base then c else { c with unacked := c.unacked - m.count }) ∧
        (m.kind = .refusal → m.sdev = s.ol.devId → m.error = 0 → m.route = 0 → m.reason < 16 → c.base ≤ m.tag →
          c.halted = false → (∀ r ∈ c.reads, ¬(r.remote = false ∧ r.tag = m.tag)) →
          ∃ u, exec (.refusal i) s = .next u ∧ haltedWith u m.req m.chan 5 ∧ (u.chan m.req m.chan).unacked = c.unacked - 1 ∧
            u.vResp = dropAt w.vResp j) ∧
        (∀ r o, m.kind = .readResp → m.relay = 0 → m.sdev = s.ol.devId →
          c.reads.find? (fun r => r.remote == false && r.tag == m.tag && r.got.isNone) = some r → c.reads.Nodup →
          (∀ q ∈ c.reads, q.got = none) → c.behind r = false → r.orphan = false → r.dst = .own o →
          let d := descOf r.desc
          let data := (m.data.drop r.off).take r.len
          d.cvt = false → d.acc = false → m.poison = false → (s.spOf m.req).code = [] →
          ∃ u, exec (.readResponse (.service i)) s = .next (u.chanSettle m.req m.chan) ∧
            { u with sp := s.sp, dm := s.dm } = t ∧ onlySp m.req s u ∧
            written (s.spOf m.req).mem (u.spOf m.req).mem o data (data.map fun _ => true) ∧
            u.chan m.req m.chan = { c with reads := c.reads.erase r }))) ∧
  (∀ (s : State) (k ch : Nat),
    let c := s.chan k ch
    let t := if c.outbox = [] ∧ c.reading = false then s.sbRelease k (.channel ch) else s
    (c.stop = none → c.stopping = false ∨ c.settled = false → s.chanSettle k ch = t) ∧
    (c.stop = none → c.stopping = true → c.settled = true → ch < 2 → k < 768 →
      let u := s.chanSettle k ch
      { u with regs := s.regs, dm := s.dm } = t ∧
      u.reg .dmChProg k ch = (c.x * 0x10000 + c.y * 0x100 + c.z) % 2 ^ 32 ∧ u.fld fDM_CH_PROGX_VALID k ch = 1 ∧
      u.chan k ch = { c with stopped := true, stopping := false })) ∧
  (∀ (s : State) (k : CcId) (p : Fin 3) (m : Msg), (get [] (s.spOf k).arrivals p).head? = some m → m.kind = .readResp →
    (∀ h ∈ (s.spOf k).held, h.plane ≠ p) → m.req = k.val → (s.chan k m.chan).readOf m (decide (m.sdev ≠ s.ol.devId)) = none →
    ∃ u, exec (.readResponse (.stream k p)) s = .next (u.exitRefill k p) ∧ { u with sp := s.sp } = s ∧ onlySp k s u ∧
      u.spOf k = { s.spOf k with arrivals := popped (s.spOf k) p })

/-- R159, R161, R162, R172, R183, R186, R417: the beats of the stream planes and of a slice's STREAM window, the MARK
entry, and the stall log. The model's readings that it rests on: log entries 30, 57, 58, 105, 146. -/
def Obligations.StreamPlanes : Prop :=
  (∀ (s : State) (r : CcId) (p : Fin 3) (port : Fin 6) (x y : Side) (e ei : Nat) (m : Msg),
    let out := sideKey r p port true
    let inp := sideKey r p (bits e 29 27) false
    1 ≤ s.level → s.current out = some (x, e) → s.current inp = some (y, ei) → (s.sideOf inp).latch = some m →
    (bits ei 29 24).testBit port.val = true → port.val ∉ y.taken → s.outputFree r p port = true →
    (s.sideOf out).latch = none →
    ∃ t, exec (.outputBeat r p port) s = .next t ∧ (t.sideOf inp).latch = some m ∧
      (t.sideOf inp).taken = (s.sideOf inp).taken ++ [port.val] ∧
      (t.sideOf out).moved = (if bits e 15 0 ≤ x.moved then 0 else x.moved + 1) ∧
      (t.sideOf out).entry = (if bits e 15 0 ≤ x.moved then (x.entry + 1) % 256 else x.entry) ∧
      (port.val < 4 → (t.sideOf out).latch = some m ∧ t.sp = s.sp ∧ t.slices = s.slices) ∧
      (port.val = 4 → t.slices = s.slices ∧
        (m.kind = .void → t.sp = s.sp ∧ (t.sideOf out).latch = none) ∧
        (m.kind ≠ .void → s.exitRoom r p = true → (t.sideOf out).latch = none ∧ t.sp = (s.setSp r { s.spOf r with
          arrivals := put [] (s.spOf r).arrivals p (get [] (s.spOf r).arrivals p ++ [m]) }).sp) ∧
        (m.kind ≠ .void → s.exitRoom r p = false → t.sp = s.sp ∧ (t.sideOf out).latch = some m)) ∧
      { t with sides := s.sides, sp := s.sp, slices := s.slices } = s) ∧
  (∀ (s : State) (r : CcId) (p : Fin 3) (port : Fin 4) (x : Side) (e n : Nat) (m : Msg),
    let inp := sideKey r p port false
    let far := sideKey n p ((port.val + 2) % 4) true
    1 ≤ s.level → s.current inp = some (x, e) → x.latch = none → neighbour r port = some n →
    (s.sideOf far).latch = some m →
    ∃ t, exec (.inputBeat r p (port.castLE (by decide))) s = .next t ∧ (t.sideOf far).latch = none ∧
      (t.sideOf inp).latch = some m ∧ (t.sideOf inp).taken = [] ∧ t.sp = s.sp ∧ t.slices = s.slices) ∧
  (∀ (s : State) (r : CcId) (p : Fin 3) (port : Fin 6) (x : Side) (e : Nat) (m : Msg),
    let inp := sideKey r p port false
    1 ≤ s.level → s.current inp = some (x, e) → x.latch = some m →
    (∃ q < 6, (bits e 29 24).testBit q = true ∧ q ∉ x.taken) → exec (.inputBeat r p port) s = .next s) ∧
  (∀ (s : State) (sl : SliceId) (x : Slice) (e : Nat) (m : Msg) (rest : List Msg),
    let p := bits e 28 27
    2 ≤ s.level → s.sliceNow sl = some (x, e) → bits e 31 29 = 0 → get [] x.inq p = m :: rest →
    let answers : Prop := get [] x.relaySeq p = [] ∧ (get [] x.outq p).length < 4
    let moved := (s.setSlice sl { x.advance e with inq := put [] x.inq p rest, recorded := false, movedAt := some s.clock }).crossLink
      (sliceRouter sl) p 5
    (m.kind = .readReq → (dramPlace m.addr).1 = sl.val → answers → m.relay = 0 → ∀ d bad u,
      moved.streamRead sl p (bits e 26 19) m.addr (m.len / 64) = (d, bad, u) →
      ∃ t, exec (.streamBeatServe sl) s = .next t ∧ { t with slices := u.slices } = u ∧
        get [] (t.slice sl).outq p = get [] (u.slice sl).outq p ++
          [{ s.answerTo (1000 + sl.val) m .readResp with data := d, poison := bad }]) ∧
    (m.kind = .readReq → (dramPlace m.addr).1 = sl.val → ¬answers → exec (.streamBeatServe sl) s = .next s)) ∧
  (∀ (s : State) (sl p window a n : Nat),
    (∀ d u, s.dramRead a 64 = (.ok d, u) → window = 0 ∨ (s.slice sl).merging = [] →
      (s.streamUnit sl p window a).1 = d ∧ (s.streamUnit sl p window a).2.1 = false ∧
      { (s.streamUnit sl p window a).2.2 with slices := u.slices } = u) ∧
    (∀ g ∈ (s.slice sl).merging, g.unit = (dramPlace a).2 / 64 → g.plane = p → s.clock ≤ g.at_ + 1 → window ≠ 0 →
      Config.freeBool s.freeCount = true → (s.streamUnit sl p window a).2.2 = { s with freeCount := s.freeCount + 1 }) ∧
    s.streamRead sl p window a (n + 1) =
      let q := s.streamUnit sl p window a
      let r := State.streamRead q.2.2 sl p window (a + 64) n
      (q.1 ++ r.1, q.2.1 || r.2.1, r.2.2)) ∧
  (∀ (s : State) (sl : SliceId) (x : Slice) (e : Nat),
    2 ≤ s.level → s.sliceNow sl = some (x, e) → bits e 31 29 = 3 →
    ∃ t, exec (.mark sl) s = .next t ∧ (t.slice sl).phase = bits e 5 0 ∧ (t.slice sl).entry = (x.entry + 1) % 256 ∧
      (sl.val % 8 ≠ 0 → { t with slices := s.slices } = s) ∧
      (sl.val % 8 = 0 → get {} t.pw.occupied (sl.val / 8) = { begun := true })) ∧
  (∀ (s : State) (r : CcId) (p : Fin 3) (port : Fin 6) (out : Bool) (cause entry : Nat),
    1 ≤ s.level → (s.sideOf (sideKey r p port out)).recorded = false → s.sideWaits r p port out = some (cause, entry) →
    ∃ t, exec (.stall (.side r p port out)) s = .next t ∧ (t.sideOf (sideKey r p port out)).recorded = true ∧
      (s.stallLog.length < 16 → t.stallLog = s.stallLog ++ [BitVec.ofNat 32 (0x80000000 + p.val * 0x10000000 +
        cause * 0x4000000 + (if out then 0x2000000 else 0) + port.val * 0x400000 + entry * 0x4000 + r.val)]) ∧
      (16 ≤ s.stallLog.length → t.stallLog = s.stallLog ∧ t.flag fMS_STATUS_LOGOVF = true)) ∧
  (∀ (s : State) (rq : Requester), s.mayAccess rq 6 0 true 1 = true →
    exec (.pop rq) s = acked rq 6 0 { s with stallLog := s.stallLog.tail })

/-- R188, R189, R192, R204–R209: the commands and doorbells of the contexts, and record writes. A function acts on the
contexts it owns; what it may not do changes nothing or is counted; what arrives during a close or a composition waits
for its end. A frame is reached by a posted write of its port (R190, R364, R366, R372). The model's readings that it
rests on: log entries 59, 125. -/
def Obligations.ContextCommands : Prop :=
  ∀ (s : State) (port : HostPort) (func : FuncId) (c : CtxId) (v : BitVec 32),
    let x := s.ctxRec c
    let b := portNum port == 1
    let own := x.ownedBy b func
    let via := ContextPath.frame port func
    ((s.pxOf (portNum port)).linkUp = true → 4 ≤ (s.fnCfg (portNum port) func).mps →
      s.reaches (portNum port) func = false ∨ s.servesMemory = false →
      ∀ i ∈ [Instr.openContext via c, .park via c, .resumeContext via c, .dropContext via c, .claim via c, .assign via c,
        .cxInDb port func c v, .cxOutDb port func c v], exec i s = .next (s.badReq (portNum port) func)) ∧
    (frameOpen s port func →
    (s.cx.phase = .composing ∨ s.cx.phase = .closing → ∀ i code, (i, code) ∈ [(Instr.openContext via c, 1), (.park via c, 2), (.resumeContext via c, 3),
        (.dropContext via c, 4), (.claim via c, 5), (.assign via c, 6)] →
      exec i s = .next { s with cx := { s.cx with deferred := s.cx.deferred ++ [.command code b func true c] } }) ∧
    (s.cx.phase ≠ .composing → s.cx.phase ≠ .closing →
      (x.state = .free → exec (.openContext via c) s = .next (s.setRec c { state := .idle, portB := b, func := func })) ∧
      (x.state ≠ .free → exec (.openContext via c) s = .next s.cmdErr) ∧
      (own = false → ∀ i ∈ [Instr.park via c, .resumeContext via c, .dropContext via c, .assign via c], exec i s = .next s) ∧
      (own = true → s.follower = false →
        (x.state = .idle ∨ x.state = .ready →
          exec (.park via c) s = .next ((s.setRec c { x with state := .parked }).sendNotice c x .parked)) ∧
        (x.state = .running → exec (.park via c) s = .next (s.setRec c { x with parkReq := true })) ∧
        (x.state = .parked → exec (.park via c) s = .next s.cmdErr) ∧
        (x.state = .parked → x.eligible = true → exec (.resumeContext via c) s =
          .next ((s.setRec c { x with state := .ready, readyStep := s.reg .cxStep 0 0 }).sendNotice c x .ready)) ∧
        (x.state = .parked → x.eligible = false →
          exec (.resumeContext via c) s = .next ((s.setRec c { x with state := .idle }).sendNotice c x .idle)) ∧
        (x.state ≠ .parked → exec (.resumeContext via c) s = .next s.cmdErr)) ∧
      (own = true → s.follower = true → exec (.park via c) s = .next s.cmdErr ∧ exec (.resumeContext via c) s = .next s.cmdErr) ∧
      (own = true →
        (x.state = .running → exec (.dropContext via c) s = .next (s.setRec c { x with dropReq := true })) ∧
        (x.state ≠ .running → exec (.dropContext via c) s = .next ((s.setRec c {}).sendNotice c x .free)) ∧
        exec (.assign via c) s = .next s.cmdErr) ∧
      (let may : Prop := x.state ≠ .free ∧ own = false ∧ (x.handover = true ∨ (s.flag fCX_CFG_PEERCLAIM = true ∧ b ≠ x.portB ∧
          (s.pxOf (if x.portB then 1 else 0)).lost = true))
       (may → exec (.claim via c) s =
          .next (s.setRec c { x with portB := b, func := func, handover := false, ien := false })) ∧
       (¬may → exec (.claim via c) s = .next s.cmdErr)) ∧
      (∀ (rq : Requester) (f : BitVec 5), s.mayAccess rq 4 0x60 true 0 = true →
        exec (.assign (.cmd rq port f) c) s = acked rq 4 0x60 (if 16 < f.toNat ∨ x.state = .free then s.cmdErr
          else s.setRec c { x with portB := b, func := f.toNat, handover := false, ien := false })) ∧
      (own = true → s.follower = false →
        let tail := v.toNat % 256
        (x.inCount ≤ (tail + 256 - x.inHead) % 256 ∧ (tail + 256 - x.inHead) % 256 ≤ 128 →
          ∃ t, exec (.cxInDb port func c v) s = .next t ∧ { t with ctx := s.ctx } = s ∧ (∀ k, k ≠ c.val → t.ctxRec k = s.ctxRec k) ∧
            let y := { x with inTail := tail }
            t.ctxRec c = if x.state = .idle ∧ y.eligible = true then
              { y with state := .ready, readyStep := s.reg .cxStep 0 0 } else y) ∧
        (¬(x.inCount ≤ (tail + 256 - x.inHead) % 256 ∧ (tail + 256 - x.inHead) % 256 ≤ 128) →
          exec (.cxInDb port func c v) s = .next (s.count fCX_EVENTS_BADDB)) ∧
        ((x.outTail + 256 - tail) % 256 ≤ x.outCount →
          ∃ t, exec (.cxOutDb port func c v) s = .next t ∧ { t with ctx := s.ctx } = s ∧ (∀ k, k ≠ c.val → t.ctxRec k = s.ctxRec k) ∧
            let y := { x with outHead := tail }
            t.ctxRec c = if x.state = .idle ∧ y.eligible = true then
              { y with state := .ready, readyStep := s.reg .cxStep 0 0 } else y) ∧
        (x.outCount < (x.outTail + 256 - tail) % 256 →
          exec (.cxOutDb port func c v) s = .next (s.count fCX_EVENTS_BADDB))) ∧
      (own = false ∨ s.follower = true →
        exec (.cxInDb port func c v) s = .next s ∧ exec (.cxOutDb port func c v) s = .next s) ∧
      (own = true → ∀ half, ∃ t, exec (.recordWrite (.window port func c 0) .b32 half v) s = .next t ∧
        { t with ctx := s.ctx, regs := s.regs } = s ∧ (∀ k, k ≠ c.val → t.ctxRec k = s.ctxRec k) ∧
        t.ctxRec c = { x with prio := bits v.toNat 6 4, handover := v.getLsbD 3, ien := v.getLsbD 0 }) ∧
      (own = true → ∀ half, ∃ t, exec (.recordWrite (.window port func c 7) .b32 half v) s = .next t ∧
        { t with ctx := s.ctx, regs := s.regs } = s ∧ (∀ k, k ≠ c.val → t.ctxRec k = s.ctxRec k) ∧
        t.ctxRec c = { x with ivec := v.toNat % 0x800 }) ∧
      (own = false → ∀ n half, exec (.recordWrite (.window port func c n) .b32 half v) s = .next s)))

/-- R188, R191, R196–R202, R210–R212: the step cycle: the close takes each occupied slot's results into its record and its
ring, the gather ends, the composition selects the ready contexts, gives them slots and fills the slot map and the input
entries, the release starts the next step; a follower releases the map it holds; maps go out
again when asked, and a credit ends one. The model's readings that it rests on: log entries 59, 61, 62, 144. -/
def Obligations.StepCycle : Prop :=
  (∀ (s : State), s.cx.phase ≠ .closing ∨ s.level < 3 → exec .closeStep s = .next s) ∧
  (∀ (s : State), s.cx.phase = .closing → 3 ≤ s.level → s.cx.deferred = [] →
    (s.cx.occ.map (·.1)).Nodup → (s.cx.occ.map (·.2)).Nodup → (∀ e ∈ s.cx.occ, 1 ≤ e.2) →
    (∀ e ∈ s.cx.occ, ∀ g ∈ s.cx.occ, ∀ u ∈ unitsOf (outEntry s e.1) 64, u ∉ unitsOf (ringEntry s (g.2 - 1)) 64) →
    ∃ t, exec .closeStep s = .next t ∧ t.cx = { s.cx with phase := .gathering, gathered := false, done := false } ∧
      (∀ k, (∀ e ∈ s.cx.occ, e.2 ≠ k + 1) → t.ctxRec k = s.ctxRec k) ∧
      (∀ e ∈ s.cx.occ, ∀ c, e.2 = c + 1 → (s.ctxRec c).dropReq = true ∨ poisonedAt s (outEntry s e.1) →
        t.ctxRec c = closed (s.ctxRec c) (s.ctxRec c)) ∧
      (errorFree s →
        (∀ e ∈ s.cx.occ, ∀ c, e.2 = c + 1 → (s.ctxRec c).dropReq = false →
          let d := getBytes 0 s.dram (outEntry s e.1) 64
          t.ctxRec c = closed (s.ctxRec c) (advanced (s.ctxRec c) d) ∧
          ((leNat ((d.drop 2).take 2)).testBit 0 = true → getBytes 0 t.dram (ringEntry s c) 64 = d)) ∧
        ∀ a, (∀ e ∈ s.cx.occ, ∀ c, e.2 = c + 1 → (s.ctxRec c).dropReq = false →
            (leNat (((getBytes 0 s.dram (outEntry s e.1) 64).drop 2).take 2)).testBit 0 = true →
            a < ringEntry s c ∨ ringEntry s c + 64 ≤ a) → get 0 t.dram a = get 0 s.dram a)) ∧
  (∀ (s : State), exec .gatherTimeout s =
    .next (if s.cx.phase = .gathering then { s with cx := { s.cx with gathered := true } } else s)) ∧
  (∀ (s : State),
    let may : Prop := s.cx.phase = .gathering ∧ 3 ≤ s.level ∧ s.follower = false ∧ s.readyList ≠ [] ∧
      (s.batch ≤ s.readyList.length ∨ s.cx.gathered = true)
    (¬may → exec .compose s = .next s) ∧
    (may → ∃ t sel place, exec .compose s = .next t ∧ t.cx.phase = .composing ∧ selection s sel ∧ placed s sel place ∧
      (∀ c, c ∉ sel → t.ctxRec c = s.ctxRec c) ∧
      (∀ c ∈ sel, let x := s.ctxRec c
        (t.ctxRec c = { x with state := .running, slotV := true, slot := place c } ∨
          t.ctxRec c = { x with state := .parked } ∧ t.flag fCX_RERR_VALID = true) ∧
        (errorFree s → (t.ctxRec c).state = .running) ∧
        (poisonedAt s (s.ringAddr c (64 * (x.inHead % 128))) → (t.ctxRec c).state = .parked)) ∧
      (∀ slot, get 0 t.cx.occ slot = (match sel.find? (place · == slot) with
        | some c => if (t.ctxRec c).state = .running then c + 1 else 0
        | none => 0)) ∧
      (∀ slot < 512, (t.cx.map.drop (8 * slot)).take 8 = (match get 0 t.cx.occ slot with
        | 0 => List.replicate 8 0
        | c + 1 => leBytes 2 (0x8000 + c) ++ leBytes 2 0 ++ leBytes 4 (s.ctxRec c).tokens)) ∧
      (errorFree s → ∀ slot < 512, getBytes 0 t.dram (s.pairAddr .cxSlotinLo .cxSlotinHi + 64 * slot) 64 =
        (match get 0 t.cx.occ slot with
        | 0 => List.replicate 64 0
        | c + 1 => getBytes 0 s.dram (s.ringAddr c (64 * ((s.ctxRec c).inHead % 128))) 64)))) ∧
  (∀ (s : State), (s.cx.phase ≠ .composing → exec .release s = .next s) ∧
    (s.cx.phase = .composing → (∀ i < 4, s.flag fCX_FWD_VALID 0 i = false) → s.cx.deferred = [] →
      let u := (s.setReg .cxStep 0 0 ((s.reg .cxStep 0 0 + 1) % 0x100000000)).signalRelease
      exec .release s = .next { u with cx := { u.cx with
        phase := .running, released := true, done := false, deferred := [] } })) ∧
  (∀ (s : State) (step : Nat) (map : List Byte), s.cx.heldMap = some (step, map) → s.follower = true → 3 ≤ s.level →
    s.cx.released = false ∨ s.cx.done = true →
    ∃ t, exec .followerRelease s = .next t ∧ t.cx.heldMap = none ∧ t.cx.released = true ∧ t.cx.done = false ∧
      t.reg .cxStep 0 0 = step % 2 ^ 32 ∧
      ∃ m ∈ t.ol.hub, m.kind = .mapCredit ∧ m.ddev = s.cx.rxDev ∧ m.stepNo = step) ∧
  (∀ (s : State), s.cx.heldMap = none → exec .followerRelease s = .next s) ∧
  (∀ (s : State) (dev : BitVec 16) (step : BitVec 32) (p : Fin 32) (data : List Byte),
    (s.follower = false → exec (.slotMapPart dev step p data) s = .next s) ∧
    (s.follower = true → s.reg .cxStep 0 0 < step.toNat → s.cx.heldMap = none →
      let parts := put [] s.cx.rxParts (step.toNat * 32 + p.val) data
      let whole : Prop := ∀ n < 32, get [] parts (step.toNat * 32 + n) ≠ []
      (¬whole → exec (.slotMapPart dev step p data) s =
        .next { s with cx := { s.cx with rxParts := parts, rxDev := dev } }) ∧
      (whole → exec (.slotMapPart dev step p data) s = .next { s with cx := { s.cx with
        rxParts := parts.filter (fun e => decide (step.toNat < e.1 / 32)), rxDev := dev
        heldMap := some (step.toNat, (List.range 32).flatMap fun n => get [] parts (step.toNat * 32 + n)) } }))) ∧
  (∀ (s : State) (dev : BitVec 16) (step : BitVec 32),
    ((∀ m ∈ s.cx.sent, ¬(m.dev = dev ∧ m.stepNo = step.toNat)) → exec (.mapCredit dev step) s = .next s) ∧
    ((∃ m ∈ s.cx.sent, m.dev = dev ∧ m.stepNo = step.toNat) → (∀ m ∈ s.cx.waitingMaps, m.dev ≠ dev) →
      exec (.mapCredit dev step) s = .next { s with cx := { s.cx with
        sent := s.cx.sent.filter fun m => !(m.dev == dev && m.stepNo == step.toNat) } })) ∧
  (∀ (s : State) (dev : BitVec 16) (m : SentMap), s.cx.sent.filter (·.dev == dev) = [m] →
    ∃ t, exec (.mapResend dev) s = .next t ∧ t.cx = s.cx ∧
      t.fld fCX_MAPSTAT_RESENDS = min (s.fld fCX_MAPSTAT_RESENDS + 1) 0xFFFF ∧
      ∀ n < 32, ∀ d, m.parts[n]? = some d →
        ∃ g ∈ t.ol.hub, g.kind = .mapPart ∧ g.ddev = dev ∧ g.data = d ∧ g.part = n ∧ g.stepNo = m.stepNo)

/-- R408, R410, R413–R416, R418, R419, R424–R427: the power controller: its tick sets the goal of the activity limit from
the room under the cap and the power drawn, the limit moves by one unit a step, telemetry trims, K follows the test strip
by at most an eighth, holds lower the goal to 64, and a temperature sample moves the thermal clocks, begins a hold for a
junction or a layer, or trips. The model's readings that it rests on: log entries 82, 84, 85. -/
def Obligations.PowerControl : Prop :=
  (∀ (s : State) (est : List Nat), (s.pw.railsOn = false → exec (.controlTick est) s = .next s) ∧
    (s.pw.railsOn = true →
      let sum := ((List.range 24).map fun c => est.getD c 0).sum
      let drawn (c : Nat) : Nat :=
        let l := get {} s.pw.learned (c * 64 + (s.slice (8 * c)).phase)
        let k := s.fld fPW_K_K * est.getD c 0 * 100
        if l.hint = true ∨ s.fld fPW_LEARN_LEARNN ≤ l.n then k
        else max k ((s.fld fPW_LEARN_LDEF * s.pw.act * (s.ceil5 c * 5) * 5 + 2) / 3)
      let p : Int := ((((List.range 24).map drawn).sum : Nat) : Int)
      let room : Int := ((s.fld fPW_CAP_W : Int) - s.fld fPW_MARGIN_W) * 40960000 - s.pw.fixed - s.pw.trim
      let top : Int := if s.pw.dipHold = true ∨ s.pw.hold = true then 64 else 256
      ∃ t, exec (.controlTick est) s = .next t ∧ { t with pw := s.pw, freeCount := s.freeCount } = s ∧
        t.pw.room = room ∧ t.pw.act = s.pw.act ∧
        (∀ c < 24, let o := get {} s.pw.occupied c
          ∃ f ≤ s.ceil5 c * 5, get {} t.pw.occupied c =
            if o.begun = false then o else if o.whole = false then { o with whole := true }
            else { o with n := o.n + 1, sum := o.sum + s.fld fPW_K_K * est.getD c 0 * 256 * 1500 * 65536 * 64 / (409600 * max s.pw.act 1 * max f 1) }) ∧
        (t.pw.goal : Int) = max 1 (min top (if p ≤ 0 then top else s.pw.act * room / p)) ∧
        t.pw.estMs = s.pw.estMs + sum ∧ t.pw.estStrip = s.pw.estStrip + sum)) ∧
  (∀ (s : State), exec .activityStep s = .next { s with pw := { s.pw with
    act := if s.pw.act < s.pw.goal then s.pw.act + 1 else if s.pw.goal < s.pw.act then s.pw.act - 1 else s.pw.act } }) ∧
  (∀ (s : State) (vin pin : Nat) (rails : List (Nat × Nat)),
    let m : Int := (pin : Int) * 4096000
    let cap : Int := (s.fld fPW_CAP_W : Int) * 40960000
    let margin : Int := (s.fld fPW_MARGIN_W : Int) * 40960000
    ∃ t, exec (.telemetry vin pin rails) s = .next t ∧ { t with pw := s.pw, regs := s.regs } = s ∧
      t.fld fPW_VIN_V = min vin 0xFFFF ∧ t.fld fPW_PIN_P = min pin 0xFFFF ∧ t.pw.estMs = 0 ∧
      t.pw.fixed = m - ((s.fld fPW_K_K * s.pw.estMs : Nat) : Int) ∧
      (cap < m → t.pw.trim = s.pw.trim + (m - cap)) ∧ (cap - margin ≤ m ∧ m ≤ cap → t.pw.trim = s.pw.trim) ∧
      (m < cap - margin → m ≤ cap → t.pw.trim = max 0 (s.pw.trim - 40960000)) ∧
      t.pw.missMs = (if s.pw.goal = 1 ∧ cap < m then s.pw.missMs + 1 else 0)) ∧
  (∀ (s : State), (10 ≤ s.pw.missMs → s.pw.capMissed = false → exec .capmiss s =
      .next ({ s with pw := { s.pw with capMissed := true } }.setFlag fPW_EVSTAT_CAPMISS true)) ∧
    (s.pw.missMs < 10 ∨ s.pw.capMissed = true → exec .capmiss s = .next s)) ∧
  (∀ (s : State) (measured : Nat),
    let k := s.fld fPW_K_K
    let sum := s.pw.estStrip
    let m := measured * 10000
    let bad : Prop := sum = 0 ∨ 2 * m < sum ∨ 2 * sum < m
    ∃ t, exec (.testStrip measured) s = .next t ∧ { t with pw := s.pw, regs := s.regs } = s ∧
      t.pw = { s.pw with estStrip := 0 } ∧ t.fld fPW_K_STRIPS = min (s.fld fPW_K_STRIPS + 1) 0xFFFF ∧
      (bad → t.flag fPW_EVSTAT_CALREJ = true ∧ t.fld fPW_K_K = k) ∧
      (¬bad → 2048 ≤ k → k ≤ 8192 → 2048 ≤ t.fld fPW_K_K ∧ t.fld fPW_K_K ≤ 8192 ∧ k - k / 8 ≤ t.fld fPW_K_K ∧
        t.fld fPW_K_K ≤ k + k / 8 ∧ (let r := m * 4096 / sum
          k - k / 8 ≤ r → r ≤ k + k / 8 → 2048 ≤ r → r ≤ 8192 → t.fld fPW_K_K = r))) ∧
  (∀ (s : State) (rq : Requester) (v : BitVec 32), s.mayAccess rq 3 4 true v.toNat = true →
    let w := v.toNat % 1024
    exec (.capWrite rq v) s = acked rq 3 4 (if 150 ≤ w ∧ w ≤ 600 then s.setFld fPW_CAP_W w else s)) ∧
  (∀ (s : State) (minv : Nat), (s.pw.railsOn = false → exec (.dipHold minv) s = .next s) ∧
    (s.pw.railsOn = true → s.pw.dipHold = true →
      exec (.dipHold minv) s = .next (s.setFld fPW_DIPLOG_MINV (min minv (s.fld fPW_DIPLOG_MINV)))) ∧
    (s.pw.railsOn = true → s.pw.dipHold = false → ∃ t, exec (.dipHold minv) s = .next t ∧
      t.pw = { s.pw with dipHold := true, goal := min s.pw.goal 64, lowering := [] } ∧ t.flag fPW_EVSTAT_DIP = true ∧
      t.fld fPW_DIPLOG_COUNT = min (s.fld fPW_DIPLOG_COUNT + 1) 0xFFFF ∧ t.fld fPW_DIPLOG_MINV = min minv 0xFFFF) ∧
    exec .dipHoldEnd s = .next { s with pw := { s.pw with dipHold := false } }) ∧
  (∀ (s : State),
    let coolJunctions : Prop := signedOf 8 (s.fld fPW_THERM_JMAX) ≤ 100
    let coolLayers : Prop := signedOf 8 (s.fld fPW_THERM_DMAX) ≤ 90
    ∃ t, exec .thermalHoldEnd s = .next t ∧
      t = { s with pw := { s.pw with holdJunction := t.pw.holdJunction, holdLayer := t.pw.holdLayer } } ∧
      (t.pw.holdJunction = true ↔ s.pw.holdJunction = true ∧ ¬coolJunctions) ∧
      (t.pw.holdLayer = true ↔ s.pw.holdLayer = true ∧ ¬coolLayers)) ∧
  (∀ (s : State) (js : List Int) (layers : List (List Int)), s.pw.railsOn = true → js.length = 24 →
    layers.length ≤ 192 →
    let trips : Prop := (∃ j ∈ js, 115 ≤ j) ∨ ∃ l ∈ layers, ∃ d ∈ l, 105 ≤ d
    let hotLayer : Prop := ∃ l ∈ layers, ∃ d ∈ l, 95 < d
    (trips → ∃ t, exec (.temperatureSample js layers) s = .next t ∧ resetBegins s t 2 ∧ nothingKept s t ∧
      t.pw.railsOn = false ∧ t.pw.tripped = true ∧ t.flag fPW_EVSTAT_TRIP = true ∧ t.rs.history = []) ∧
    (¬trips → (∀ j ∈ js, -128 ≤ j) → ∃ t, exec (.temperatureSample js layers) s = .next t ∧ t.pw.railsOn = true ∧
      (∀ c < 24, ∀ j, js[c]? = some j →
        let limit : Int := s.fld fPW_THERM_TJT
        let f := s.fld fPW_CL_CLK_THERM5 c
        get 0 t.pw.tj c = j ∧
        t.fld fPW_CL_CLK_THERM5 c = (if limit ≤ j then max 160 (f - 5) else if j ≤ limit - 5 then min 340 (f + 5) else f) ∧
        (limit ≤ j → get false t.pw.throttled c = true) ∧ (j ≤ limit - 5 → get false t.pw.throttled c = false)) ∧
      (∀ sl l, layers[sl]? = some l →
        ((∃ d ∈ l, 85 < d) → (t.slice sl).hot = true) ∧ ((∀ d ∈ l, d ≤ 83) → (t.slice sl).hot = false) ∧
        ((∀ d ∈ l, d ≤ 85) → (∃ d ∈ l, 83 < d) → (t.slice sl).hot = (s.slice sl).hot)) ∧
      (hotLayer → t.pw.holdLayer = true ∧ t.flag fDR_EVSTAT_TEMP95 = true) ∧
      (¬hotLayer → t.pw.holdLayer = s.pw.holdLayer) ∧
      ((∃ j ∈ js, 105 ≤ j) → t.pw.holdJunction = true) ∧ ((∀ j ∈ js, j < 105) → t.pw.holdJunction = s.pw.holdJunction) ∧
      (hotLayer ∨ (∃ j ∈ js, 105 ≤ j) → t.pw.goal = (if s.pw.hold then s.pw.goal else min s.pw.goal 64) ∧
        (s.pw.hold = false → t.flag fPW_EVSTAT_THOLD = true)) ∧
      (¬hotLayer → (∀ j ∈ js, j < 105) → t.pw.goal = s.pw.goal)))

/-- R422, R423, R428, R429, R456: the densitometer lowers the target of a cluster that is short of slack by one unit,
down to 800 MHz, where it is degraded; management's messages are answered while their binding is up; a host's alert
read finds the module while ALERT_N is asserted. The model's readings that it rests on: log entries 34, 60, 84. -/
def Obligations.AgeingAndManagement : Prop :=
  (∀ (s : State) (slack : List Nat), slack.length = 24 →
    (s.pw.dipHold = true ∨ s.pw.hold = true → exec (.densitometer slack) s =
      .next { s with pw := { s.pw with densBusy := true, lowering := [] } }) ∧
    (s.pw.dipHold = false → s.pw.hold = false → ∃ t, exec (.densitometer slack) s = .next t ∧
      (∀ c < 24, ∀ d, slack[c]? = some d →
        let target := s.fld fPW_CL_TARGET_TARGET5 c
        get 0 t.pw.slack c = min d 255 ∧
        t.fld fPW_CL_TARGET_TARGET5 c = (if d < 20 ∧ 160 < target then target - 1 else target) ∧
        (d < 20 → target ≤ 160 → get false t.pw.degraded c = true) ∧
        (get false t.pw.lowering c = true ↔ d < 20 ∧ 160 < target)) ∧
      (t.pw.densBusy = false → t.pw.measured = true) ∧
      (t.pw.densBusy = true ↔ ∃ c < 24, ∃ d, slack[c]? = some d ∧ d < 20 ∧ 160 < s.fld fPW_CL_TARGET_TARGET5 c))) ∧
  (∀ (s : State) (c : ClusterId) (d : Nat), (get false s.pw.lowering c = false → exec (.densitometerStep c d) s = .next s) ∧
    (get false s.pw.lowering c = true →
      let target := s.fld fPW_CL_TARGET_TARGET5 c
      ∃ t, exec (.densitometerStep c d) s = .next t ∧ get 0 t.pw.slack c = min d 255 ∧
        t.fld fPW_CL_TARGET_TARGET5 c = (if d < 20 ∧ 160 < target then target - 1 else target) ∧
        (d < 20 → target ≤ 160 → get false t.pw.degraded c = true) ∧ { t with pw := s.pw, regs := s.regs, sec := s.sec } = s)) ∧
  (∀ (s : State) (rq : Requester), s.mayAccess rq 3 0x2C true 0x40000000 = true →
    exec (.run rq) s = acked rq 3 0x2C { s with pw := { s.pw with densBusy := true } }) ∧
  (∀ (s : State) (via : Binding) (inst : Byte) (cap : BitVec 16) (a : BitVec 64) (v : BitVec 32) (eid : Byte),
    let answer (t : State) (command status : Nat) (data : List Nat) : Host.Outcome State Fault Refusal :=
      .next { t with out := .mctp via command inst.toNat status data :: t.out }
    let control (t : State) (command : Nat) (data : List Nat) : Host.Outcome State Fault Refusal :=
      .next { t with out := .mctpControl via command data :: t.out }
    (s.bindingUp via = true →
      exec (.getPower via inst) s =
        answer s 1 0 [s.regValue .pwPin 0 0, s.regValue .pwVin 0 0, s.regValue .pwCap 0 0, s.regValue .pwStatus 0 0] ∧
      (150 ≤ cap.toNat ∧ cap.toNat ≤ 600 →
        exec (.setCap via inst cap) s = answer (s.setFld fPW_CAP_W cap.toNat) 2 0 []) ∧
      (¬(150 ≤ cap.toNat ∧ cap.toNat ≤ 600) → exec (.setCap via inst cap) s = answer s 2 2 []) ∧
      (∀ blk off u n r, a.toNat = regAddr blk off → blk ≤ 16 → off < 0x1000000 → off % 4 = 0 →
        (s.mayAccess .management blk off false 0 = true → findReg blk off = some (r, u, n) → accMask r .rc = 0 →
          exec (.readReg via inst a) s = answer (if r ∈ [RegId.msRate, .mxStatus, .vxStatus] then
            { s with freeCount := s.freeCount + 2 } else s) 3 0 [s.regValue r u n % 2 ^ 32]) ∧
        (s.mayAccess .management blk off false 0 = false → exec (.readReg via inst a) s = answer s 3 3 []) ∧
        (s.mayAccess .management blk off true v.toNat = true → findReg blk off = some (r, u, n) →
          exec (.writeReg via inst a v) s = answer (s.writeReg .management r u n v.toNat true true) 4 0 []) ∧
        (s.mayAccess .management blk off true v.toNat = false → exec (.writeReg via inst a v) s = answer s 4 3 [])) ∧
      (∀ code, code ∉ [1, 2, 3, 4, 5] → .next (s.vendorMessage via code inst a.toNat v.toNat) = answer s code 1 []) ∧
      exec (.getEvents via inst) s = answer s 5 0 [s.regValue .pwEvstat 0 0, s.regValue .mgStage 0 0] ∧
      (eid = 0 ∨ eid = 0xFF → exec (.setEndpointId via eid) s = control s 1 [2]) ∧
      (eid ≠ 0 → eid ≠ 0xFF → ∃ t, exec (.setEndpointId via eid) s = control t 1 [0, 0, eid.toNat, 0] ∧
        { t with pw := s.pw } = s ∧ t.endpointId via = eid.toNat) ∧
      exec (.getEndpointId via) s = control s 2 [0, s.endpointId via, 0, 0] ∧
      exec (.getMctpVersionSupport via) s = control s 4 (0 :: Config.mctpVersions) ∧
      exec (.getMessageTypeSupport via) s = control s 5 [0, 1, 0x7E] ∧
      exec (.getVendorDefinedSupport via) s = control s 6 [0, 0xFF, 0, Config.vendorId % 0x10000]) ∧
    (s.bindingUp via = false → ∀ i ∈ [Instr.getPower via inst, .setCap via inst cap, .readReg via inst a, .writeReg via inst a v,
        .getEvents via inst, .setEndpointId via eid, .getEndpointId via, .getMctpVersionSupport via,
        .getMessageTypeSupport via, .getVendorDefinedSupport via], exec i s = .next s)) ∧
  (∀ (s : State), (s.alertSrc &&& s.reg .mgAlertEn 0 0 ≠ 0 → exec .alertResponse s = .next (s.emit (.alertByte 0x74))) ∧
    (s.alertSrc &&& s.reg .mgAlertEn 0 0 = 0 → exec .alertResponse s = .next s))

/-- R324, R327, R348, R351, R436, R437: the bring-up of a port, its loss of wavelengths, and its ways out of service. The model's
readings that it rests on: log entries 69, 72, 83, 98, 121. -/
def Obligations.PortCommands : Prop :=
  ∀ (s : State) (p : PortId) (bad : BitVec 8) (rq : Requester) (w : Fin 8),
    let x := s.port p
    (portUp s p →
      (∃ t, exec (.leaveService p .noBlock) s = .next t ∧ wentDown s t p 1 0 (downState s)) ∧
      (∃ t, exec (.leaveService p .noGroup) s = .next t ∧ wentDown s t p 3 0 (downState s)) ∧
      (x.width = 1 → ∃ t, exec (.leaveService p .uncorrectable) s = .next t ∧ wentDown s t p 2 0 (downState s)) ∧
      (x.locked = true → ∃ t, exec (.leaveService p .attestation) s = .next t ∧
        wentDown s t p 4 x.attCause (downState s) ∧ t.flag fOL_EVSTAT_ATTFAIL = true)) ∧
    (x.width ≠ 1 → exec (.leaveService p .uncorrectable) s = .next s) ∧
    (s.mayAccess rq 8 (0x200 + 0x20 * p.val) true 1 = true →
      (x.state = .outOfService → exec (.retrain rq p) s =
        acked rq 8 (0x200 + 0x20 * p.val) (s.setPort p { state := .training, downCause := 5 })) ∧
      (portUp s p → ∃ t, exec (.retrain rq p) s = acked rq 8 (0x200 + 0x20 * p.val) t ∧ wentDown s t p 5 0 .training) ∧
      (x.state = .dark ∨ x.state = .unused → exec (.retrain rq p) s = acked rq 8 (0x200 + 0x20 * p.val) s)) ∧
    (x.locked = true → ∀ waves, (∀ k, waves.testBit k = (x.waves.testBit k && !bad.toNat.testBit k)) →
      let g := match x.nextWidth with
        | none => x.lanes
        | some v => (group x.waves v).getD []
      let most := match x.nextWidth with
        | none => max 1 (x.width / 2)
        | some v => v
      ((∀ k ∈ g, bad.toNat.testBit k = false) → exec (.narrow p bad) s = .next (s.setPort p { x with waves := waves })) ∧
      ((∃ k ∈ g, bad.toNat.testBit k = true) →
        (∀ v, widthAtMost waves most = some v →
          exec (.narrow p bad) s = .next ({ s with freeCount := s.freeCount + 1 }.setPort p { x with
            waves := waves, nextWidth := some v
            boundary := (x.blockCount + 4 + Config.freeNat s.freeCount) % 0x10000 })) ∧
        (widthAtMost waves most = none →
          ∃ t, exec (.narrow p bad) s = .next t ∧ wentDown s t p 3 0 (downState s)))) ∧
    (x.locked = false → exec (.narrow p bad) s = .next s) ∧
    (∀ v, x.nextWidth = some v → x.txBlock = [] → x.blockCount = x.boundary → ∃ t, exec (.widthChange p) s = .next t ∧
      t.port p = { x with width := v, lanes := (group x.waves v).getD [], nextWidth := none } ∧
      (∀ q, q ≠ p.val → t.port q = s.port q) ∧ t.flag fOL_EVSTAT_NARROW = true ∧ t.fld fOL_EVSTAT_PORT = p.val) ∧
    (x.nextWidth = none ∨ x.txBlock ≠ [] ∨ x.blockCount ≠ x.boundary → exec (.widthChange p) s = .next s) ∧
    (s.ol.workingFailed.getLsbD w = false → ∃ t, exec (.laserFailover w) s = .next t ∧
      (∀ k < 8, t.ol.workingFailed.getLsbD k = (s.ol.workingFailed.getLsbD k || decide (k = w.val))) ∧
      { t with ol := { t.ol with workingFailed := s.ol.workingFailed } } = s) ∧
    (s.ol.workingFailed.getLsbD w = true → ∃ t, exec (.laserFailover w) s = .next t ∧
      (∀ k < 8, t.ol.spareFailed.getLsbD k = (s.ol.spareFailed.getLsbD k || decide (k = w.val))) ∧
      t.ol.workingFailed = s.ol.workingFailed) ∧
    (let lit : Prop := s.pw.railsOn = true ∧ s.pw.mrst = false ∧ s.rs.retired = false ∧ s.rs.standby = false
     (¬lit → ∀ st ∈ [TrainStage.light, .lock], exec (.portTraining p st) s = .next s) ∧
     (lit → x.state = .training → ∀ waves, (∀ k, waves.testBit k = ((if x.final then x.waves else 3).testBit k &&
        !(decide (k < 8) && s.ol.workingFailed.getLsbD k && s.ol.spareFailed.getLsbD k))) →
      (∀ v, widthAtMost waves (if x.final then x.width else 2) = some v →
        ∃ t, exec (.portTraining p .lock) s = .next t ∧ (t.port p).state = .attesting ∧ (t.port p).waves = waves ∧
          (t.port p).width = v ∧ (t.port p).lanes = (group waves v).getD [] ∧
          (s.level = 0 → (t.port p).ownNonce = x.ownNonce)) ∧
      (widthAtMost waves (if x.final then x.width else 2) = none →
        ∃ t, exec (.portTraining p .lock) s = .next t ∧ wentDown s t p 3 0 (downState s))) ∧
     (lit → x.state = .dark →
      exec (.portTraining p .light) s = .next (s.setPort p { x with state := .training }))) ∧
    (x.state = .attesting → x.accepted = true → x.peerAccepted = true → ∃ t, exec (.portTraining p .attest) s = .next t ∧
      t.port p = { x with state := .ready } ∧ t.flag fOL_EVSTAT_PORTREADY = true) ∧
    (∀ v, x.state = .ready → s.ol.workingFailed = 0 → widthAtMost bad.toNat 8 = some v →
      exec (.portTraining p (.width bad)) s = .next (s.setPort p { x with
        waves := bad.toNat, width := v, lanes := (group bad.toNat v).getD [], final := true })) ∧
    (x.state = .inService → exec (.portTraining p (.width bad)) s = .next (s.setPort p { x with final := true })) ∧
    exec (.heartbeat p) s = .next s

/-- R349, R353–R356: attestation: a nonce is answered in 74 parts or kept until level 1, a whole report is judged, and a
verdict, a limit or a failed test has its effect; epochs: the device arms, switches, adopts a peer's epoch and
drains. The model's readings that it rests on: log entries 68, 71, 123. -/
def Obligations.AttestationAndEpochs : Prop :=
  ∀ (s : State) (p : PortId) (rq : Requester),
    let x := s.port p
    let failed (t : State) (cause : Nat) : Prop := t.port p = { state := downState s, downCause := 4, attCause := cause } ∧
      t.flag fOL_EVSTAT_ATTFAIL = true ∧ t.flag fOL_EVSTAT_PORTDOWN = true
    (∀ n, (x.locked = false → exec (.nonce p n) s = .next s) ∧
      (x.locked = true → s.level = 0 → exec (.nonce p n) s = .next (s.setPort p { x with peerNonce := some n })) ∧
      (x.locked = true → 1 ≤ s.level → ∃ t l, exec (.nonce p n) s = .next t ∧
        get [] (t.link (p.val / 2)).txq (12 + p.val % 2) = get [] (s.link (p.val / 2)).txq (12 + p.val % 2) ++ l ∧
        l.map (fun e => e.1.data) = chunks 128 74 (s.bundle n) ∧ ∀ e ∈ l, e.1.kind = .management ∧ e.1.part = 2)) ∧
    (∀ (i : Fin 74) (d : List Byte), x.state = .attesting → x.ownNonce.isSome = true → x.accepted = false →
      let y := { x with report := put [] x.report i (fit 128 d) }
      let b := (List.range 74).flatMap fun j => get [] y.report j
      (y.report.length < 74 → exec (.reportPart p i d) s = .next (s.setPort p y)) ∧
      (74 ≤ y.report.length → ∀ cause u, (s.setPort p y).attCause p b = (cause, u) → ∃ t, exec (.reportPart p i d) s = .next t ∧
        (cause = 0 → (t.port p).accepted = true ∧ (t.port p).state = .attesting ∧ (t.port p).peerDigest = (b.drop 64).take 32) ∧
        (cause ≠ 0 → failed t cause))) ∧
    (x.state = .attesting → exec (.verdict p true) s = .next (s.setPort p { x with peerAccepted := true }) ∧
      (∃ t, exec (.verdict p false) s = .next t ∧ failed t 0) ∧
      exec (.notReady p) s = .next (s.setPort p { x with attAt := s.clock })) ∧
    (x.state ≠ .attesting → exec (.notReady p) s = .next s ∧ exec (.attestationTimeout p) s = .next s ∧
      ∀ ok, exec (.verdict p ok) s = .next s) ∧
    (x.state = .attesting → x.ownNonce.isSome = true → x.accepted = false →
      (x.attAt + 40000 ≤ s.clock → ∃ t, exec (.attestationTimeout p) s = .next t ∧ failed t 7) ∧
      (s.clock < x.attAt + 40000 → exec (.attestationTimeout p) s = .next s)) ∧
    (s.level = 0 → x.locked = true → x.peerNonce.isSome = true → exec (.notReadyNotice p) s = .next (s.portSay p 6 0 [])) ∧
    (∀ e : BitVec 16, (x.locked = false → exec (.epochReport p e) s = .next s ∧ exec (.epochNotice p e) s = .next s) ∧
      (x.locked = true → x.accepted = false ∨ s.ol.adopted = true →
        exec (.epochReport p e) s = .next (s.setPort p { x with repEpoch := some e.toNat })) ∧
      (x.locked = true → x.accepted = true → s.ol.adopted = false → ∃ t, exec (.epochReport p e) s = .next t ∧
        t.ol.adopted = true ∧ t.ol.epoch = (if s.ol.epoch = 0 then e.toNat else s.ol.epoch)) ∧
      (x.locked = true →
        let ahead := (e.toNat + 0x10000 - s.ol.epoch) % 0x10000
        let v := s.setPort p { x with noticeEpoch := some e.toNat, awaiting := x.awaiting && ahead != 0 }
        (ahead = 1 → s.ol.armed = true → ∃ t, exec (.epochNotice p e) s = .next t ∧ switched v t) ∧
        (ahead = 1 → s.ol.armed = false → ∃ t, exec (.epochNotice p e) s = .next t ∧ t.flag fOL_EVSTAT_UNARMED = true ∧
          t.ol = v.ol) ∧
        (2 ≤ ahead → ahead < 0x8000 → ∃ t, exec (.epochNotice p e) s = .next t ∧ t.flag fOL_EVSTAT_EPOCHSKIP = true ∧
          t.ol = s.ol) ∧
        (ahead = 0 → exec (.epochNotice p e) s = .next v) ∧
        (0x8000 ≤ ahead → exec (.epochNotice p e) s = .next s))) ∧
    (s.mayAccess rq 8 8 true 2 = true → exec (.arm rq) s = acked rq 8 8 { s with ol := { s.ol with armed := true } }) ∧
    (s.mayAccess rq 8 8 true 1 = true →
      (s.ol.armed = true → s.ol.draining = false → ∃ t, exec (.go rq) s = acked rq 8 8 t ∧ switched s t) ∧
      (s.ol.armed = false ∨ s.ol.draining = true → exec (.go rq) s = acked rq 8 8 s)) ∧
    (∀ v : BitVec 32, s.mayAccess rq 8 0x24 true v.toNat = true → exec (.routeTableWrite rq v) s = acked rq 8 0x24
      (if s.flag fOL_RTSEL_CUR then s else { s with ol := { s.ol with
        armed := false, next := put 0 s.ol.next (s.fld fOL_RTSEL_DEV) (BitVec.ofNat 8 v.toNat) } })) ∧
    (let drained : Prop := s.ol.draining = true ∧ s.ol.drainAt + s.fld fOL_TIMERS_DRAINUS ≤ s.clock
     (drained → exec .drainEnd s = .next { s with ol := { s.ol with draining := false, prev := [] } }) ∧
     (¬drained → exec .drainEnd s = .next s))

/-- R328–R332, R341–R345, R352: the hub routes, delivers, refuses or discards a transaction; a port sends and receives
flits, twenty to a block of eight codewords; a link that is lost drops what it held. The model's readings that it
rests on: log entries 65, 67, 70, 120, 122. -/
def Obligations.LinksAndHub : Prop :=
  (∀ (s : State) (i : Nat) (m : Msg), s.ol.hub[i]? = some m →
    (∀ e ∈ s.ol.hub.take i, ¬(e.from_ = m.from_ ∧ e.kind.lane = m.kind.lane ∧ e.vc = m.vc)) → m.kind ≠ .void →
    let t := { s with ol := { s.ol with hub := dropAt s.ol.hub i } }
    (s.hubTable m = none → exec (.hubLookup i) s = .next (t.hubDrop m 3 fOL_DROPS_STALE)) ∧
    (∀ tab, s.hubTable m = some tab →
      let e := (get 0 tab m.ddev.toNat).toNat
      let k := e % 8
      (s.entryValid e = false → exec (.hubLookup i) s = .next (t.hubDrop m 1 fOL_DROPS_NOROUTE)) ∧
      (s.entryValid e = true → e.testBit 6 = true →
        (m.kind = .write ∨ m.kind = .readReq → (∀ c o, targetOf m.addr = .scratchpad c o → exec (.hubLookup i) s =
            .next { t with vReq := s.vReq ++ [{ m with ddev := s.ol.devId, vc := 0, src := 2003, hop := 0 }] }) ∧
          ((∀ c o, targetOf m.addr ≠ .scratchpad c o) → exec (.hubLookup i) s = .next (t.routeRefuse m 5))) ∧
        (m.kind = .ack ∨ m.kind = .readResp ∨ m.kind = .refusal → exec (.hubLookup i) s =
          .next { t with vResp := s.vResp ++ [{ m with ddev := s.ol.devId, vc := 0, src := 2003, hop := 0 }] })) ∧
      (s.entryValid e = true → e.testBit 6 = false →
        ((s.link k).state = .lost → exec (.hubLookup i) s = .next (t.hubDrop m 2 fOL_DROPS_LOSTLINK)) ∧
        ((s.link k).state ≠ .lost → m.kind = .readReq → e.testBit 5 = true →
          exec (.hubLookup i) s = .next (t.hubDrop m 4 fOL_DROPS_XBREAD)) ∧
        ((s.link k).state ≠ .lost → m.kind ≠ .readReq ∨ e.testBit 5 = false →
          let m' := s.hopOver m k
          let key := channelKey m'.kind.lane m'.vc
          ∃ u, exec (.hubLookup i) s = .next u ∧ { u with ol := { u.ol with links := s.ol.links } } = t ∧
            (∀ j, j ≠ k → u.link j = s.link j) ∧
            get [] (u.link k).txq key = get [] (s.link k).txq key ++ [(m', m'.bytes)])))) ∧
  (∀ (s : State) (k : LinkId),
    let dead : Prop := (s.link k).state = .inService ∧ (s.port (2 * k.val)).state ≠ .inService ∧
      (s.port (2 * k.val + 1)).state ≠ .inService
    (dead → ∃ t, exec (.linkLost k) s = .next t ∧ (t.link k).state = .lost ∧ (t.link k).retry = [] ∧ (t.link k).txq = [] ∧
      t.flag fOL_EVSTAT_LINKLOST = true ∧ t.fld fOL_EVSTAT_LINK = k.val) ∧
    (¬dead → exec (.linkLost k) s = .next s)) ∧
  (∀ (s : State) (p : PortId),
    let l := s.link (p.val / 2)
    (∀ c, (s.port p).locked = false → exec (.flitSend p c) s = .next s) ∧
    ((s.port p).locked = true → l.owed = [] → l.rxNext < 4096 → ∃ t bs, exec (.flitSend p .idle) s = .next t ∧
      flitLeft s t p bs ∧ flitGood bs = true ∧ (FlitHead.of bs).kind = 1 ∧
      (FlitHead.of bs).ackSeq = (l.rxNext + 4095) % 4096 ∧ (FlitHead.of bs).nak = l.nakDue ∧
      (t.link (p.val / 2)).nakDue = false) ∧
    (∀ w, (s.port p).locked = true → (s.port p).nextWidth = some w →
      let d := (Config.controlPayload w (s.port p).boundary).take 244
      ∃ t bs, exec (.flitSend p .control) s = .next t ∧ flitLeft s t p bs ∧ flitGood bs = true ∧
        (FlitHead.of bs).kind = 2 ∧ (bs.drop 8).take d.length = d) ∧
    (∀ (lane vc : Fin 4), let key := channelKey lane vc
      (s.port p).locked = true → l.replay = [] → l.retry.length < 2048 → s.nextChannel p = some key →
      ∃ t bs f, exec (.flitSend p (.data lane vc)) s = .next t ∧ flitLeft s t p bs ∧ bs.length = 256 ∧
        (t.link (p.val / 2)).txSeq = (l.txSeq + 1) % 4096 ∧ (t.link (p.val / 2)).retry = l.retry ++ [f] ∧
        f.seq = l.txSeq ∧ f.key = key ∧ f.payload = ((flitQueue key (get [] l.txq key)).1.flatMap (·.2)).take 244 ∧
        (bs.drop 8).take f.payload.length = f.payload ∧
        get 0 (t.link (p.val / 2)).used key = get 0 l.used key + 1) ∧
    (∀ f r, (s.port p).locked = true → l.replay = f :: r → s.carries p f.key = true → f.payload.length ≤ 244 →
      ∃ t bs, exec (.flitSend p .replay) s = .next t ∧ flitLeft s t p bs ∧ bs.length = 256 ∧
        (bs.drop 8).take f.payload.length = f.payload ∧ (t.link (p.val / 2)).replay = r)) ∧
  (∀ (s : State) (p : PortId) (words : List (List Nat)) (i : Fin 20),
    let l := s.link (p.val / 2)
    let x := s.port p
    let f := blockFlit words i
    let receive : Instr := .flitReceive p words i
    (x.locked = false → exec receive s = .next s) ∧
    (x.locked = true → (∀ bs, f.bytes = some bs → flitGood bs = false ∨ (FlitHead.of bs).kind ≠ 0) → ∃ t, exec receive s = .next t ∧
      t.fld fOL_PORT_ERR_CORR p = min (s.fld fOL_PORT_ERR_CORR p + f.corrected) 0xFFFF ∧
      t.fld fOL_PORT_ERR_UNCORR p = min (s.fld fOL_PORT_ERR_UNCORR p + f.bad) 0xFFFF ∧
      (f.bytes = none → t.link (p.val / 2) = { l with nakDue := true } ∧ t.ol.hub = s.ol.hub)) ∧
    (∀ bs, x.locked = true → f.bytes = some bs →
      let h := FlitHead.of bs
      (flitGood bs = false → ∃ t, exec receive s = .next t ∧
        t.link (p.val / 2) = { l with nakDue := true } ∧ t.ol.hub = s.ol.hub) ∧
      (flitGood bs = true → h.kind ≠ 0 → ∃ t, exec receive s = .next t ∧ t.link (p.val / 2) = l.acked h ∧ t.ol.hub = s.ol.hub ∧
        (h.kind = 1 → t.port p = x) ∧
        (h.kind = 2 → ∀ w b, Config.controlNames ((bs.drop 8).take 244) = some (w, b) → w ∈ [4, 2, 1] → w < x.width →
          (group x.waves w).isSome = true → t.port p = { x with nextWidth := some w, boundary := b % 0x10000 })) ∧
      (∀ m, flitGood bs = true → h.kind = 0 → l.rxNext < 4096 → h.seq = l.rxNext → x.state = .inService → h.lane ≠ 3 →
        let key := channelKey h.lane h.vc
        let stream := get [] (l.acked h).rxBytes key ++ (bs.drop 8).take (min h.used 244)
        (cutTransactions (stream.length / 16) stream).1 = [m] → m.kind = .write →
        ∃ t, exec receive s = .next t ∧ t.ol.hub = s.ol.hub ++ [{ m with from_ := p.val / 2, vc := h.vc }] ∧
          (t.link (p.val / 2)).rxNext = (l.rxNext + 1) % 4096 ∧
          get 0 (t.link (p.val / 2)).owed key = get 0 (l.acked h).owed key + 1)))

/-- R162, R315–R320, R436, R437: refresh, scrubbing, training and the exit from self-refresh of a DRAM slice. The model's readings
that it rests on: log entries 39, 58, 133. -/
def Obligations.DramUpkeep : Prop :=
  ∀ (s : State) (sl : SliceId) (failed : List (BitVec 9)),
    let x := s.slice sl
    let runs : Prop := 2 ≤ s.level ∧ x.selfRef = false
    let lanes := ((failed.map (·.toNat)).filter (· < 288)).eraseDups
    (runs → ∃ t, exec (.refreshDue sl) s = .next t ∧ t.slice sl = { x with debt := x.debt + 1 } ∧
      (∀ j, j ≠ sl.val → t.slice j = s.slice j) ∧
      (x.debt = 15 → t.flag fDR_EVSTAT_DEBT = true ∧ t.fld fDR_EVSTAT_SLICE = sl.val) ∧ (x.debt ≠ 15 → t.regs = s.regs)) ∧
    (¬runs → exec (.refreshDue sl) s = .next s ∧ exec (.refreshOperation sl) s = .next s ∧ exec (.sliceSlot sl) s = .next s) ∧
    (x.debt = 0 → exec (.refreshOperation sl) s = .next s) ∧
    (∀ y e, runs → s.sliceNow sl = some (y, e) →
      (x.debt ≠ 0 → bits e 31 29 = 2 → y.moved + 8 ≤ e % 0x10000 + 1 → exec (.refreshOperation sl) s =
        .next (s.setSlice sl (if y.moved + 8 = e % 0x10000 + 1
          then { y with debt := y.debt - 1, entry := (y.entry + 1) % 256, moved := 0 }
          else { y with debt := y.debt - 1, moved := y.moved + 8 }))) ∧
      (x.debt ≠ 0 → bits e 31 29 = 0 → y.streamWaits sl (bits e 28 27) = true →
        exec (.refreshOperation sl) s = .next (s.setSlice sl { y with debt := y.debt - 1 })) ∧
      (bits e 31 29 = 1 ∨ bits e 31 29 = 2 → exec (.sliceSlot sl) s = .next (s.setSlice sl
        (if e % 0x10000 ≤ y.moved then { y with entry := (y.entry + 1) % 256, moved := 0 }
          else { y with moved := y.moved + 1 }))) ∧
      (bits e 31 29 ≠ 1 → bits e 31 29 ≠ 2 → exec (.sliceSlot sl) s = .next s)) ∧
    (s.flag fDR_CTRL_SCRUBEN = true → s.sliceServesV sl = true → ∀ r u, s.readUnit sl (s.fld fDR_SCRUB_NEXT sl) = (r, u) →
      let n := s.fld fDR_SCRUB_NEXT sl
      ∃ t, exec (.scrub sl) s = .next t ∧ t.fld fDR_SCRUB_NEXT sl = (n + 1) % 0x800000 ∧
        (n + 1 = 0x800000 → t.fld fDR_SCRUB_PASSES sl = (s.fld fDR_SCRUB_PASSES sl + 1) % 0x100) ∧
        (n + 1 ≠ 0x800000 → t.fld fDR_SCRUB_PASSES sl = s.fld fDR_SCRUB_PASSES sl) ∧
        (∀ off, r.off = some off → r.inner = true ∨ r.outer = true →
          get {} (t.slice sl).err n = {} ∧ get false (t.slice sl).poisoned n = false ∧
          t.dram = (u.dramMiscorrect (dramAddress sl n) off).dram) ∧
        (r.off = none ∨ (r.inner = false ∧ r.outer = false) → t.slice sl = u.slice sl ∧ t.dram = s.dram)) ∧
    (s.flag fDR_CTRL_SCRUBEN = false ∨ s.sliceServesV sl = false → exec (.scrub sl) s = .next s) ∧
    (s.level0 = true → x.trained = false → x.trfail = false → x.selfRef = false →
      ∃ t, exec (.training sl failed) s = .next t ∧
        (∀ a, get 0 t.dram a = if (dramPlace a).1 = sl.val then 0 else get 0 s.dram a) ∧
        t.fld fDR_SSTATUS_NERASE sl = min lanes.length 4 ∧
        (lanes.length ≤ 4 → t.slice sl = { x with trained := true, err := [], poisoned := [] }) ∧
        (4 < lanes.length → t.slice sl = { x with trfail := true, err := [], poisoned := [] } ∧
          t.flag fDR_EVSTAT_TRFAIL = true ∧ t.fld fDR_EVSTAT_SLICE = sl.val)) ∧
    (s.level0 = true → s.rs.retired = false → s.rs.standby = false → x.selfRef = true → ∀ retrain : Bool,
      let known := if retrain then [] else s.erasedLanes sl
      let all := known ++ lanes.filter (!known.contains ·)
      ∃ t, exec (.selfRefreshExit sl failed retrain) s = .next t ∧ t.dram = s.dram ∧
        (all.length ≤ 4 → t.slice sl = { x with selfRef := false, trained := true }) ∧
        (4 < all.length → t.slice sl = { x with selfRef := false, trfail := true } ∧ t.flag fDR_EVSTAT_TRFAIL = true)) ∧
    (s.level0 = false → exec (.training sl failed) s = .next s) ∧
    (s.level0 = false ∨ s.rs.retired = true ∨ s.rs.standby = true →
      ∀ retrain, exec (.selfRefreshExit sl failed retrain) s = .next s)

/-- R360–R363, R366, R372, R437: configuration requests: none completes while the link is down; one is unsupported in standby
and for a function that is not present, is answered with a retry before level 1, waits behind the port's earlier posted
writes, and else reads or writes a field. The model's readings that it rests on: log entries 4, 124, 125, 126. -/
def Obligations.ConfigurationRequests : Prop :=
  (∀ (s : State) (p : Nat),
    (∀ e, leavesBehind s (s.leaves p e) p e) ∧
    (∀ f e place adv, (e, place) ∈ [(1, 20), (2, 12), (3, 18), (4, 14), (5, 16)] →
      reported s (s.aerError p f e adv) p f e place) ∧
    (p < 2 → ∀ f adv, (s.badReq p f adv).fld fPX_ERR_BADREQ p = min (s.fld fPX_ERR_BADREQ p + 1) 0xFF ∧
      ∃ u, reported u (s.badReq p f adv) p f 1 20 ∧ { u with regs := s.regs } = s)) ∧
  ∀ (s : State) (port : HostPort) (func : FuncId) (w : ConfigOp) (v : Word),
    let p := portNum port
    let x := s.pxOf p
    let c := s.fnCfg p func
    let req (q : ConfigField) : Instr := .configurationRequest port func (.write q v)
    let writes (q : ConfigField) (ok : Prop) (y : FnCfg) : Prop :=
      (ok → ∃ u, exec (req q) s = .next (u.complete p func []) ∧ u.fnCfg p func = y ∧
        (∀ f, f ≠ func.val → u.fnCfg p f = s.fnCfg p f) ∧ onlyPx p s u) ∧
      (¬ok → exec (req q) s = .next (s.complete p func []))
    let writesPort (q : ConfigField) (ok : Prop) (y : PxPort) : Prop :=
      (ok → ∃ u, exec (req q) s = .next (u.complete p func []) ∧ u.pxOf p = y ∧ onlyPx p s u) ∧
      (¬ok → exec (req q) s = .next (s.complete p func []))
    (x.linkUp = false → exec (.configurationRequest port func w) s = .next s) ∧
    (x.linkUp = true → s.rs.standby = true → exec (.configurationRequest port func w) s = .next (s.badRead p func)) ∧
    (x.linkUp = true → s.rs.standby = false →
      (¬answering s → exec (.configurationRequest port func w) s =
        .next (s.leaves p (.hostCompletion port func 2 [] false))) ∧
      (answering s → ¬presentFn x func → exec (.configurationRequest port func w) s = .next (s.badRead p func)) ∧
      (answering s → presentFn x func → s.portBusy p = true → exec (.configurationRequest port func w) s =
        .next (s.setPx p { x with waiting := x.waiting ++ [⟨func, .config w, false⟩] })) ∧
      (answering s → presentFn x func → s.portBusy p = false →
        (∀ q n, (q, n) ∈ configFields x c func → exec (.configurationRequest port func (.read q)) s =
          .next (s.complete p func (leBytes 4 n))) ∧
        writes .memorySpace True { c with mse := v.getLsbD 0 } ∧
        writes .relaxedOrdering True { c with ero := v.getLsbD 0 } ∧
        writes .msixEnable True { c with msixEn := v.getLsbD 0 } ∧
        writes .functionMask True { c with fmask := v.getLsbD 0 } ∧
        (v.getLsbD 0 = true → writes .busMaster True { c with bme := true }) ∧
        (v.getLsbD 0 = false → c.bme = true → exec (req .busMaster) s = .next ((s.flr p func).complete p func [])) ∧
        writes .bar4Size (func.val = 0 ∧ 8 ≤ v.toNat ∧ v.toNat ≤ 16) { c with bar4sz := v.toNat } ∧
        writes .maxPayload (v.toNat ∈ [128, 256, 512]) { c with mps := v.toNat } ∧
        writes .maxRead (v.toNat ∈ [128, 256, 512, 1024, 2048, 4096]) { c with mrrs := v.toNat } ∧
        writes .completionTimeout (v.toNat < 32) { c with cto := v.toNat } ∧
        (∀ dw, writes (.bar dw) (func.val = 0) { c with bars := setBarDw c.bars c.bar4sz dw v.toNat } ∧
          writesPort (.vfBar dw) (func.val = 0) { x with vfBars := setBarDw x.vfBars x.vfBar4sz dw v.toNat }) ∧
        writesPort .vfBar4Size (func.val = 0 ∧ 8 ≤ v.toNat ∧ v.toNat ≤ 16) { x with vfBar4sz := v.toNat } ∧
        writes .deviceControl True { c with aer := { c.aer with control := v.toNat % 16 } } ∧
        writes .uncMask True { c with aer := { c.aer with uncMask := v.toNat &&& uncBits } } ∧
        writes .uncSeverity True { c with aer := { c.aer with severity := v.toNat &&& uncBits } } ∧
        writes .corMask True { c with aer := { c.aer with corMask := v.toNat &&& corBits } } ∧
        (v.toNat % 4 = 3 → writes .powerState True { c with d3 := true }) ∧
        (v.toNat % 4 = 0 → writes .powerState True { c with d3 := false }) ∧
        (∀ q ∈ [ConfigField.vendorId, .deviceId, .classCode, .revision, .tableSize, .totalVfs, .initialVfs], writes q False c) ∧
        writesPort .numVfs (func.val = 0 ∧ v.toNat ≤ 16) { x with numVfs := v.toNat } ∧
        writesPort .vfEnable (func.val = 0) { x with vfEnable := v.getLsbD 0 }))

/-- R363–R367, R372, R379, R437: host memory requests to the three BARs: what is not admitted on arrival is unsupported; what
is admitted keeps its place and waits behind the port's earlier posted writes, a write with relaxed ordering apart; BAR0 reads
the copy of the MG block and the MSI-X table and writes the table; BAR2 reads rings and records for their owner;
BAR4 reads and writes the DRAM of its function. The model's readings that it rests on: log entries 33, 73, 124, 125. -/
def Obligations.HostMemory : Prop :=
  ∀ (s : State) (port : HostPort) (func : FuncId) (o n : Nat) (data : List Byte) (be : List Bool) (ro : Bool)
    (off : BitVec 24),
    let p := portNum port
    let x := s.pxOf p
    let c := s.fnCfg p func
    let reach : Prop := presentFn x func ∧ c.mse = true ∧ c.d3 = false
    let memory : Prop := 2 ≤ s.level ∧ s.rs.standby = false
    let served : Prop := answering s ∨ s.rs.standby = true ∨ s.rs.warmKind = true ∧ s.rs.inReset = true
    let answers (i : Instr) (d : List Byte) : Prop := exec i s = .next (s.complete p func d)
    let noRead (i : Instr) : Prop := exec i s = .next (s.badRead p func)
    let noWrite (i : Instr) : Prop := exec i s = .next (s.badReq p func)
    let rd (bar : HostBar) : Instr := .hostRead port func bar o n be
    let wr (bar : HostBar) (po : Bool) : Instr := .hostWrite port func bar o data be ro po
    let r0 : Instr := .bar0Access port func off (.read 1 0xF 0xF)
    let w0 (v : BitVec 64) : Instr := .bar0Access port func off (.write 1 0xF 0xF v false)
    let waits (i : Instr) (op : HostOp) : Prop := exec i s =
      .next (s.setPx p { x with waiting := x.waiting ++ [⟨func, op, false⟩] })
    let four : List Bool := [true, true, true, true]
    (x.linkUp = false → ∀ bar req po, exec (rd bar) s = .next s ∧ exec (wr bar po) s = .next s ∧
      exec (.bar0Access port func off req) s = .next s) ∧
    (x.linkUp = true →
      (¬(reach ∧ memory) ∨ n = 0 → ∀ bar, noRead (rd bar)) ∧
      (¬(reach ∧ memory) → data ≠ [] → data.length ≤ c.mps → ∀ bar, noWrite (wr bar false)) ∧
      (data = [] → ∀ bar po, exec (wr bar po) s = .next s) ∧
      (data ≠ [] → c.mps < data.length → ∀ bar po, exec (wr bar po) s = .next (s.aerError p func 3))) ∧
    (x.linkUp = true → reach → memory →
      let idle : Prop := s.portBusy p = false
      let goes : Prop := s.portBusy p = false ∨ ro = true
      let held : Prop := s.portBusy p = true ∧ ro = false
      let a := s.reg .pxFnD4baseLo p func + s.reg .pxFnD4baseHi p func * 0x100000000 + o
      let size := 2 ^ (20 + if func.val = 0 then c.bar4sz else x.vfBar4sz)
      let inside (m : Nat) : Prop := o + m ≤ s.fld fPX_FN_D4LEN_LEN64K p func * 0x10000 ∧ a + m ≤ dramSize ∧ o + m ≤ size
      (0 < n → ¬inside n → noRead (rd .bar4)) ∧
      (0 < n → inside n → s.portBusy p = true → waits (rd .bar4) (.dramRead a n)) ∧
      (0 < n → inside n → idle → (∀ d u, s.dramRead a n = (.ok d, u) → exec (rd .bar4) s = .next (u.complete p func d)) ∧
        (∀ e u, s.dramRead a n = (.err e, u) → exec (rd .bar4) s =
          .next ((u.drawBytes n).2.complete p func (u.drawBytes n).1 true))) ∧
      (data ≠ [] → data.length ≤ c.mps →
        (¬inside data.length → noWrite (wr .bar4 false)) ∧
        (inside data.length → held → waits (wr .bar4 false) (.dramWrite a data be false)) ∧
        (inside data.length → goes → ∀ r u, s.dramWrite a data be = (r, u) → exec (wr .bar4 false) s = .next u) ∧
        (inside data.length → goes → ∃ t, exec (wr .bar4 true) s = .next t ∧ t.dram = s.dram ∧
          t.fld fPX_ERR_POISON p = min (s.fld fPX_ERR_POISON p + 1) 0xFF ∧
          t = ((s.count fPX_ERR_POISON p).aerError p func 2 true).poisonUnits a data.length)) ∧
      (∀ ctx : CtxId, let y := s.ctxRec ctx
        let own := y.ownedBy (p == 1) func
        let record (i : Nat) : Nat := ctx.val * 0x4000 + 0x3000 + 4 * i
        (∀ fo, 0 < n → fo + n ≤ 0x3000 → o = ctx.val * 0x4000 + fo →
          (s.portBusy p = true → waits (rd .bar2) (.frameRead o n be)) ∧
          (idle → own = false → answers (rd .bar2) (List.replicate n 0)) ∧
          (idle → own = true → ∀ d u, s.dramRead (s.ringAddr ctx fo) n = (.ok d, u) →
            exec (rd .bar2) s = .next (u.complete p func d))) ∧
        (∀ fo, data ≠ [] → data.length ≤ c.mps → o = ctx.val * 0x4000 + fo → be.length = data.length →
          (held → fo + data.length ≤ 0x3000 → waits (wr .bar2 false) (.frameWrite o data be false)) ∧
          (goes → own = false → fo + data.length ≤ 0x3000 → exec (wr .bar2 false) s = .next s) ∧
          (goes → own = true → fo + data.length ≤ 0x2000 → ∀ r u, s.dramWrite (s.ringAddr ctx fo) data be = (r, u) →
            exec (wr .bar2 false) s = .next u)) ∧
        (∀ i < 16, (idle → answers (.hostRead port func .bar2 (record i) 4 four) (leBytes 4 (y.view i))) ∧
          noRead (.hostRead port func .bar2 (record i) 4 [true, false, false, false])) ∧
        (∀ v : BitVec 32, ro = false →
          exec (.hostWrite port func .bar2 (record 16) (leBytes 4 v.toNat) four ro false) s =
            exec (.cxInDb port func ctx v) s ∧
          exec (.hostWrite port func .bar2 (record 17) (leBytes 4 v.toNat) four ro false) s =
            exec (.cxOutDb port func ctx v) s))) ∧
    (x.linkUp = true → (off.toNat % 4 ≠ 0 ∨ ¬served ∨ ¬reach) →
      noRead r0 ∧ (4 ≤ c.mps → ∀ v, noWrite (w0 v))) ∧
    (x.linkUp = true → s.portBusy p = true → reach → served → off.toNat % 4 = 0 →
      waits r0 (.bar0 off.toNat (.read 1 0xF 0xF)) ∧
      (4 ≤ c.mps → ∀ v, waits (w0 v) (.bar0 off.toNat (.write 1 0xF 0xF v false)))) ∧
    (x.linkUp = true → s.portBusy p = false → reach → served → off.toNat % 4 = 0 →
      (∀ r u m, findReg 0 (off.toNat - 0x20000) = some (r, u, m) → 0x20000 ≤ off.toNat → off.toNat < 0x21000 →
        answers r0 (leBytes 4 (s.regValue r u m % 2 ^ 32))) ∧
      (0x10000 ≤ off.toNat → off.toNat < 0x18000 →
        let i := (off.toNat - 0x10000) / 4
        answers r0 (leBytes 4 (s.msixDw p func i)) ∧
        (4 ≤ c.mps → ∀ v : BitVec 64, ∃ t, exec (w0 v) s = .next t ∧
          onlyPx p s t ∧ t.out = s.out ∧ t.msixDw p func i = (if i % 4 = 3 then v.toNat % 2 else v.toNat % 2 ^ 32) ∧
          (∀ j, j ≠ i → j < 8192 → t.msixDw p func j = s.msixDw p func j) ∧ ∀ f, t.fnCfg p f = s.fnCfg p f)))

/-- R360, R370, R371, R375–R377: accesses to host windows, their tags and their completions, and a port's life: what a lost port, a reset
of the port, a function-level reset and a link that comes up or goes down leave. The model's readings that it rests
on: log entries 4, 73, 88, 124, 125, 126. -/
def Obligations.HostPorts : Prop :=
  ∀ (s : State) (port : HostPort),
    let p := portNum port
    let x := s.pxOf p
    (∀ m rest, x.inbox = m :: rest → m.kind = .write → (∀ h ∈ rest.head?, h.kind ≠ .readReq) →
      (if m.addr < 0x780000000000 then 0 else 1) = p →
      (∀ f h, s.hostPlace m.addr = some (f, h) → ∃ u, exec (.hostWindowWrite port) s = .next (u.ack (unitHost p) m) ∧
        onlyPx p s u ∧ u.pxOf p = { x with
          inbox := rest, tx := x.tx ++ [⟨f, h, m.data, s.hostRelaxed m.addr f, none⟩] }) ∧
      (s.hostPlace m.addr = none → ∃ u, exec (.hostWindowWrite port) s = .next (u.hostFails p m) ∧ onlyPx p s u ∧
        u.pxOf p = { x with inbox := rest })) ∧
    ((∀ m ∈ x.inbox.head?, m.kind ≠ .write) → exec (.hostWindowWrite port) s = .next s) ∧
    (∀ m g rest f h a k, x.inbox = m :: g :: rest → m.kind = .write → (∀ l ∈ rest.head?, l.kind ≠ .readReq) →
      s.hostPlace m.addr = some (a, k) → (if m.addr < 0x780000000000 then 0 else 1) = p → g.kind = .readReq →
      s.hostPlace g.addr = some (f, h) → x.reads.length < 512 →
      ∃ t tag, exec (.hostWindowWrite port) s = .next t ∧ tag < 1024 ∧ (∀ r ∈ x.reads, r.tag ≠ tag) ∧
        (t.pxOf p).reads = x.reads ++ [⟨tag, f, g, []⟩] ∧ (t.pxOf p).inbox = rest) ∧
    (∀ tag, x.reads.find? (·.tag == tag) = none → exec (.completionTimeout port tag) s = .next s ∧
      ∀ st d, (x.linkUp = false → exec (.hostCompletion port tag st d) s = .next s) ∧
        (x.linkUp = true → exec (.hostCompletion port tag st d) s = .next (s.aerError p 0 5 true))) ∧
    (∀ tag r d, x.reads.find? (·.tag == tag) = some r →
      ((r.got ++ d).length < r.msg.len → exec (.hostCompletion port tag .success d) s = .next (s.setPx p { x with
        reads := x.reads.map fun q => if q.tag = tag then { q with got := r.got ++ d } else q })) ∧
      (r.msg.len ≤ (r.got ++ d).length → x.inbox = [] →
        let u := s.setPx p { x with reads := x.reads.erase r }
        let got := (r.got ++ d).take r.msg.len
        (r.msg.chan < 2 → exec (.hostCompletion port tag .success d) s = .next (u.respond (unitHost p) r.msg got)) ∧
        (2 ≤ r.msg.chan → exec (.hostCompletion port tag .success d) s = .next (u.endHostLoad r.msg.req (some got)))) ∧
      (let u := s.readFails p r
       u.pxOf p = { x with reads := x.reads.erase r } ∧ u.out = s.out ∧
       u.fld fPX_ERR_HOSTERR p = min (s.fld fPX_ERR_HOSTERR p + 1) 0xFF ∧
       (x.inbox = [] → exec (.hostCompletion port tag .unsupported d) s = .next u ∧
          exec (.hostCompletion port tag .abort d) s = .next u ∧
          exec (.hostCompletion port tag .poisoned d) s = .next (u.aerError p r.func 2 true) ∧
          ((s.fnCfg p r.func).cto.testBit 4 = false →
            exec (.completionTimeout port tag) s = .next (u.aerError p r.func 4)))) ∧
      ((s.fnCfg p r.func).cto.testBit 4 = true → exec (.completionTimeout port tag) s = .next s)) ∧
    (x.lost = true ∨ x.linkUp = true ∧ s.flag fPX_PCTL_HBEN p = false → exec (.portLost port) s = .next s) ∧
    (x.lost = false → x.linkUp = false ∨ s.flag fPX_PCTL_HBEN p = true → ∃ t, exec (.portLost port) s = .next t ∧
      (t.pxOf p) = { x with lost := true } ∧ t.flag fPX_HEVT_OTHERLOST (1 - p) = true) ∧
    (∀ (rq : Requester) (v : BitVec 32), (∀ q f, rq ≠ .host q f) → s.mayAccess rq 9 (p * 0x1000 + 0xC) true v.toNat = true →
      exec (.hostHeartbeat rq port v) s = acked rq 9 (p * 0x1000 + 0xC)
        (if x.linkUp then s.setPx p { x with lost := false } else s)) ∧
    (∀ q (f : FuncId) v, q ≠ port → exec (.hostHeartbeat (.host q f) port v) s = .next s) ∧
    (∀ v, x.linkUp = true → s.portBusy p = false → 4 ≤ (s.fnCfg p 0).mps → (s.fnCfg p 0).mse = true →
      (s.fnCfg p 0).d3 = false → answering s →
      ∃ t, exec (.hostHeartbeat (.host port 0) port v) s = .next t ∧ t.pxOf p = { x with lost := false } ∧ onlyPx p s t) ∧
    (∃ t, exec (.perstN port) s = .next t ∧ downPort x (t.pxOf p) ∧ clearedPort (t.pxOf p) ∧ (t.pxOf p).perst = true ∧
      (t.pxOf p).waiting = (x.waiting.filter fun w => !w.op.isConfig).map (fun w => { w with mute := true }) ∧
      t.pxOf (1 - p) = s.pxOf (1 - p) ∧ t.flag fPX_PCTL_EVEN p = false ∧ t.fld fPX_PCTL_EVVEC p = 0) ∧
    (∀ i ∈ [Instr.hotReset port, .linkDisable port], ∃ t, exec i s = .next t ∧ downPort x (t.pxOf p) ∧ clearedPort (t.pxOf p) ∧
      (t.pxOf p).perst = x.perst ∧ t.pxOf (1 - p) = s.pxOf (1 - p) ∧ t.flag fPX_PCTL_EVEN p = false ∧
      t.fld fPX_ERR_DROPW p = min (s.fld fPX_ERR_DROPW p + (x.tx.filter (·.vec.isNone)).length) 0xFF) ∧
    (exec (.perstNDeassert port) s = .next (s.setPx p { x with perst := false })) ∧
    (x.linkUp = false → exec (.dataLinkLayerDown port) s = .next s) ∧
    (x.linkUp = true → ∃ t, exec (.dataLinkLayerDown port) s = .next t ∧ downPort x (t.pxOf p) ∧
      (t.pxOf p).fns = x.fns ∧ (t.pxOf p).msix = x.msix ∧ (t.pxOf p).numVfs = x.numVfs ∧ t.pxOf (1 - p) = s.pxOf (1 - p)) ∧
    (∀ func : FuncId, (¬presentFn x func → exec (.flr port func) s = .next s) ∧
      (presentFn x func → ∃ t, exec (.flr port func) s = .next t ∧ t.fnCfg p func = {} ∧
        (∀ f, f ≠ func.val → t.fnCfg p f = s.fnCfg p f) ∧ (∀ j < 8192, get 0 (t.pxOf p).msix (func.val * 8192 + j) = 0) ∧
        (t.pxOf p).tx = x.tx.filter (fun r => r.func != func.val) ∧
        (t.pxOf p).waiting = (x.waiting.filter fun w => !(w.func == func.val && w.op.isConfig)).map (fun w =>
          { w with mute := w.mute || w.func == func.val }) ∧ (t.pxOf p).linkUp = x.linkUp ∧
        (t.pxOf p).numVfs = if func.val = 0 then 0 else x.numVfs)) ∧
    (∀ (speed : Fin 6) (width : Fin 17),
      let trains : Prop := x.perst = false ∧ s.pw.railsOn = true ∧ s.pw.mrst = false ∧ speed.val ≠ 0 ∧
        width.val ∈ [1, 2, 4, 8, 16]
      (¬trains → exec (.linkUp port speed width) s = .next s) ∧
      (trains → ∃ t, exec (.linkUp port speed width) s = .next t ∧ onlyPx p s t ∧ t.pxOf p = { x with
        linkUp := true, speed := speed.val, width := width.val, lost := x.lost && s.flag fPX_PCTL_HBEN p }))

/-- R398–R403: the commands of SC_CMD: one operation runs at a time; what a requester, a level or a missing write does
not permit is refused with a result; an operation that starts holds its outcome until it ends. The model's readings
that it rests on: log entries 77, 81. -/
def Obligations.SecurityCommands : Prop :=
  ∀ (s : State) (rq : Requester),
    let x := s.sec
    let len := s.fld fSC_OPLEN_LEN
    let may (code : Nat) : Prop := s.mayAccess rq 1 4 true code = true
    let result (i : Instr) (r : Nat) : Prop := exec i s = acked rq 1 4 (s.setFld fSC_STATUS_RESULT r)
    let starts (i : Instr) (r : Nat) (e : SecEffect) : Prop :=
      exec i s = acked rq 1 4 { s with sec := { x with op := some (r, e) } }
    let staged (o n : Nat) : List Byte := getBytes 0 x.stage o n
    (x.op ≠ none → ∀ i code, securityForm rq i code → may code → result i 1) ∧
    (x.op = none →
      (may 1 →
        let fits : Prop := 4160 ≤ len ∧ len ≤ 469766144
        (∀ w, x.write = some w → w.owner ≠ rq → result (.beginWrite rq) 1) ∧
        (∀ w, x.write = some w → w.owner = rq → fits → starts (.beginWrite rq) 0 (.openWrite ⟨w.bank, rq, len, 0⟩)) ∧
        (x.write = none → fits → starts (.beginWrite rq) 0 (.openWrite ⟨bankToWrite x, rq, len, 0⟩)) ∧
        ((∀ w, x.write = some w → w.owner = rq) → ¬fits → starts (.beginWrite rq) 6 .none)) ∧
      (may 2 →
        (x.write = none → result (.chunk rq) 2) ∧ (∀ w, x.write = some w → w.owner ≠ rq → result (.chunk rq) 1) ∧
        (∀ w, x.write = some w → w.owner = rq →
          (1 ≤ len → len ≤ 8192 → w.written + len ≤ w.len → starts (.chunk rq) 0 (.append w.bank w.written (staged 0 len))) ∧
          (len < 1 ∨ 8192 < len ∨ w.len < w.written + len → starts (.chunk rq) 6 .none))) ∧
      (may 3 →
        (s.level < 2 → result (.dramchunk rq) 2) ∧
        (2 ≤ s.level → (x.write = none → result (.dramchunk rq) 2) ∧
          (∀ w, x.write = some w → w.owner ≠ rq → result (.dramchunk rq) 1) ∧
          (∀ w, x.write = some w → w.owner = rq →
            let a := s.pairAddr .scOpsrcLo .scOpsrcHi
            (len < 1 ∨ dramSize < a + len ∨ w.len < w.written + len → starts (.dramchunk rq) 6 .none) ∧
            (1 ≤ len → a + len ≤ dramSize → w.written + len ≤ w.len → ∀ d u, s.dramRead a len = (.ok d, u) → d.length = len →
              exec (.dramchunk rq) s = acked rq 1 4 { u with sec := { u.sec with
                op := some (0, .append w.bank w.written d) } }) ∧
            (1 ≤ len → a + len ≤ dramSize → w.written + len ≤ w.len → ∀ e u, s.dramRead a len = (.err e, u) →
              exec (.dramchunk rq) s = acked rq 1 4 { u with sec := { u.sec with op := some (9, .none) } })))) ∧
      (may 4 →
        (x.write = none → result (.commit rq) 2) ∧ (∀ w, x.write = some w → w.owner ≠ rq → result (.commit rq) 1) ∧
        (∀ w, x.write = some w → w.owner = rq →
          let head := fit 4096 x.header
          let y := { x with flash := putBytes 0 x.flash (w.bank * 0x20000000) head }
          let owner := if x.dd.pending.isSome then x.dd.pending else x.owner
          let cause := y.headerCause w.bank owner
          (w.written ≠ w.len → starts (.commit rq) 6 .none) ∧
          let readable : Prop := x.pagesGood (w.bank * 0x20000000) w.len = true
          let older : Prop := x.headerCause (1 - w.bank) x.owner = 0 ∧ y.bankLe w.bank 8 8 ≤ x.bankSeq (1 - w.bank)
          (w.written = w.len → ¬readable → starts (.commit rq) 9 .none) ∧
          (w.written = w.len → readable → cause ≠ 0 → starts (.commit rq) (if cause = 3 then 3 else 6) .none) ∧
          (w.written = w.len → readable → cause = 0 →
            (older → starts (.commit rq) 5 .none) ∧
            (¬older →
              (y.digestsMatch w.bank = true → starts (.commit rq) 0 (.header w.bank head)) ∧
              (y.digestsMatch w.bank = false → starts (.commit rq) 4 .none))))) ∧
      (∀ i kind signer, (i, kind, signer) ∈ [(Instr.enrol rq, 1, x.vendor),
          (.transfer rq, 2, if x.dd.pending.isSome then x.dd.pending else x.owner)] → may (4 + kind) →
        let r := staged 0 5301
        let gen := leNat ((r.drop 4).take 4)
        let newer : Prop := x.dd.ownerGen < gen ∧ (x.dd.pending ≠ none → x.dd.pendingGen < gen)
        let signed : Prop := ∃ key, signer = some key ∧ mldsaVerify key (r.take 1992) ((r.drop 1992).take 3309) = true
        (leNat (r.take 4) ≠ kind → starts i 6 .none) ∧
        (leNat (r.take 4) = kind → (r.drop 8).take 32 ≠ x.identity → starts i 7 .none) ∧
        (leNat (r.take 4) = kind → (r.drop 8).take 32 = x.identity →
          (¬newer → starts i 8 .none) ∧ (newer → ¬signed → starts i 3 .none) ∧
          (newer → signed → starts i 0 (.owner ((r.drop 40).take 1952) gen)))) ∧
      (may 7 → (x.seed ≠ none → starts (.attest rq) 0 (.report (s.bundle (staged 0 32)))) ∧
        (x.seed = none → result (.attest rq) 2)) ∧
      (may 8 → (∀ c, rq = .core c → starts (.extend rq) 0 (.measure (c.val - 768)
          (shake256 64 (fit 64 (get [] x.meas (c.val - 768)) ++ staged 0 64)))) ∧
        (rq = .management → result (.extend rq) 2)) ∧
      (may 9 →
        let token := x.identity ++ leBytes 8 x.dd.dbgCtr ++ [1]
        let signed : Prop := ∃ key, x.owner = some key ∧ mldsaVerify key token (staged 0 3309) = true
        (rq = .management → signed → starts (.unlock rq) 0 (.debug true true)) ∧
        (rq = .management → ¬signed → starts (.unlock rq) 3 .none) ∧ (rq ≠ .management → result (.unlock rq) 2)) ∧
      (may 0xA → starts (.lock rq) 0 (.debug false false)) ∧
      (may 0xB → (x.write = none → result (.abort rq) 2) ∧ (∀ w, x.write = some w → w.owner ≠ rq → result (.abort rq) 1) ∧
        (∀ w, x.write = some w → w.owner = rq → starts (.abort rq) 0 .closeWrite)))

/-- R383, R384, R398–R403: OPERATION_COMPLETE: the result shows, BUSY clears, and the operation has its effect on the
store, the device-data area, the measurements, the report or the debug state. The model's readings that it rests on:
log entries 77, 81. -/
def Obligations.SecurityEffects : Prop :=
  (∀ (s : State), s.sec.op = none → exec .operationComplete s = .next s) ∧
  (∀ (s : State) (r : Nat) (e : SecEffect), s.sec.op = some (r, e) → r < 16 →
    let x := s.sec
    let ends (f : State → Nat → Prop) : Prop := ∃ t, exec .operationComplete s = .next t ∧ t.sec.op = none ∧
      f t (t.fld fSC_STATUS_RESULT)
    (e = .none → exec .operationComplete s = .next (({ s with sec := { x with op := none } }).setFld fSC_STATUS_RESULT r)) ∧
    (∀ w, e = .openWrite w → x.pagesGood (w.bank * 0x20000000) 4096 = false → ends fun t n =>
      n = 9 ∧ t.sec = { x with op := none }) ∧
    (∀ b o d, e = .append b o d → x.pagesGood (b * 0x20000000 + o) d.length = false → ends fun t n =>
      n = 9 ∧ t.sec = { x with op := none }) ∧
    (∀ w, e = .openWrite w → x.pagesGood (w.bank * 0x20000000) 4096 = true → ends fun t n => n = r ∧ t.sec.write = some w ∧ t.sec.header = [] ∧
      ∀ i, get 0 t.sec.flash i =
        if w.bank * 0x20000000 ≤ i ∧ i < w.bank * 0x20000000 + 4096 then 0 else get 0 x.flash i) ∧
    (∀ b o d, e = .append b o d → x.pagesGood (b * 0x20000000 + o) d.length = true → ends fun t n => n = r ∧ t.sec.header = x.header ++ d.take (4096 - o) ∧
      t.sec.write = x.write.map (fun w => { w with written := w.written + d.length }) ∧
      (∀ i < d.length, 4096 ≤ o + i → get 0 t.sec.flash (b * 0x20000000 + o + i) = d.getD i 0) ∧
      ∀ a, a < b * 0x20000000 + max o 4096 ∨ b * 0x20000000 + o + d.length ≤ a → get 0 t.sec.flash a = get 0 x.flash a) ∧
    (∀ b d, e = .header b d → ends fun t n => n = r ∧ t.sec.write = none ∧
      (∀ i < d.length, get 0 t.sec.flash (b * 0x20000000 + i) = d.getD i 0) ∧
      ∀ a, a < b * 0x20000000 ∨ b * 0x20000000 + d.length ≤ a → get 0 t.sec.flash a = get 0 x.flash a) ∧
    (∀ key gen, e = .owner key gen →
      (x.canWriteDd = false → ends fun t n => n = 9 ∧ t.sec = { x with op := none }) ∧
      (x.canWriteDd = true → ends fun t n => n = r ∧ t.sec.dd = { x.dd with pending := some key, pendingGen := gen } ∧
        t.sec.owner = x.owner ∧ t.sec.flash = x.flash)) ∧
    (∀ b, e = .report b → ends fun t n => n = r ∧ ∀ i < b.length, get 0 t.sec.rpt i = b.getD i 0) ∧
    (∀ j v, e = .measure j v → ends fun t n => n = r ∧ ∀ i, get [] t.sec.meas i = if i = j then v else get [] x.meas i) ∧
    (e = .debug true true → (x.canWriteDd = false → ends fun t n => n = 9 ∧ t.sec.debug = x.debug) ∧
      (x.canWriteDd = true → ends fun t n => n = r ∧ t.sec.debug = true ∧ t.sec.dd = { x.dd with dbgCtr := x.dd.dbgCtr + 1 } ∧
        (x.debug = false → ∀ p < 16, (s.port p).state = .ready ∨ (s.port p).state = .inService →
          t.port p = { state := .training, downCause := 4, attCause := 5 }))) ∧
    (e = .debug false false → ends fun t n => n = r ∧ t.sec.debug = false ∧ t.sec.dd = x.dd) ∧
    (e = .closeWrite → ends fun t n => n = r ∧ t.sec.write = none ∧ t.sec.flash = x.flash))

/-- R392–R398, R434–R436: the service levels: level 0 reads the identity and the device data, settles the owner and
decides on retirement; a bank is selected and loaded, or the device is unconfigured; levels 2 and 3 follow as the
slices and ports are done, and level 3 starts composition. The model's readings that it rests on: log entries 77,
78, 79, 83, 84, 92, 128. -/
def Obligations.ServiceLevels : Prop :=
  (∀ (s : State) (seed : Option (List Byte)),
    (s.pw.railsOn = false ∨ s.pw.mrst = true ∨ s.level0 = true ∨ s.rs.standby = true →
      exec (.serviceLevel0 seed) s = .next s) ∧
    (s.pw.railsOn = true → s.pw.mrst = false → s.level0 = false → s.rs.standby = false →
      let z := { s.sec with seed := seed.map (fit 32) }
      let x := { z with area := z.newer }
      let retires : Prop := s.rs.last ≠ 9 ∧ (if s.rs.accepted then s.fld fRS_RETCFG_N else 3) < s.rs.inWin
      ∃ t, exec (.serviceLevel0 seed) s = .next t ∧ t.level0 = true ∧ t.level = s.level ∧ t.sec.seed = x.seed ∧
        (t.rs.retired = true ↔ s.rs.retired = true ∨ x.dd.retired = true ∨ retires) ∧
        t.rs.count = (if s.rs.countLost then (s.rs.count + x.dd.resetCount) % 2 ^ 32 else s.rs.count) ∧
        (x.canWriteDd = false → t.flag fRS_STATUS_CNTFAIL = true ∧ t.sec.copy0 = x.copy0 ∧ t.sec.copy1 = x.copy1) ∧
        (t.rs.retired = true → ∀ p, (t.port p).state = .dark ∨ (t.port p).state = .unused) ∧
        (x.area = none → t.sec.owner = none) ∧
        (x.canWriteDd = true → t.sec.dd.resetCount = t.rs.count ∧ t.sec.dd.dbgCtr = x.dd.dbgCtr ∧
          (t.sec.dd.retired = true ↔ x.dd.retired = true ∨ retires) ∧
          (s.rs.warmKind = false → t.sec.dd.pending = none ∧ t.sec.owner = t.sec.dd.owner ∧
            t.sec.dd.owner = (if x.dd.pending.isSome then x.dd.pending else x.dd.owner))) ∧
        (s.rs.warmKind = true → x.area ≠ none → t.sec.owner = s.sec.owner))) ∧
  (∀ (s : State),
    let free : Prop := s.level0 = true ∧ s.level = 0 ∧ s.sec.bank = none ∧ s.flag fMG_STAGE_UNCONF = false ∧ s.rs.standby = false
    let cause (b : Nat) : Nat := s.sec.headerCause b s.sec.owner
    let first : Nat := if s.sec.bankSeq 0 < s.sec.bankSeq 1 then 1 else 0
    let runs (t : State) (b : Nat) (fallback : Bool) : Prop := t.level = 1 ∧ t.sec.bank = some b ∧ t.rs.accepted = true ∧
      t.rs.armed = true ∧ t.rs.seq = 0 ∧ t.rs.strokeAt = t.clock ∧ t.fld fMG_STAGE_BANK = b ∧ t.flag fMG_STAGE_FALLBACK = fallback
    (¬free → exec .selectAndLoad s = .next s) ∧
    let unloaded : Sec := { s.sec with reload := none }
    (free → s.rs.retired = true → exec .selectAndLoad s =
      .next (({ s with sec := unloaded }).setFlag fMG_STAGE_UNCONF true)) ∧
    (free → s.rs.retired = false → s.rs.warmKind = false →
      (cause 0 ≠ 0 → cause 1 ≠ 0 → ∃ t, exec .selectAndLoad s = .next t ∧ t.flag fMG_STAGE_UNCONF = true ∧ t.level = 0 ∧
        t.sec = unloaded ∧ t.fld fMG_STAGE_REFUSE0 = cause 0 ∧ t.fld fMG_STAGE_REFUSE1 = cause 1 ∧
        ∀ b < 2, t.fld fMG_REFUSE_TYPE 0 b = 0 ∧ t.fld fMG_REFUSE_ITEM 0 b = 0xFFFFFF) ∧
      (cause 0 = 0 → cause 1 = 0 →
        (∀ l, s.loadBank first false = .ok l → ∃ t, exec .selectAndLoad s = .next t ∧ runs t first false ∧
          ∀ j < 8, get [] t.sec.meas j = shake256 64 (get [] l.meas j)) ∧
        (∀ e, s.loadBank first false = .error e →
          let u := s.recordRefusal first e
          (∀ l, u.loadBank (1 - first) false = .ok l → ∃ t, exec .selectAndLoad s = .next t ∧ runs t (1 - first) true) ∧
          (∀ f, u.loadBank (1 - first) false = .error f → ∃ t, exec .selectAndLoad s = .next t ∧ t.level = 0 ∧
            t.flag fMG_STAGE_UNCONF = true ∧ t.sec = unloaded)))) ∧
    (free → s.rs.retired = false → s.rs.warmKind = true →
      (s.sec.reload = none → exec .selectAndLoad s = .next (s.setFlag fMG_STAGE_UNCONF true)) ∧
      (∀ b l, s.sec.reload = some b → cause b = 0 → s.loadBank b true = .ok l →
        ∃ t, exec .selectAndLoad s = .next t ∧ t.level = 1 ∧ t.sec.bank = some b) ∧
      (∀ b e, s.sec.reload = some b → cause b = 0 → s.loadBank b true = .error e →
        ∃ t, exec .selectAndLoad s = .next t ∧ t.level = 0 ∧ t.flag fMG_STAGE_UNCONF = true ∧ t.sec = unloaded))) ∧
  (∀ (s : State),
    let ready : Prop := s.level = 1 ∧ (∀ sl < 192, (s.slice sl).trained = true) ∧ ∀ p < 16, portDone s p false
    (¬ready → exec .serviceLevel2 s = .next s) ∧
    (ready → ∃ t, exec .serviceLevel2 s = .next t ∧ t.level = 2 ∧ t.flag fPX_HEVT_STAGE 0 = true ∧
      t.flag fPX_HEVT_STAGE 1 = true ∧ { t with level := s.level, regs := s.regs, px := s.px } = s)) ∧
  (∀ (s : State),
    let ready : Prop := s.level = 2 ∧ s.pw.measured = true ∧ ∀ p < 16, portDone s p true
    (¬ready → exec .serviceLevel3 s = .next s) ∧
    (ready → ∃ t, exec .serviceLevel3 s = .next t ∧ t.level = 3 ∧ t.rs = { s.rs with inReset := false } ∧
      t.cx = (if s.follower then s.cx else { s.cx with phase := .gathering, gathered := false }) ∧
      (s.sec.raiseFloor = false ∨ s.sec.imgSvn ≤ s.sec.dd.svnFloor → t.sec = s.sec)))

/-- R406, R407, R431–R435, R439, R443, R454: the pins and supplies: what starts and stops the rails, and the power-on,
cold and warm resets that begin. The model's readings that it rests on: log entries 78, 80, 128, 147. -/
def Obligations.SuppliesAndResets : Prop :=
  ∀ (s : State),
    (s.pw.railsOn = false → exec .vinLow s = .next s) ∧
    (s.pw.railsOn = true → ∃ t, exec .vinLow s = .next t ∧ resetBegins s t 1 ∧ nothingKept s t ∧ t.pw.railsOn = false ∧
      t.rs.history = [] ∧ t.powerOnAt = s.clock ∧ t.rs.accepted = false) ∧
    (s.pw.railsOn = false → exec .pwrEnDeassert s = .next { s with pw := { s.pw with pwrEn := false, tripped := false } }) ∧
    (s.pw.railsOn = true → ∃ t, exec .pwrEnDeassert s = .next t ∧ resetBegins s t 10 ∧ nothingKept s t ∧ t.pw.railsOn = false ∧
      t.pw.pwrEn = false ∧ t.pw.tripped = false ∧ t.rs.history = []) ∧
    (s.pw.vaon = true ∧ s.pw.tripped = false → exec .railStart s =
      .next { s with pw := { s.pw with pwrEn := true, railsOn := true } }) ∧
    (s.pw.vaon = false ∨ s.pw.tripped = true → exec .railStart s = .next s) ∧
    (s.pw.vaon = false → exec .vaonLoss s = .next s) ∧
    (s.pw.vaon = true → ∃ t, exec .vaonLoss s = .next t ∧ t.pw.vaon = false ∧ t.pw.railsOn = false ∧ t.level = 0 ∧ t.regs = [] ∧
      t.cores = [] ∧ t.dram = [] ∧ t.rs.history = [] ∧ t.sec.flash = s.sec.flash ∧ t.sec.copy0 = s.sec.copy0 ∧
      t.sec.copy1 = s.sec.copy1 ∧ t.rs.count = 0 ∧ t.rs.countLost = true ∧ t.pending = s.pending) ∧
    (s.pw.vaon = true → exec .vaonPresent s = .next s) ∧
    (s.pw.vaon = false → ∃ t, exec .vaonPresent s = .next t ∧ resetBegins s t 0 ∧ nothingKept s t ∧ t.pw.vaon = true) ∧
    (s.pw.mrst = true → exec .mrstNAssert s = .next s) ∧
    (s.pw.mrst = false → s.pw.railsOn = false → exec .mrstNAssert s = .next { s with pw := { s.pw with mrst := true } }) ∧
    (s.pw.mrst = false → s.pw.railsOn = true → ∃ t, exec .mrstNAssert s = .next t ∧ resetBegins s t 3 ∧ nothingKept s t ∧
      t.pw.mrst = true ∧ t.pw.railsOn = true ∧ t.rs.history = appended s ∧ t.powerOnAt = s.powerOnAt) ∧
    (s.pw.mrst = true → exec .mrstNDeassert s = .next { s with resetAt := s.clock, pw := { s.pw with mrst := false } }) ∧
    (s.pw.mrst = false → exec .mrstNDeassert s = .next s) ∧
    (s.rs.warmCause = none → exec .warmReset s = .next s) ∧
    (∀ c, s.rs.warmCause = some c → ∃ t, exec .warmReset s = .next t ∧ resetBegins s t c ∧ t.rs.history = appended s ∧
      t.dram = s.dram ∧ t.sram = s.sram ∧ t.sec.owner = s.sec.owner ∧ t.sec.reload = s.sec.bank ∧ slotsAndWidthsKept s t ∧
      (∀ k, (t.ctxRec k).state ≠ .running ∧ ((s.ctxRec k).state ≠ .running → t.ctxRec k = s.ctxRec k) ∧
        ((s.ctxRec k).state = .running → (s.ctxRec k).dropReq = true → t.ctxRec k = {}) ∧
        ((s.ctxRec k).state = .running → (s.ctxRec k).dropReq = false → (s.ctxRec k).parkReq = true →
          t.ctxRec k = { s.ctxRec k with state := .parked, parkReq := false })) ∧
      (∀ p < 2, (t.pxOf p).linkUp = (s.pxOf p).linkUp ∧ (t.pxOf p).fns = (s.pxOf p).fns ∧ (t.pxOf p).inbox = [] ∧
        t.fld fPX_ERR_DROPW p = min (s.fld fPX_ERR_DROPW p + ((s.pxOf p).tx.filter (·.vec.isNone)).length) 0xFF) ∧
      (∀ sl < 192, (t.slice sl).trained = false ∧ (t.slice sl).selfRef = true ∧ (t.slice sl).trfail = false ∧
        (t.slice sl).err = (s.slice sl).err ∧ (t.slice sl).poisoned = (s.slice sl).poisoned))

/-- R431, R433, R434, R436, R437, R443, R445: the commands of RS_CMD, the strokes of the safelight and its two limits,
and the lockup delay. The model's readings that it rests on: log entries 80, 147. -/
def Obligations.ResetCommands : Prop :=
  ∀ (s : State) (rq : Requester),
    let may (code : Nat) : Prop := s.mayAccess rq 2 4 true code = true
    let ack (t : State) := acked rq 2 4 t
    let refused := ack (s.setFlag fRS_STATUS_CMDERR true)
    let manager : Prop := rq = .management
    (may 1 →
      (s.rs.retired = true → exec (.warm rq) s = refused) ∧
      (heedsWarm s → ∃ t, exec (.warm rq) s = ack t ∧
        (manager → warmTriggered s t { s.rs with warmCause := some 6 }) ∧
        (¬manager → warmTriggered s t { s.rs with warmCause := some 7 })) ∧
      (s.rs.retired = false → s.pw.railsOn = true → s.pw.mrst = false → s.rs.standby = true →
        ∃ t, exec (.warm rq) s = ack t ∧ resetBegins s t 9 ∧ t.rs.history = s.rs.history ∧ t.dram = s.dram ∧
          ∀ p < 16, (s.port p).state ≠ .unused → (t.port p).width = (s.port p).width) ∧
      (s.rs.retired = false → s.rs.standby = false → s.rs.warmCause ≠ none ∨ s.rs.warmKind = true ∧ s.rs.inReset = true →
        exec (.warm rq) s = ack s)) ∧
    (may 2 →
      (manager → s.pw.railsOn = true → ∃ t, exec (.cold rq) s = ack t ∧ resetBegins s t 4 ∧ nothingKept s t ∧
        t.rs.history = appended s ∧ t.pw.railsOn = true) ∧
      (manager → s.pw.railsOn = false → exec (.cold rq) s = ack s) ∧ (¬manager → exec (.cold rq) s = refused)) ∧
    (may 3 →
      let enters : Prop := manager ∧ s.rs.retired = false ∧ 3 ≤ s.level ∧ s.rs.warmCause = none
      (¬enters → exec (.standby rq) s = refused) ∧
      (enters → ∃ t, exec (.standby rq) s = ack t ∧ t.rs.standby = true ∧ t.level = 0 ∧ t.rs.count = s.rs.count ∧
        t.rs.history = s.rs.history ∧ t.rs.armed = false ∧ t.cores = [] ∧ t.mx = [] ∧ t.vx = [] ∧ t.dram = s.dram ∧
        t.sram = s.sram ∧ t.ctx = s.ctx ∧ t.sec.bank = s.sec.bank ∧ t.flag fPX_HEVT_WARM 0 = true ∧
        t.flag fPX_HEVT_WARM 1 = true ∧ slotsAndWidthsKept s t ∧ (∀ p < 16, (s.port p).state ≠ .unused → (t.port p).state = .dark) ∧
        t.fld fRS_LOCKDLY_MS = bits (regReset .rsLockdly) 15 0 ∧ ∀ p < 2, (t.pxOf p).linkUp = (s.pxOf p).linkUp)) ∧
    (may 4 →
      (manager → s.rs.standby = true → ∃ t, exec (.wake rq) s = ack t ∧ resetBegins s t 9 ∧ t.rs.history = s.rs.history ∧
        t.dram = s.dram ∧ ∀ p < 16, (s.port p).state ≠ .unused → (t.port p).width = (s.port p).width) ∧
      (¬(manager ∧ s.rs.standby = true) → exec (.wake rq) s = refused)) ∧
    (may 5 →
      (manager → ∃ t, exec (.clearret rq) s = ack t ∧ t.rs = s.rs ∧ (s.sec.canWriteDd = false → t = s) ∧
        (s.sec.canWriteDd = true → t.sec.dd = { s.sec.dd with retired := false } ∧ { t with sec := s.sec } = s)) ∧
      (¬manager → exec (.clearret rq) s = refused)) ∧
    (∀ v : BitVec 32, s.mayAccess rq 2 8 true v.toNat = true →
      (v.toNat % 256 = (s.rs.seq.toNat + 1) % 256 → exec (.stroke rq v) s = acked rq 2 8 { s with rs := { s.rs with
        seq := BitVec.ofNat 8 v.toNat, strokeAt := s.clock, warned := false } }) ∧
      (v.toNat % 256 ≠ (s.rs.seq.toNat + 1) % 256 →
        exec (.stroke rq v) s = acked rq 2 8 (s.setFlag fRS_STATUS_BADSTROKE true))) ∧
    (let timeout := s.fld fRS_SLCFG_TIMEOUT * 1000000
     let warns : Prop := s.rs.armed = true ∧ s.rs.strokeAt + timeout / 4 * 3 ≤ s.clock ∧ s.rs.warned = false
     let expires : Prop := s.rs.armed = true ∧ s.rs.strokeAt + timeout ≤ s.clock
     (¬warns → exec .slwarn s = .next s) ∧
     (warns → ∃ t, exec .slwarn s = .next t ∧ t.rs = { s.rs with warned := true } ∧ t.flag fRS_STATUS_SLWARN = true ∧
       { t with rs := s.rs, regs := s.regs, cores := s.cores } = s) ∧
     (¬expires → exec .safelightExpiry s = .next s) ∧
     (expires → heedsWarm s → ∃ t, exec .safelightExpiry s = .next t ∧ warmTriggered s t { s.rs with warmCause := some 5 })) ∧
    (let due : Prop := ∃ start, s.rs.lockDelay = some start ∧ start + s.fld fRS_LOCKDLY_MS * 1000 ≤ s.clock
     (¬due → exec .lockupDelay s = .next s) ∧
     (due → heedsWarm s → ∃ t, exec .lockupDelay s = .next t ∧
       warmTriggered s t { s.rs with lockDelay := none, warmCause := some 8 }))

/-- R394: the SVN floor rises to that of a negative with RAISEFLOOR set that reaches level 3, and a bank with a lower
SVN is refused with cause 4 from then on. The model's readings that it rests on: log entries 77, 84. -/
def Obligations.FloorRises : Prop :=
  ∀ (s : State), s.level = 2 → (∀ p < 16, portDone s p true) → s.pw.measured = true → s.sec.raiseFloor = true →
    s.sec.dd.svnFloor < s.sec.imgSvn → s.sec.canWriteDd = true →
    ∃ t, exec .serviceLevel3 s = .next t ∧ t.level = 3 ∧ t.sec.dd = { s.sec.dd with svnFloor := s.sec.imgSvn } ∧
      ∀ (x : Sec) (b : Nat) (owner : Option (List Byte)), s.sec.imgSvn ≤ x.dd.svnFloor → x.bankLe b 20 2 < s.sec.imgSvn →
        x.headerCause b owner ≠ 0 ∧
        (x.headerCause b owner ∉ [1, 2, 3, 0xD] → x.headerCause b owner = 4)
end

