-- ==== Sys2Proof/Laws/Sparse.lean ====
section
/-! SUPPORT. The laws of sparse maps: what a key reads as after a write, and that writes keep the canonical form. -/

namespace Sys2Proof.Machine

variable {α : Type} [DecidableEq α]

/-! ### A read after a write -/

omit [DecidableEq α] in
@[simp] theorem get_nil (d : α) (k : Nat) : get d [] k = d := rfl

@[simp] theorem get_put_self (d : α) (m : SMap α) (k : Nat) (v : α) : get d (put d m k v) k = v := by
  induction m with
  | nil => by_cases h : v = d <;> simp [put, get, h]
  | cons e r ih =>
    obtain ⟨k', v'⟩ := e
    simp only [put]
    split
    · split
      · exact ih
      · rw [get, if_neg (by assumption)]; exact ih
    · split
      · simp [get]
      · split
        · simp [get]
        · rw [get, if_neg (by assumption)]; exact ih

@[simp] theorem get_put_ne (d : α) (m : SMap α) (k j : Nat) (v : α) (h : j ≠ k) :
    get d (put d m k v) j = get d m j := by
  induction m with
  | nil => by_cases hv : v = d <;> simp [put, get, hv, h]
  | cons e r ih =>
    obtain ⟨k', v'⟩ := e
    simp only [put]
    split
    · split
      · subst k'; rw [ih, get, if_neg h]
      · simp only [get, ih]
    · split
      · simp [get, h]
      · split
        · subst k'; simp [get, h]
        · simp only [get, ih]

theorem get_put (d : α) (m : SMap α) (k j : Nat) (v : α) :
    get d (put d m k v) j = if j = k then v else get d m j := by
  by_cases h : j = k
  · subst h; simp
  · simp [h]

omit [DecidableEq α] in
/-- What holds of the default and of every value of a map holds of what every key reads as. -/
theorem get_of_all {P : α → Prop} {d : α} {m : SMap α} (hd : P d) (hm : ∀ e ∈ m, P e.2) (k : Nat) : P (get d m k) := by
  induction m with
  | nil => exact hd
  | cons e r ih =>
    obtain ⟨k', v'⟩ := e
    rw [get]
    split
    · exact hm _ (List.mem_cons_self ..)
    · exact ih fun e he => hm e (List.mem_cons_of_mem _ he)

/-! ### The canonical form -/

theorem wfFrom_le {d : Nat → α} {b b' : Nat} {m : SMap α} (h : b' ≤ b) (hm : wfFrom d b m = true) :
    wfFrom d b' m = true := by
  cases m with
  | nil => rfl
  | cons e r =>
    simp only [wfFrom, Bool.and_eq_true, decide_eq_true_eq] at hm ⊢
    exact ⟨⟨Nat.le_trans h hm.1.1, hm.1.2⟩, hm.2⟩

theorem put_wfFrom {d : α} {b : Nat} {m : SMap α} (k : Nat) (v : α) (hb : b ≤ k)
    (hm : wfFrom (fun _ => d) b m = true) : wfFrom (fun _ => d) b (put d m k v) = true := by
  induction m generalizing b with
  | nil => by_cases h : v = d <;> simp [put, wfFrom, h, hb]
  | cons e r ih =>
    obtain ⟨k', v'⟩ := e
    simp only [wfFrom, Bool.and_eq_true, decide_eq_true_eq] at hm
    obtain ⟨⟨h1, h2⟩, h3⟩ := hm
    have drop : ∀ b : Nat, v = d → wfFrom (fun _ => d) b r = true → wfFrom (fun _ => d) b (put d r k v) = true := by
      intro b hv hr
      clear ih h3
      induction r generalizing b with
      | nil => simp [put, hv, wfFrom]
      | cons e r ih =>
        obtain ⟨k2, v2⟩ := e
        simp only [wfFrom, Bool.and_eq_true, decide_eq_true_eq] at hr
        simp only [put, hv, if_true]
        split
        · exact hv ▸ ih _ (wfFrom_le (by omega) hr.2)
        · simp only [wfFrom, Bool.and_eq_true, decide_eq_true_eq]
          exact ⟨hr.1, hv ▸ ih _ hr.2⟩
    simp only [put]
    split
    · split
      · exact drop b ‹_› (wfFrom_le (by omega) h3)
      · simp only [wfFrom, Bool.and_eq_true, decide_eq_true_eq]
        exact ⟨⟨h1, h2⟩, drop _ ‹_› h3⟩
    · split
      · simp only [wfFrom, Bool.and_eq_true, decide_eq_true_eq]
        exact ⟨⟨hb, ‹_›⟩, ⟨by omega, h2⟩, h3⟩
      · split
        · subst k'
          simp only [wfFrom, Bool.and_eq_true, decide_eq_true_eq]
          exact ⟨⟨hb, ‹_›⟩, h3⟩
        · simp only [wfFrom, Bool.and_eq_true, decide_eq_true_eq]
          exact ⟨⟨h1, h2⟩, ih (by omega) h3⟩

/-- A write keeps the canonical form. -/
theorem put_wf {d : α} {m : SMap α} (k : Nat) (v : α) (hm : wfMap (fun _ => d) m = true) :
    wfMap (fun _ => d) (put d m k v) = true := put_wfFrom k v (Nat.zero_le _) hm

theorem filter_wfFrom {d : Nat → α} (p : Nat × α → Bool) {b : Nat} {m : SMap α} (hm : wfFrom d b m = true) :
    wfFrom d b (m.filter p) = true := by
  induction m generalizing b with
  | nil => rfl
  | cons e r ih =>
    obtain ⟨k, v⟩ := e
    simp only [wfFrom, Bool.and_eq_true, decide_eq_true_eq] at hm
    rw [List.filter_cons]
    split
    · simp only [wfFrom, Bool.and_eq_true, decide_eq_true_eq]; exact ⟨hm.1, ih hm.2⟩
    · exact wfFrom_le (by omega) (ih hm.2)

/-- Dropping entries keeps the canonical form. -/
theorem filter_wf {d : Nat → α} (p : Nat × α → Bool) {m : SMap α} (hm : wfMap d m = true) :
    wfMap d (m.filter p) = true := filter_wfFrom p hm

/-- Writes of bytes keep the canonical form. -/
theorem putBytes_wf {d : Byte} {m : SMap Byte} (a : Nat) (data : List Byte) (hm : wfMap (fun _ => d) m = true) :
    wfMap (fun _ => d) (putBytes d m a data) = true := by
  induction data generalizing m a with
  | nil => exact hm
  | cons b r ih => exact ih _ (put_wf a b hm)

theorem putEnabled_wf {d : Byte} {m : SMap Byte} (a : Nat) (data : List Byte) (be : List Bool)
    (hm : wfMap (fun _ => d) m = true) : wfMap (fun _ => d) (putEnabled d m a data be) = true := by
  induction data generalizing m a be with
  | nil => exact hm
  | cons b r ih =>
    cases be with
    | nil => exact hm
    | cons e es =>
      refine ih _ _ ?_
      split
      · exact put_wf a b hm
      · exact hm

/-! ### Bytes -/

theorem get_putBytes_out (d : Byte) (m : SMap Byte) (a : Nat) (data : List Byte) (j : Nat)
    (h : j < a ∨ a + data.length ≤ j) : get d (putBytes d m a data) j = get d m j := by
  induction data generalizing m a with
  | nil => rfl
  | cons b r ih =>
    rw [putBytes, ih _ _ (by simp only [List.length_cons] at h; omega),
      get_put_ne _ _ _ _ _ (by simp only [List.length_cons] at h; omega)]

theorem get_putBytes_in (d : Byte) (m : SMap Byte) (a : Nat) (data : List Byte) (i : Nat) (h : i < data.length) :
    get d (putBytes d m a data) (a + i) = data[i] := by
  induction data generalizing m a i with
  | nil => exact absurd h (Nat.not_lt_zero _)
  | cons b r ih =>
    rw [putBytes]
    cases i with
    | zero => rw [get_putBytes_out _ _ _ _ _ (by omega)]; simp
    | succ i =>
      have := ih (put d m a b) (a + 1) i (by simpa using h)
      rw [show a + (i + 1) = a + 1 + i by omega, this]; simp

theorem get_putEnabled_out (d : Byte) (m : SMap Byte) (a : Nat) (data : List Byte) (be : List Bool) (j : Nat)
    (h : j < a ∨ a + data.length ≤ j) : get d (putEnabled d m a data be) j = get d m j := by
  induction data generalizing m a be with
  | nil => rfl
  | cons b r ih =>
    cases be with
    | nil => rfl
    | cons e es =>
      rw [putEnabled, ih _ _ _ (by simp only [List.length_cons] at h; omega)]
      split
      · rw [get_put_ne _ _ _ _ _ (by simp only [List.length_cons] at h; omega)]
      · rfl

end Sys2Proof.Machine
end

