-- ==== Sys2Proof/Laws/State.lean ====
section
/-! SUPPORT. What each field of State and each unit is after each update of the state: one lemma for each. -/

namespace Sys2Proof.Machine

variable (s : State)

/-! ### Changes of a unit and of a field of a register, as writes -/

@[simp] theorem State.modCore_eq (c : Nat) (f : Core → Core) : s.modCore c f = s.setCore c (f (s.core c)) := rfl
@[simp] theorem State.modMx_eq (k : Nat) (f : Mx → Mx) : s.modMx k f = s.setMx k (f (s.mxOf k)) := rfl
@[simp] theorem State.modVx_eq (k : Nat) (f : Vx → Vx) : s.modVx k f = s.setVx k (f (s.vxOf k)) := rfl
@[simp] theorem State.modSp_eq (k : Nat) (f : Sp → Sp) : s.modSp k f = s.setSp k (f (s.spOf k)) := rfl
@[simp] theorem State.modDm_eq (k : Nat) (f : Dm → Dm) : s.modDm k f = s.setDm k (f (s.dmOf k)) := rfl
@[simp] theorem State.modSlice_eq (n : Nat) (f : Slice → Slice) : s.modSlice n f = s.setSlice n (f (s.slice n)) := rfl
@[simp] theorem State.modRec_eq (x : Nat) (f : CtxRec → CtxRec) : s.modRec x f = s.setRec x (f (s.ctxRec x)) := rfl
@[simp] theorem State.modPort_eq (m : Nat) (f : OPort → OPort) : s.modPort m f = s.setPort m (f (s.port m)) := rfl
@[simp] theorem State.modLink_eq (k : Nat) (f : OLink → OLink) : s.modLink k f = s.setLink k (f (s.link k)) := rfl
@[simp] theorem State.modPx_eq (p : Nat) (f : PxPort → PxPort) : s.modPx p f = s.setPx p (f (s.pxOf p)) := rfl
@[simp] theorem State.modChan_eq (k ch : Nat) (f : Chan → Chan) :
    s.modChan k ch f = s.setChan k ch (f (s.chan k ch)) := rfl

/-! ### A unit after a write of the unit -/

@[simp] theorem State.core_setCore_self (c : Nat) (v : Core) :
    (s.setCore c v).core c = v := by simp [State.core, State.setCore]
@[simp] theorem State.core_setCore_ne (c : Nat) (v : Core) (j : Nat) (h : j ≠ c) :
    (s.setCore c v).core j = s.core j := by
  simp [State.core, State.setCore, h]
@[simp] theorem State.mxOf_setMx_self (k : Nat) (v : Mx) : (s.setMx k v).mxOf k = v := by simp [State.mxOf, State.setMx]
@[simp] theorem State.mxOf_setMx_ne (k : Nat) (v : Mx) (j : Nat) (h : j ≠ k) : (s.setMx k v).mxOf j = s.mxOf j := by
  simp [State.mxOf, State.setMx, h]
@[simp] theorem State.vxOf_setVx_self (k : Nat) (v : Vx) : (s.setVx k v).vxOf k = v := by simp [State.vxOf, State.setVx]
@[simp] theorem State.vxOf_setVx_ne (k : Nat) (v : Vx) (j : Nat) (h : j ≠ k) : (s.setVx k v).vxOf j = s.vxOf j := by
  simp [State.vxOf, State.setVx, h]
@[simp] theorem State.spOf_setSp_self (k : Nat) (v : Sp) : (s.setSp k v).spOf k = v := by simp [State.spOf, State.setSp]
@[simp] theorem State.spOf_setSp_ne (k : Nat) (v : Sp) (j : Nat) (h : j ≠ k) : (s.setSp k v).spOf j = s.spOf j := by
  simp [State.spOf, State.setSp, h]
@[simp] theorem State.dmOf_setDm_self (k : Nat) (v : Dm) : (s.setDm k v).dmOf k = v := by simp [State.dmOf, State.setDm]
@[simp] theorem State.dmOf_setDm_ne (k : Nat) (v : Dm) (j : Nat) (h : j ≠ k) : (s.setDm k v).dmOf j = s.dmOf j := by
  simp [State.dmOf, State.setDm, h]
@[simp] theorem State.slice_setSlice_self (n : Nat) (v : Slice) :
    (s.setSlice n v).slice n = v := by simp [State.slice, State.setSlice]
@[simp] theorem State.slice_setSlice_ne (n : Nat) (v : Slice) (j : Nat) (h : j ≠ n) :
    (s.setSlice n v).slice j = s.slice j := by
  simp [State.slice, State.setSlice, h]
@[simp] theorem State.ctxRec_setRec_self (x : Nat) (v : CtxRec) :
    (s.setRec x v).ctxRec x = v := by simp [State.ctxRec, State.setRec]
@[simp] theorem State.ctxRec_setRec_ne (x : Nat) (v : CtxRec) (j : Nat) (h : j ≠ x) :
    (s.setRec x v).ctxRec j = s.ctxRec j := by
  simp [State.ctxRec, State.setRec, h]
@[simp] theorem State.ctr_setCtr_self (p : Nat) (v : Counter) :
    (s.setCtr p v).ctr p = v := by simp [State.ctr, State.setCtr]
@[simp] theorem State.ctr_setCtr_ne (p : Nat) (v : Counter) (j : Nat) (h : j ≠ p) : (s.setCtr p v).ctr j = s.ctr j := by
  simp [State.ctr, State.setCtr, h]
@[simp] theorem State.bar_setBar_self (b : Nat) (v : Barrier) :
    (s.setBar b v).bar b = v := by simp [State.bar, State.setBar]
@[simp] theorem State.bar_setBar_ne (b : Nat) (v : Barrier) (j : Nat) (h : j ≠ b) : (s.setBar b v).bar j = s.bar j := by
  simp [State.bar, State.setBar, h]
@[simp] theorem State.port_setPort_self (m : Nat) (v : OPort) :
    (s.setPort m v).port m = v := by simp [State.port, State.setPort]
@[simp] theorem State.port_setPort_ne (m : Nat) (v : OPort) (j : Nat) (h : j ≠ m) :
    (s.setPort m v).port j = s.port j := by
  simp [State.port, State.setPort, h]
@[simp] theorem State.link_setLink_self (k : Nat) (v : OLink) :
    (s.setLink k v).link k = v := by simp [State.link, State.setLink]
@[simp] theorem State.link_setLink_ne (k : Nat) (v : OLink) (j : Nat) (h : j ≠ k) :
    (s.setLink k v).link j = s.link j := by
  simp [State.link, State.setLink, h]
@[simp] theorem State.pxOf_setPx_self (p : Nat) (v : PxPort) :
    (s.setPx p v).pxOf p = v := by simp [State.pxOf, State.setPx]
@[simp] theorem State.pxOf_setPx_ne (p : Nat) (v : PxPort) (j : Nat) (h : j ≠ p) : (s.setPx p v).pxOf j = s.pxOf j := by
  simp [State.pxOf, State.setPx, h]
@[simp] theorem State.reg_setReg_self (r : RegId) (u n v : Nat) :
    (s.setReg r u n v).reg r u n = v % 4294967296 := by simp [State.reg, State.setReg]

/-! ### A unit after a write of something else -/

@[simp] theorem State.core_setReg (r : RegId) (u n v : Nat) (j : Nat) : (s.setReg r u n v).core j = s.core j := rfl
@[simp] theorem State.core_emit (e : Emission) (j : Nat) : (s.emit e).core j = s.core j := rfl
@[simp] theorem State.core_setMx (k : Nat) (v : Mx) (j : Nat) : (s.setMx k v).core j = s.core j := rfl
@[simp] theorem State.core_setVx (k : Nat) (v : Vx) (j : Nat) : (s.setVx k v).core j = s.core j := rfl
@[simp] theorem State.core_setSp (k : Nat) (v : Sp) (j : Nat) : (s.setSp k v).core j = s.core j := rfl
@[simp] theorem State.core_setDm (k : Nat) (v : Dm) (j : Nat) : (s.setDm k v).core j = s.core j := rfl
@[simp] theorem State.core_setSlice (n : Nat) (v : Slice) (j : Nat) : (s.setSlice n v).core j = s.core j := rfl
@[simp] theorem State.core_setRec (x : Nat) (v : CtxRec) (j : Nat) : (s.setRec x v).core j = s.core j := rfl
@[simp] theorem State.core_setCtr (p : Nat) (v : Counter) (j : Nat) : (s.setCtr p v).core j = s.core j := rfl
@[simp] theorem State.core_setBar (b : Nat) (v : Barrier) (j : Nat) : (s.setBar b v).core j = s.core j := rfl
@[simp] theorem State.core_setPort (m : Nat) (v : OPort) (j : Nat) : (s.setPort m v).core j = s.core j := rfl
@[simp] theorem State.core_setLink (k : Nat) (v : OLink) (j : Nat) : (s.setLink k v).core j = s.core j := rfl
@[simp] theorem State.core_setPx (p : Nat) (v : PxPort) (j : Nat) : (s.setPx p v).core j = s.core j := rfl
@[simp] theorem State.mxOf_setReg (r : RegId) (u n v : Nat) (j : Nat) : (s.setReg r u n v).mxOf j = s.mxOf j := rfl
@[simp] theorem State.mxOf_emit (e : Emission) (j : Nat) : (s.emit e).mxOf j = s.mxOf j := rfl
@[simp] theorem State.mxOf_setCore (c : Nat) (v : Core) (j : Nat) : (s.setCore c v).mxOf j = s.mxOf j := rfl
@[simp] theorem State.mxOf_setVx (k : Nat) (v : Vx) (j : Nat) : (s.setVx k v).mxOf j = s.mxOf j := rfl
@[simp] theorem State.mxOf_setSp (k : Nat) (v : Sp) (j : Nat) : (s.setSp k v).mxOf j = s.mxOf j := rfl
@[simp] theorem State.mxOf_setDm (k : Nat) (v : Dm) (j : Nat) : (s.setDm k v).mxOf j = s.mxOf j := rfl
@[simp] theorem State.mxOf_setSlice (n : Nat) (v : Slice) (j : Nat) : (s.setSlice n v).mxOf j = s.mxOf j := rfl
@[simp] theorem State.mxOf_setRec (x : Nat) (v : CtxRec) (j : Nat) : (s.setRec x v).mxOf j = s.mxOf j := rfl
@[simp] theorem State.mxOf_setCtr (p : Nat) (v : Counter) (j : Nat) : (s.setCtr p v).mxOf j = s.mxOf j := rfl
@[simp] theorem State.mxOf_setBar (b : Nat) (v : Barrier) (j : Nat) : (s.setBar b v).mxOf j = s.mxOf j := rfl
@[simp] theorem State.mxOf_setPort (m : Nat) (v : OPort) (j : Nat) : (s.setPort m v).mxOf j = s.mxOf j := rfl
@[simp] theorem State.mxOf_setLink (k : Nat) (v : OLink) (j : Nat) : (s.setLink k v).mxOf j = s.mxOf j := rfl
@[simp] theorem State.mxOf_setPx (p : Nat) (v : PxPort) (j : Nat) : (s.setPx p v).mxOf j = s.mxOf j := rfl
@[simp] theorem State.vxOf_setReg (r : RegId) (u n v : Nat) (j : Nat) : (s.setReg r u n v).vxOf j = s.vxOf j := rfl
@[simp] theorem State.vxOf_emit (e : Emission) (j : Nat) : (s.emit e).vxOf j = s.vxOf j := rfl
@[simp] theorem State.vxOf_setCore (c : Nat) (v : Core) (j : Nat) : (s.setCore c v).vxOf j = s.vxOf j := rfl
@[simp] theorem State.vxOf_setMx (k : Nat) (v : Mx) (j : Nat) : (s.setMx k v).vxOf j = s.vxOf j := rfl
@[simp] theorem State.vxOf_setSp (k : Nat) (v : Sp) (j : Nat) : (s.setSp k v).vxOf j = s.vxOf j := rfl
@[simp] theorem State.vxOf_setDm (k : Nat) (v : Dm) (j : Nat) : (s.setDm k v).vxOf j = s.vxOf j := rfl
@[simp] theorem State.vxOf_setSlice (n : Nat) (v : Slice) (j : Nat) : (s.setSlice n v).vxOf j = s.vxOf j := rfl
@[simp] theorem State.vxOf_setRec (x : Nat) (v : CtxRec) (j : Nat) : (s.setRec x v).vxOf j = s.vxOf j := rfl
@[simp] theorem State.vxOf_setCtr (p : Nat) (v : Counter) (j : Nat) : (s.setCtr p v).vxOf j = s.vxOf j := rfl
@[simp] theorem State.vxOf_setBar (b : Nat) (v : Barrier) (j : Nat) : (s.setBar b v).vxOf j = s.vxOf j := rfl
@[simp] theorem State.vxOf_setPort (m : Nat) (v : OPort) (j : Nat) : (s.setPort m v).vxOf j = s.vxOf j := rfl
@[simp] theorem State.vxOf_setLink (k : Nat) (v : OLink) (j : Nat) : (s.setLink k v).vxOf j = s.vxOf j := rfl
@[simp] theorem State.vxOf_setPx (p : Nat) (v : PxPort) (j : Nat) : (s.setPx p v).vxOf j = s.vxOf j := rfl
@[simp] theorem State.spOf_setReg (r : RegId) (u n v : Nat) (j : Nat) : (s.setReg r u n v).spOf j = s.spOf j := rfl
@[simp] theorem State.spOf_emit (e : Emission) (j : Nat) : (s.emit e).spOf j = s.spOf j := rfl
@[simp] theorem State.spOf_setCore (c : Nat) (v : Core) (j : Nat) : (s.setCore c v).spOf j = s.spOf j := rfl
@[simp] theorem State.spOf_setMx (k : Nat) (v : Mx) (j : Nat) : (s.setMx k v).spOf j = s.spOf j := rfl
@[simp] theorem State.spOf_setVx (k : Nat) (v : Vx) (j : Nat) : (s.setVx k v).spOf j = s.spOf j := rfl
@[simp] theorem State.spOf_setDm (k : Nat) (v : Dm) (j : Nat) : (s.setDm k v).spOf j = s.spOf j := rfl
@[simp] theorem State.spOf_setSlice (n : Nat) (v : Slice) (j : Nat) : (s.setSlice n v).spOf j = s.spOf j := rfl
@[simp] theorem State.spOf_setRec (x : Nat) (v : CtxRec) (j : Nat) : (s.setRec x v).spOf j = s.spOf j := rfl
@[simp] theorem State.spOf_setCtr (p : Nat) (v : Counter) (j : Nat) : (s.setCtr p v).spOf j = s.spOf j := rfl
@[simp] theorem State.spOf_setBar (b : Nat) (v : Barrier) (j : Nat) : (s.setBar b v).spOf j = s.spOf j := rfl
@[simp] theorem State.spOf_setPort (m : Nat) (v : OPort) (j : Nat) : (s.setPort m v).spOf j = s.spOf j := rfl
@[simp] theorem State.spOf_setLink (k : Nat) (v : OLink) (j : Nat) : (s.setLink k v).spOf j = s.spOf j := rfl
@[simp] theorem State.spOf_setPx (p : Nat) (v : PxPort) (j : Nat) : (s.setPx p v).spOf j = s.spOf j := rfl
@[simp] theorem State.dmOf_setReg (r : RegId) (u n v : Nat) (j : Nat) : (s.setReg r u n v).dmOf j = s.dmOf j := rfl
@[simp] theorem State.dmOf_emit (e : Emission) (j : Nat) : (s.emit e).dmOf j = s.dmOf j := rfl
@[simp] theorem State.dmOf_setCore (c : Nat) (v : Core) (j : Nat) : (s.setCore c v).dmOf j = s.dmOf j := rfl
@[simp] theorem State.dmOf_setMx (k : Nat) (v : Mx) (j : Nat) : (s.setMx k v).dmOf j = s.dmOf j := rfl
@[simp] theorem State.dmOf_setVx (k : Nat) (v : Vx) (j : Nat) : (s.setVx k v).dmOf j = s.dmOf j := rfl
@[simp] theorem State.dmOf_setSp (k : Nat) (v : Sp) (j : Nat) : (s.setSp k v).dmOf j = s.dmOf j := rfl
@[simp] theorem State.dmOf_setSlice (n : Nat) (v : Slice) (j : Nat) : (s.setSlice n v).dmOf j = s.dmOf j := rfl
@[simp] theorem State.dmOf_setRec (x : Nat) (v : CtxRec) (j : Nat) : (s.setRec x v).dmOf j = s.dmOf j := rfl
@[simp] theorem State.dmOf_setCtr (p : Nat) (v : Counter) (j : Nat) : (s.setCtr p v).dmOf j = s.dmOf j := rfl
@[simp] theorem State.dmOf_setBar (b : Nat) (v : Barrier) (j : Nat) : (s.setBar b v).dmOf j = s.dmOf j := rfl
@[simp] theorem State.dmOf_setPort (m : Nat) (v : OPort) (j : Nat) : (s.setPort m v).dmOf j = s.dmOf j := rfl
@[simp] theorem State.dmOf_setLink (k : Nat) (v : OLink) (j : Nat) : (s.setLink k v).dmOf j = s.dmOf j := rfl
@[simp] theorem State.dmOf_setPx (p : Nat) (v : PxPort) (j : Nat) : (s.setPx p v).dmOf j = s.dmOf j := rfl
@[simp] theorem State.slice_setReg (r : RegId) (u n v : Nat) (j : Nat) : (s.setReg r u n v).slice j = s.slice j := rfl
@[simp] theorem State.slice_emit (e : Emission) (j : Nat) : (s.emit e).slice j = s.slice j := rfl
@[simp] theorem State.slice_setCore (c : Nat) (v : Core) (j : Nat) : (s.setCore c v).slice j = s.slice j := rfl
@[simp] theorem State.slice_setMx (k : Nat) (v : Mx) (j : Nat) : (s.setMx k v).slice j = s.slice j := rfl
@[simp] theorem State.slice_setVx (k : Nat) (v : Vx) (j : Nat) : (s.setVx k v).slice j = s.slice j := rfl
@[simp] theorem State.slice_setSp (k : Nat) (v : Sp) (j : Nat) : (s.setSp k v).slice j = s.slice j := rfl
@[simp] theorem State.slice_setDm (k : Nat) (v : Dm) (j : Nat) : (s.setDm k v).slice j = s.slice j := rfl
@[simp] theorem State.slice_setRec (x : Nat) (v : CtxRec) (j : Nat) : (s.setRec x v).slice j = s.slice j := rfl
@[simp] theorem State.slice_setCtr (p : Nat) (v : Counter) (j : Nat) : (s.setCtr p v).slice j = s.slice j := rfl
@[simp] theorem State.slice_setBar (b : Nat) (v : Barrier) (j : Nat) : (s.setBar b v).slice j = s.slice j := rfl
@[simp] theorem State.slice_setPort (m : Nat) (v : OPort) (j : Nat) : (s.setPort m v).slice j = s.slice j := rfl
@[simp] theorem State.slice_setLink (k : Nat) (v : OLink) (j : Nat) : (s.setLink k v).slice j = s.slice j := rfl
@[simp] theorem State.slice_setPx (p : Nat) (v : PxPort) (j : Nat) : (s.setPx p v).slice j = s.slice j := rfl
@[simp] theorem State.ctxRec_setReg (r : RegId) (u n v : Nat) (j : Nat) :
    (s.setReg r u n v).ctxRec j = s.ctxRec j := rfl
@[simp] theorem State.ctxRec_emit (e : Emission) (j : Nat) : (s.emit e).ctxRec j = s.ctxRec j := rfl
@[simp] theorem State.ctxRec_setCore (c : Nat) (v : Core) (j : Nat) : (s.setCore c v).ctxRec j = s.ctxRec j := rfl
@[simp] theorem State.ctxRec_setMx (k : Nat) (v : Mx) (j : Nat) : (s.setMx k v).ctxRec j = s.ctxRec j := rfl
@[simp] theorem State.ctxRec_setVx (k : Nat) (v : Vx) (j : Nat) : (s.setVx k v).ctxRec j = s.ctxRec j := rfl
@[simp] theorem State.ctxRec_setSp (k : Nat) (v : Sp) (j : Nat) : (s.setSp k v).ctxRec j = s.ctxRec j := rfl
@[simp] theorem State.ctxRec_setDm (k : Nat) (v : Dm) (j : Nat) : (s.setDm k v).ctxRec j = s.ctxRec j := rfl
@[simp] theorem State.ctxRec_setSlice (n : Nat) (v : Slice) (j : Nat) : (s.setSlice n v).ctxRec j = s.ctxRec j := rfl
@[simp] theorem State.ctxRec_setCtr (p : Nat) (v : Counter) (j : Nat) : (s.setCtr p v).ctxRec j = s.ctxRec j := rfl
@[simp] theorem State.ctxRec_setBar (b : Nat) (v : Barrier) (j : Nat) : (s.setBar b v).ctxRec j = s.ctxRec j := rfl
@[simp] theorem State.ctxRec_setPort (m : Nat) (v : OPort) (j : Nat) : (s.setPort m v).ctxRec j = s.ctxRec j := rfl
@[simp] theorem State.ctxRec_setLink (k : Nat) (v : OLink) (j : Nat) : (s.setLink k v).ctxRec j = s.ctxRec j := rfl
@[simp] theorem State.ctxRec_setPx (p : Nat) (v : PxPort) (j : Nat) : (s.setPx p v).ctxRec j = s.ctxRec j := rfl
@[simp] theorem State.ctr_setReg (r : RegId) (u n v : Nat) (j : Nat) : (s.setReg r u n v).ctr j = s.ctr j := rfl
@[simp] theorem State.ctr_emit (e : Emission) (j : Nat) : (s.emit e).ctr j = s.ctr j := rfl
@[simp] theorem State.ctr_setCore (c : Nat) (v : Core) (j : Nat) : (s.setCore c v).ctr j = s.ctr j := rfl
@[simp] theorem State.ctr_setMx (k : Nat) (v : Mx) (j : Nat) : (s.setMx k v).ctr j = s.ctr j := rfl
@[simp] theorem State.ctr_setVx (k : Nat) (v : Vx) (j : Nat) : (s.setVx k v).ctr j = s.ctr j := rfl
@[simp] theorem State.ctr_setSp (k : Nat) (v : Sp) (j : Nat) : (s.setSp k v).ctr j = s.ctr j := rfl
@[simp] theorem State.ctr_setDm (k : Nat) (v : Dm) (j : Nat) : (s.setDm k v).ctr j = s.ctr j := rfl
@[simp] theorem State.ctr_setSlice (n : Nat) (v : Slice) (j : Nat) : (s.setSlice n v).ctr j = s.ctr j := rfl
@[simp] theorem State.ctr_setRec (x : Nat) (v : CtxRec) (j : Nat) : (s.setRec x v).ctr j = s.ctr j := rfl
@[simp] theorem State.ctr_setBar (b : Nat) (v : Barrier) (j : Nat) : (s.setBar b v).ctr j = s.ctr j := rfl
@[simp] theorem State.ctr_setPort (m : Nat) (v : OPort) (j : Nat) : (s.setPort m v).ctr j = s.ctr j := rfl
@[simp] theorem State.ctr_setLink (k : Nat) (v : OLink) (j : Nat) : (s.setLink k v).ctr j = s.ctr j := rfl
@[simp] theorem State.ctr_setPx (p : Nat) (v : PxPort) (j : Nat) : (s.setPx p v).ctr j = s.ctr j := rfl
@[simp] theorem State.bar_setReg (r : RegId) (u n v : Nat) (j : Nat) : (s.setReg r u n v).bar j = s.bar j := rfl
@[simp] theorem State.bar_emit (e : Emission) (j : Nat) : (s.emit e).bar j = s.bar j := rfl
@[simp] theorem State.bar_setCore (c : Nat) (v : Core) (j : Nat) : (s.setCore c v).bar j = s.bar j := rfl
@[simp] theorem State.bar_setMx (k : Nat) (v : Mx) (j : Nat) : (s.setMx k v).bar j = s.bar j := rfl
@[simp] theorem State.bar_setVx (k : Nat) (v : Vx) (j : Nat) : (s.setVx k v).bar j = s.bar j := rfl
@[simp] theorem State.bar_setSp (k : Nat) (v : Sp) (j : Nat) : (s.setSp k v).bar j = s.bar j := rfl
@[simp] theorem State.bar_setDm (k : Nat) (v : Dm) (j : Nat) : (s.setDm k v).bar j = s.bar j := rfl
@[simp] theorem State.bar_setSlice (n : Nat) (v : Slice) (j : Nat) : (s.setSlice n v).bar j = s.bar j := rfl
@[simp] theorem State.bar_setRec (x : Nat) (v : CtxRec) (j : Nat) : (s.setRec x v).bar j = s.bar j := rfl
@[simp] theorem State.bar_setCtr (p : Nat) (v : Counter) (j : Nat) : (s.setCtr p v).bar j = s.bar j := rfl
@[simp] theorem State.bar_setPort (m : Nat) (v : OPort) (j : Nat) : (s.setPort m v).bar j = s.bar j := rfl
@[simp] theorem State.bar_setLink (k : Nat) (v : OLink) (j : Nat) : (s.setLink k v).bar j = s.bar j := rfl
@[simp] theorem State.bar_setPx (p : Nat) (v : PxPort) (j : Nat) : (s.setPx p v).bar j = s.bar j := rfl
@[simp] theorem State.port_setReg (r : RegId) (u n v : Nat) (j : Nat) : (s.setReg r u n v).port j = s.port j := rfl
@[simp] theorem State.port_emit (e : Emission) (j : Nat) : (s.emit e).port j = s.port j := rfl
@[simp] theorem State.port_setCore (c : Nat) (v : Core) (j : Nat) : (s.setCore c v).port j = s.port j := rfl
@[simp] theorem State.port_setMx (k : Nat) (v : Mx) (j : Nat) : (s.setMx k v).port j = s.port j := rfl
@[simp] theorem State.port_setVx (k : Nat) (v : Vx) (j : Nat) : (s.setVx k v).port j = s.port j := rfl
@[simp] theorem State.port_setSp (k : Nat) (v : Sp) (j : Nat) : (s.setSp k v).port j = s.port j := rfl
@[simp] theorem State.port_setDm (k : Nat) (v : Dm) (j : Nat) : (s.setDm k v).port j = s.port j := rfl
@[simp] theorem State.port_setSlice (n : Nat) (v : Slice) (j : Nat) : (s.setSlice n v).port j = s.port j := rfl
@[simp] theorem State.port_setRec (x : Nat) (v : CtxRec) (j : Nat) : (s.setRec x v).port j = s.port j := rfl
@[simp] theorem State.port_setCtr (p : Nat) (v : Counter) (j : Nat) : (s.setCtr p v).port j = s.port j := rfl
@[simp] theorem State.port_setBar (b : Nat) (v : Barrier) (j : Nat) : (s.setBar b v).port j = s.port j := rfl
@[simp] theorem State.port_setLink (k : Nat) (v : OLink) (j : Nat) : (s.setLink k v).port j = s.port j := rfl
@[simp] theorem State.port_setPx (p : Nat) (v : PxPort) (j : Nat) : (s.setPx p v).port j = s.port j := rfl
@[simp] theorem State.link_setReg (r : RegId) (u n v : Nat) (j : Nat) : (s.setReg r u n v).link j = s.link j := rfl
@[simp] theorem State.link_emit (e : Emission) (j : Nat) : (s.emit e).link j = s.link j := rfl
@[simp] theorem State.link_setCore (c : Nat) (v : Core) (j : Nat) : (s.setCore c v).link j = s.link j := rfl
@[simp] theorem State.link_setMx (k : Nat) (v : Mx) (j : Nat) : (s.setMx k v).link j = s.link j := rfl
@[simp] theorem State.link_setVx (k : Nat) (v : Vx) (j : Nat) : (s.setVx k v).link j = s.link j := rfl
@[simp] theorem State.link_setSp (k : Nat) (v : Sp) (j : Nat) : (s.setSp k v).link j = s.link j := rfl
@[simp] theorem State.link_setDm (k : Nat) (v : Dm) (j : Nat) : (s.setDm k v).link j = s.link j := rfl
@[simp] theorem State.link_setSlice (n : Nat) (v : Slice) (j : Nat) : (s.setSlice n v).link j = s.link j := rfl
@[simp] theorem State.link_setRec (x : Nat) (v : CtxRec) (j : Nat) : (s.setRec x v).link j = s.link j := rfl
@[simp] theorem State.link_setCtr (p : Nat) (v : Counter) (j : Nat) : (s.setCtr p v).link j = s.link j := rfl
@[simp] theorem State.link_setBar (b : Nat) (v : Barrier) (j : Nat) : (s.setBar b v).link j = s.link j := rfl
@[simp] theorem State.link_setPort (m : Nat) (v : OPort) (j : Nat) : (s.setPort m v).link j = s.link j := rfl
@[simp] theorem State.link_setPx (p : Nat) (v : PxPort) (j : Nat) : (s.setPx p v).link j = s.link j := rfl
@[simp] theorem State.pxOf_setReg (r : RegId) (u n v : Nat) (j : Nat) : (s.setReg r u n v).pxOf j = s.pxOf j := rfl
@[simp] theorem State.pxOf_emit (e : Emission) (j : Nat) : (s.emit e).pxOf j = s.pxOf j := rfl
@[simp] theorem State.pxOf_setCore (c : Nat) (v : Core) (j : Nat) : (s.setCore c v).pxOf j = s.pxOf j := rfl
@[simp] theorem State.pxOf_setMx (k : Nat) (v : Mx) (j : Nat) : (s.setMx k v).pxOf j = s.pxOf j := rfl
@[simp] theorem State.pxOf_setVx (k : Nat) (v : Vx) (j : Nat) : (s.setVx k v).pxOf j = s.pxOf j := rfl
@[simp] theorem State.pxOf_setSp (k : Nat) (v : Sp) (j : Nat) : (s.setSp k v).pxOf j = s.pxOf j := rfl
@[simp] theorem State.pxOf_setDm (k : Nat) (v : Dm) (j : Nat) : (s.setDm k v).pxOf j = s.pxOf j := rfl
@[simp] theorem State.pxOf_setSlice (n : Nat) (v : Slice) (j : Nat) : (s.setSlice n v).pxOf j = s.pxOf j := rfl
@[simp] theorem State.pxOf_setRec (x : Nat) (v : CtxRec) (j : Nat) : (s.setRec x v).pxOf j = s.pxOf j := rfl
@[simp] theorem State.pxOf_setCtr (p : Nat) (v : Counter) (j : Nat) : (s.setCtr p v).pxOf j = s.pxOf j := rfl
@[simp] theorem State.pxOf_setBar (b : Nat) (v : Barrier) (j : Nat) : (s.setBar b v).pxOf j = s.pxOf j := rfl
@[simp] theorem State.pxOf_setPort (m : Nat) (v : OPort) (j : Nat) : (s.setPort m v).pxOf j = s.pxOf j := rfl
@[simp] theorem State.pxOf_setLink (k : Nat) (v : OLink) (j : Nat) : (s.setLink k v).pxOf j = s.pxOf j := rfl
@[simp] theorem State.reg_emit (e : Emission) (q : RegId) (i j : Nat) : (s.emit e).reg q i j = s.reg q i j := rfl
@[simp] theorem State.reg_setCore (c : Nat) (v : Core) (q : RegId) (i j : Nat) :
    (s.setCore c v).reg q i j = s.reg q i j := rfl
@[simp] theorem State.reg_setMx (k : Nat) (v : Mx) (q : RegId) (i j : Nat) :
    (s.setMx k v).reg q i j = s.reg q i j := rfl
@[simp] theorem State.reg_setVx (k : Nat) (v : Vx) (q : RegId) (i j : Nat) :
    (s.setVx k v).reg q i j = s.reg q i j := rfl
@[simp] theorem State.reg_setSp (k : Nat) (v : Sp) (q : RegId) (i j : Nat) :
    (s.setSp k v).reg q i j = s.reg q i j := rfl
@[simp] theorem State.reg_setDm (k : Nat) (v : Dm) (q : RegId) (i j : Nat) :
    (s.setDm k v).reg q i j = s.reg q i j := rfl
@[simp] theorem State.reg_setSlice (n : Nat) (v : Slice) (q : RegId) (i j : Nat) :
    (s.setSlice n v).reg q i j = s.reg q i j := rfl
@[simp] theorem State.reg_setRec (x : Nat) (v : CtxRec) (q : RegId) (i j : Nat) :
    (s.setRec x v).reg q i j = s.reg q i j := rfl
@[simp] theorem State.reg_setCtr (p : Nat) (v : Counter) (q : RegId) (i j : Nat) :
    (s.setCtr p v).reg q i j = s.reg q i j := rfl
@[simp] theorem State.reg_setBar (b : Nat) (v : Barrier) (q : RegId) (i j : Nat) :
    (s.setBar b v).reg q i j = s.reg q i j := rfl
@[simp] theorem State.reg_setPort (m : Nat) (v : OPort) (q : RegId) (i j : Nat) :
    (s.setPort m v).reg q i j = s.reg q i j := rfl
@[simp] theorem State.reg_setLink (k : Nat) (v : OLink) (q : RegId) (i j : Nat) :
    (s.setLink k v).reg q i j = s.reg q i j := rfl
@[simp] theorem State.reg_setPx (p : Nat) (v : PxPort) (q : RegId) (i j : Nat) :
    (s.setPx p v).reg q i j = s.reg q i j := rfl

/-! ### Fields after each write -/

@[simp] theorem State.setReg_pending (r : RegId) (u n v : Nat) : (s.setReg r u n v).pending = s.pending := rfl
@[simp] theorem State.setReg_clock (r : RegId) (u n v : Nat) : (s.setReg r u n v).clock = s.clock := rfl
@[simp] theorem State.setReg_resetAt (r : RegId) (u n v : Nat) : (s.setReg r u n v).resetAt = s.resetAt := rfl
@[simp] theorem State.setReg_powerOnAt (r : RegId) (u n v : Nat) : (s.setReg r u n v).powerOnAt = s.powerOnAt := rfl
@[simp] theorem State.setReg_level (r : RegId) (u n v : Nat) : (s.setReg r u n v).level = s.level := rfl
@[simp] theorem State.setReg_level0 (r : RegId) (u n v : Nat) : (s.setReg r u n v).level0 = s.level0 := rfl
@[simp] theorem State.setReg_level1At (r : RegId) (u n v : Nat) : (s.setReg r u n v).level1At = s.level1At := rfl
@[simp] theorem State.setReg_cores (r : RegId) (u n v : Nat) : (s.setReg r u n v).cores = s.cores := rfl
@[simp] theorem State.setReg_l2 (r : RegId) (u n v : Nat) : (s.setReg r u n v).l2 = s.l2 := rfl
@[simp] theorem State.setReg_mx (r : RegId) (u n v : Nat) : (s.setReg r u n v).mx = s.mx := rfl
@[simp] theorem State.setReg_vx (r : RegId) (u n v : Nat) : (s.setReg r u n v).vx = s.vx := rfl
@[simp] theorem State.setReg_sp (r : RegId) (u n v : Nat) : (s.setReg r u n v).sp = s.sp := rfl
@[simp] theorem State.setReg_dm (r : RegId) (u n v : Nat) : (s.setReg r u n v).dm = s.dm := rfl
@[simp] theorem State.setReg_dram (r : RegId) (u n v : Nat) : (s.setReg r u n v).dram = s.dram := rfl
@[simp] theorem State.setReg_sram (r : RegId) (u n v : Nat) : (s.setReg r u n v).sram = s.sram := rfl
@[simp] theorem State.setReg_sramBad (r : RegId) (u n v : Nat) : (s.setReg r u n v).sramBad = s.sramBad := rfl
@[simp] theorem State.setReg_sides (r : RegId) (u n v : Nat) : (s.setReg r u n v).sides = s.sides := rfl
@[simp] theorem State.setReg_tables (r : RegId) (u n v : Nat) : (s.setReg r u n v).tables = s.tables := rfl
@[simp] theorem State.setReg_periods (r : RegId) (u n v : Nat) : (s.setReg r u n v).periods = s.periods := rfl
@[simp] theorem State.setReg_slices (r : RegId) (u n v : Nat) : (s.setReg r u n v).slices = s.slices := rfl
@[simp] theorem State.setReg_schedules (r : RegId) (u n v : Nat) : (s.setReg r u n v).schedules = s.schedules := rfl
@[simp] theorem State.setReg_stallLog (r : RegId) (u n v : Nat) : (s.setReg r u n v).stallLog = s.stallLog := rfl
@[simp] theorem State.setReg_vReq (r : RegId) (u n v : Nat) : (s.setReg r u n v).vReq = s.vReq := rfl
@[simp] theorem State.setReg_vResp (r : RegId) (u n v : Nat) : (s.setReg r u n v).vResp = s.vResp := rfl
@[simp] theorem State.setReg_vTurn (r : RegId) (u n v : Nat) : (s.setReg r u n v).vTurn = s.vTurn := rfl
@[simp] theorem State.setReg_ctx (r : RegId) (u n v : Nat) : (s.setReg r u n v).ctx = s.ctx := rfl
@[simp] theorem State.setReg_cx (r : RegId) (u n v : Nat) : (s.setReg r u n v).cx = s.cx := rfl
@[simp] theorem State.setReg_sync (r : RegId) (u n v : Nat) : (s.setReg r u n v).sync = s.sync := rfl
@[simp] theorem State.setReg_ol (r : RegId) (u n v : Nat) : (s.setReg r u n v).ol = s.ol := rfl
@[simp] theorem State.setReg_px (r : RegId) (u n v : Nat) : (s.setReg r u n v).px = s.px := rfl
@[simp] theorem State.setReg_sec (r : RegId) (u n v : Nat) : (s.setReg r u n v).sec = s.sec := rfl
@[simp] theorem State.setReg_pw (r : RegId) (u n v : Nat) : (s.setReg r u n v).pw = s.pw := rfl
@[simp] theorem State.setReg_rs (r : RegId) (u n v : Nat) : (s.setReg r u n v).rs = s.rs := rfl
@[simp] theorem State.setReg_proof (r : RegId) (u n v : Nat) : (s.setReg r u n v).proof = s.proof := rfl
@[simp] theorem State.setReg_freeCount (r : RegId) (u n v : Nat) : (s.setReg r u n v).freeCount = s.freeCount := rfl
@[simp] theorem State.setReg_out (r : RegId) (u n v : Nat) : (s.setReg r u n v).out = s.out := rfl
@[simp] theorem State.emit_pending (e : Emission) : (s.emit e).pending = s.pending := rfl
@[simp] theorem State.emit_clock (e : Emission) : (s.emit e).clock = s.clock := rfl
@[simp] theorem State.emit_resetAt (e : Emission) : (s.emit e).resetAt = s.resetAt := rfl
@[simp] theorem State.emit_powerOnAt (e : Emission) : (s.emit e).powerOnAt = s.powerOnAt := rfl
@[simp] theorem State.emit_level (e : Emission) : (s.emit e).level = s.level := rfl
@[simp] theorem State.emit_level0 (e : Emission) : (s.emit e).level0 = s.level0 := rfl
@[simp] theorem State.emit_level1At (e : Emission) : (s.emit e).level1At = s.level1At := rfl
@[simp] theorem State.emit_regs (e : Emission) : (s.emit e).regs = s.regs := rfl
@[simp] theorem State.emit_cores (e : Emission) : (s.emit e).cores = s.cores := rfl
@[simp] theorem State.emit_l2 (e : Emission) : (s.emit e).l2 = s.l2 := rfl
@[simp] theorem State.emit_mx (e : Emission) : (s.emit e).mx = s.mx := rfl
@[simp] theorem State.emit_vx (e : Emission) : (s.emit e).vx = s.vx := rfl
@[simp] theorem State.emit_sp (e : Emission) : (s.emit e).sp = s.sp := rfl
@[simp] theorem State.emit_dm (e : Emission) : (s.emit e).dm = s.dm := rfl
@[simp] theorem State.emit_dram (e : Emission) : (s.emit e).dram = s.dram := rfl
@[simp] theorem State.emit_sram (e : Emission) : (s.emit e).sram = s.sram := rfl
@[simp] theorem State.emit_sramBad (e : Emission) : (s.emit e).sramBad = s.sramBad := rfl
@[simp] theorem State.emit_sides (e : Emission) : (s.emit e).sides = s.sides := rfl
@[simp] theorem State.emit_tables (e : Emission) : (s.emit e).tables = s.tables := rfl
@[simp] theorem State.emit_periods (e : Emission) : (s.emit e).periods = s.periods := rfl
@[simp] theorem State.emit_slices (e : Emission) : (s.emit e).slices = s.slices := rfl
@[simp] theorem State.emit_schedules (e : Emission) : (s.emit e).schedules = s.schedules := rfl
@[simp] theorem State.emit_stallLog (e : Emission) : (s.emit e).stallLog = s.stallLog := rfl
@[simp] theorem State.emit_vReq (e : Emission) : (s.emit e).vReq = s.vReq := rfl
@[simp] theorem State.emit_vResp (e : Emission) : (s.emit e).vResp = s.vResp := rfl
@[simp] theorem State.emit_vTurn (e : Emission) : (s.emit e).vTurn = s.vTurn := rfl
@[simp] theorem State.emit_ctx (e : Emission) : (s.emit e).ctx = s.ctx := rfl
@[simp] theorem State.emit_cx (e : Emission) : (s.emit e).cx = s.cx := rfl
@[simp] theorem State.emit_sync (e : Emission) : (s.emit e).sync = s.sync := rfl
@[simp] theorem State.emit_ol (e : Emission) : (s.emit e).ol = s.ol := rfl
@[simp] theorem State.emit_px (e : Emission) : (s.emit e).px = s.px := rfl
@[simp] theorem State.emit_sec (e : Emission) : (s.emit e).sec = s.sec := rfl
@[simp] theorem State.emit_pw (e : Emission) : (s.emit e).pw = s.pw := rfl
@[simp] theorem State.emit_rs (e : Emission) : (s.emit e).rs = s.rs := rfl
@[simp] theorem State.emit_proof (e : Emission) : (s.emit e).proof = s.proof := rfl
@[simp] theorem State.emit_freeCount (e : Emission) : (s.emit e).freeCount = s.freeCount := rfl
@[simp] theorem State.setCore_pending (c : Nat) (v : Core) : (s.setCore c v).pending = s.pending := rfl
@[simp] theorem State.setCore_clock (c : Nat) (v : Core) : (s.setCore c v).clock = s.clock := rfl
@[simp] theorem State.setCore_resetAt (c : Nat) (v : Core) : (s.setCore c v).resetAt = s.resetAt := rfl
@[simp] theorem State.setCore_powerOnAt (c : Nat) (v : Core) : (s.setCore c v).powerOnAt = s.powerOnAt := rfl
@[simp] theorem State.setCore_level (c : Nat) (v : Core) : (s.setCore c v).level = s.level := rfl
@[simp] theorem State.setCore_level0 (c : Nat) (v : Core) : (s.setCore c v).level0 = s.level0 := rfl
@[simp] theorem State.setCore_level1At (c : Nat) (v : Core) : (s.setCore c v).level1At = s.level1At := rfl
@[simp] theorem State.setCore_regs (c : Nat) (v : Core) : (s.setCore c v).regs = s.regs := rfl
@[simp] theorem State.setCore_l2 (c : Nat) (v : Core) : (s.setCore c v).l2 = s.l2 := rfl
@[simp] theorem State.setCore_mx (c : Nat) (v : Core) : (s.setCore c v).mx = s.mx := rfl
@[simp] theorem State.setCore_vx (c : Nat) (v : Core) : (s.setCore c v).vx = s.vx := rfl
@[simp] theorem State.setCore_sp (c : Nat) (v : Core) : (s.setCore c v).sp = s.sp := rfl
@[simp] theorem State.setCore_dm (c : Nat) (v : Core) : (s.setCore c v).dm = s.dm := rfl
@[simp] theorem State.setCore_dram (c : Nat) (v : Core) : (s.setCore c v).dram = s.dram := rfl
@[simp] theorem State.setCore_sram (c : Nat) (v : Core) : (s.setCore c v).sram = s.sram := rfl
@[simp] theorem State.setCore_sramBad (c : Nat) (v : Core) : (s.setCore c v).sramBad = s.sramBad := rfl
@[simp] theorem State.setCore_sides (c : Nat) (v : Core) : (s.setCore c v).sides = s.sides := rfl
@[simp] theorem State.setCore_tables (c : Nat) (v : Core) : (s.setCore c v).tables = s.tables := rfl
@[simp] theorem State.setCore_periods (c : Nat) (v : Core) : (s.setCore c v).periods = s.periods := rfl
@[simp] theorem State.setCore_slices (c : Nat) (v : Core) : (s.setCore c v).slices = s.slices := rfl
@[simp] theorem State.setCore_schedules (c : Nat) (v : Core) : (s.setCore c v).schedules = s.schedules := rfl
@[simp] theorem State.setCore_stallLog (c : Nat) (v : Core) : (s.setCore c v).stallLog = s.stallLog := rfl
@[simp] theorem State.setCore_vReq (c : Nat) (v : Core) : (s.setCore c v).vReq = s.vReq := rfl
@[simp] theorem State.setCore_vResp (c : Nat) (v : Core) : (s.setCore c v).vResp = s.vResp := rfl
@[simp] theorem State.setCore_vTurn (c : Nat) (v : Core) : (s.setCore c v).vTurn = s.vTurn := rfl
@[simp] theorem State.setCore_ctx (c : Nat) (v : Core) : (s.setCore c v).ctx = s.ctx := rfl
@[simp] theorem State.setCore_cx (c : Nat) (v : Core) : (s.setCore c v).cx = s.cx := rfl
@[simp] theorem State.setCore_sync (c : Nat) (v : Core) : (s.setCore c v).sync = s.sync := rfl
@[simp] theorem State.setCore_ol (c : Nat) (v : Core) : (s.setCore c v).ol = s.ol := rfl
@[simp] theorem State.setCore_px (c : Nat) (v : Core) : (s.setCore c v).px = s.px := rfl
@[simp] theorem State.setCore_sec (c : Nat) (v : Core) : (s.setCore c v).sec = s.sec := rfl
@[simp] theorem State.setCore_pw (c : Nat) (v : Core) : (s.setCore c v).pw = s.pw := rfl
@[simp] theorem State.setCore_rs (c : Nat) (v : Core) : (s.setCore c v).rs = s.rs := rfl
@[simp] theorem State.setCore_proof (c : Nat) (v : Core) : (s.setCore c v).proof = s.proof := rfl
@[simp] theorem State.setCore_freeCount (c : Nat) (v : Core) : (s.setCore c v).freeCount = s.freeCount := rfl
@[simp] theorem State.setCore_out (c : Nat) (v : Core) : (s.setCore c v).out = s.out := rfl
@[simp] theorem State.setMx_pending (k : Nat) (v : Mx) : (s.setMx k v).pending = s.pending := rfl
@[simp] theorem State.setMx_clock (k : Nat) (v : Mx) : (s.setMx k v).clock = s.clock := rfl
@[simp] theorem State.setMx_resetAt (k : Nat) (v : Mx) : (s.setMx k v).resetAt = s.resetAt := rfl
@[simp] theorem State.setMx_powerOnAt (k : Nat) (v : Mx) : (s.setMx k v).powerOnAt = s.powerOnAt := rfl
@[simp] theorem State.setMx_level (k : Nat) (v : Mx) : (s.setMx k v).level = s.level := rfl
@[simp] theorem State.setMx_level0 (k : Nat) (v : Mx) : (s.setMx k v).level0 = s.level0 := rfl
@[simp] theorem State.setMx_level1At (k : Nat) (v : Mx) : (s.setMx k v).level1At = s.level1At := rfl
@[simp] theorem State.setMx_regs (k : Nat) (v : Mx) : (s.setMx k v).regs = s.regs := rfl
@[simp] theorem State.setMx_cores (k : Nat) (v : Mx) : (s.setMx k v).cores = s.cores := rfl
@[simp] theorem State.setMx_l2 (k : Nat) (v : Mx) : (s.setMx k v).l2 = s.l2 := rfl
@[simp] theorem State.setMx_vx (k : Nat) (v : Mx) : (s.setMx k v).vx = s.vx := rfl
@[simp] theorem State.setMx_sp (k : Nat) (v : Mx) : (s.setMx k v).sp = s.sp := rfl
@[simp] theorem State.setMx_dm (k : Nat) (v : Mx) : (s.setMx k v).dm = s.dm := rfl
@[simp] theorem State.setMx_dram (k : Nat) (v : Mx) : (s.setMx k v).dram = s.dram := rfl
@[simp] theorem State.setMx_sram (k : Nat) (v : Mx) : (s.setMx k v).sram = s.sram := rfl
@[simp] theorem State.setMx_sramBad (k : Nat) (v : Mx) : (s.setMx k v).sramBad = s.sramBad := rfl
@[simp] theorem State.setMx_sides (k : Nat) (v : Mx) : (s.setMx k v).sides = s.sides := rfl
@[simp] theorem State.setMx_tables (k : Nat) (v : Mx) : (s.setMx k v).tables = s.tables := rfl
@[simp] theorem State.setMx_periods (k : Nat) (v : Mx) : (s.setMx k v).periods = s.periods := rfl
@[simp] theorem State.setMx_slices (k : Nat) (v : Mx) : (s.setMx k v).slices = s.slices := rfl
@[simp] theorem State.setMx_schedules (k : Nat) (v : Mx) : (s.setMx k v).schedules = s.schedules := rfl
@[simp] theorem State.setMx_stallLog (k : Nat) (v : Mx) : (s.setMx k v).stallLog = s.stallLog := rfl
@[simp] theorem State.setMx_vReq (k : Nat) (v : Mx) : (s.setMx k v).vReq = s.vReq := rfl
@[simp] theorem State.setMx_vResp (k : Nat) (v : Mx) : (s.setMx k v).vResp = s.vResp := rfl
@[simp] theorem State.setMx_vTurn (k : Nat) (v : Mx) : (s.setMx k v).vTurn = s.vTurn := rfl
@[simp] theorem State.setMx_ctx (k : Nat) (v : Mx) : (s.setMx k v).ctx = s.ctx := rfl
@[simp] theorem State.setMx_cx (k : Nat) (v : Mx) : (s.setMx k v).cx = s.cx := rfl
@[simp] theorem State.setMx_sync (k : Nat) (v : Mx) : (s.setMx k v).sync = s.sync := rfl
@[simp] theorem State.setMx_ol (k : Nat) (v : Mx) : (s.setMx k v).ol = s.ol := rfl
@[simp] theorem State.setMx_px (k : Nat) (v : Mx) : (s.setMx k v).px = s.px := rfl
@[simp] theorem State.setMx_sec (k : Nat) (v : Mx) : (s.setMx k v).sec = s.sec := rfl
@[simp] theorem State.setMx_pw (k : Nat) (v : Mx) : (s.setMx k v).pw = s.pw := rfl
@[simp] theorem State.setMx_rs (k : Nat) (v : Mx) : (s.setMx k v).rs = s.rs := rfl
@[simp] theorem State.setMx_proof (k : Nat) (v : Mx) : (s.setMx k v).proof = s.proof := rfl
@[simp] theorem State.setMx_freeCount (k : Nat) (v : Mx) : (s.setMx k v).freeCount = s.freeCount := rfl
@[simp] theorem State.setMx_out (k : Nat) (v : Mx) : (s.setMx k v).out = s.out := rfl
@[simp] theorem State.setVx_pending (k : Nat) (v : Vx) : (s.setVx k v).pending = s.pending := rfl
@[simp] theorem State.setVx_clock (k : Nat) (v : Vx) : (s.setVx k v).clock = s.clock := rfl
@[simp] theorem State.setVx_resetAt (k : Nat) (v : Vx) : (s.setVx k v).resetAt = s.resetAt := rfl
@[simp] theorem State.setVx_powerOnAt (k : Nat) (v : Vx) : (s.setVx k v).powerOnAt = s.powerOnAt := rfl
@[simp] theorem State.setVx_level (k : Nat) (v : Vx) : (s.setVx k v).level = s.level := rfl
@[simp] theorem State.setVx_level0 (k : Nat) (v : Vx) : (s.setVx k v).level0 = s.level0 := rfl
@[simp] theorem State.setVx_level1At (k : Nat) (v : Vx) : (s.setVx k v).level1At = s.level1At := rfl
@[simp] theorem State.setVx_regs (k : Nat) (v : Vx) : (s.setVx k v).regs = s.regs := rfl
@[simp] theorem State.setVx_cores (k : Nat) (v : Vx) : (s.setVx k v).cores = s.cores := rfl
@[simp] theorem State.setVx_l2 (k : Nat) (v : Vx) : (s.setVx k v).l2 = s.l2 := rfl
@[simp] theorem State.setVx_mx (k : Nat) (v : Vx) : (s.setVx k v).mx = s.mx := rfl
@[simp] theorem State.setVx_sp (k : Nat) (v : Vx) : (s.setVx k v).sp = s.sp := rfl
@[simp] theorem State.setVx_dm (k : Nat) (v : Vx) : (s.setVx k v).dm = s.dm := rfl
@[simp] theorem State.setVx_dram (k : Nat) (v : Vx) : (s.setVx k v).dram = s.dram := rfl
@[simp] theorem State.setVx_sram (k : Nat) (v : Vx) : (s.setVx k v).sram = s.sram := rfl
@[simp] theorem State.setVx_sramBad (k : Nat) (v : Vx) : (s.setVx k v).sramBad = s.sramBad := rfl
@[simp] theorem State.setVx_sides (k : Nat) (v : Vx) : (s.setVx k v).sides = s.sides := rfl
@[simp] theorem State.setVx_tables (k : Nat) (v : Vx) : (s.setVx k v).tables = s.tables := rfl
@[simp] theorem State.setVx_periods (k : Nat) (v : Vx) : (s.setVx k v).periods = s.periods := rfl
@[simp] theorem State.setVx_slices (k : Nat) (v : Vx) : (s.setVx k v).slices = s.slices := rfl
@[simp] theorem State.setVx_schedules (k : Nat) (v : Vx) : (s.setVx k v).schedules = s.schedules := rfl
@[simp] theorem State.setVx_stallLog (k : Nat) (v : Vx) : (s.setVx k v).stallLog = s.stallLog := rfl
@[simp] theorem State.setVx_vReq (k : Nat) (v : Vx) : (s.setVx k v).vReq = s.vReq := rfl
@[simp] theorem State.setVx_vResp (k : Nat) (v : Vx) : (s.setVx k v).vResp = s.vResp := rfl
@[simp] theorem State.setVx_vTurn (k : Nat) (v : Vx) : (s.setVx k v).vTurn = s.vTurn := rfl
@[simp] theorem State.setVx_ctx (k : Nat) (v : Vx) : (s.setVx k v).ctx = s.ctx := rfl
@[simp] theorem State.setVx_cx (k : Nat) (v : Vx) : (s.setVx k v).cx = s.cx := rfl
@[simp] theorem State.setVx_sync (k : Nat) (v : Vx) : (s.setVx k v).sync = s.sync := rfl
@[simp] theorem State.setVx_ol (k : Nat) (v : Vx) : (s.setVx k v).ol = s.ol := rfl
@[simp] theorem State.setVx_px (k : Nat) (v : Vx) : (s.setVx k v).px = s.px := rfl
@[simp] theorem State.setVx_sec (k : Nat) (v : Vx) : (s.setVx k v).sec = s.sec := rfl
@[simp] theorem State.setVx_pw (k : Nat) (v : Vx) : (s.setVx k v).pw = s.pw := rfl
@[simp] theorem State.setVx_rs (k : Nat) (v : Vx) : (s.setVx k v).rs = s.rs := rfl
@[simp] theorem State.setVx_proof (k : Nat) (v : Vx) : (s.setVx k v).proof = s.proof := rfl
@[simp] theorem State.setVx_freeCount (k : Nat) (v : Vx) : (s.setVx k v).freeCount = s.freeCount := rfl
@[simp] theorem State.setVx_out (k : Nat) (v : Vx) : (s.setVx k v).out = s.out := rfl
@[simp] theorem State.setSp_pending (k : Nat) (v : Sp) : (s.setSp k v).pending = s.pending := rfl
@[simp] theorem State.setSp_clock (k : Nat) (v : Sp) : (s.setSp k v).clock = s.clock := rfl
@[simp] theorem State.setSp_resetAt (k : Nat) (v : Sp) : (s.setSp k v).resetAt = s.resetAt := rfl
@[simp] theorem State.setSp_powerOnAt (k : Nat) (v : Sp) : (s.setSp k v).powerOnAt = s.powerOnAt := rfl
@[simp] theorem State.setSp_level (k : Nat) (v : Sp) : (s.setSp k v).level = s.level := rfl
@[simp] theorem State.setSp_level0 (k : Nat) (v : Sp) : (s.setSp k v).level0 = s.level0 := rfl
@[simp] theorem State.setSp_level1At (k : Nat) (v : Sp) : (s.setSp k v).level1At = s.level1At := rfl
@[simp] theorem State.setSp_regs (k : Nat) (v : Sp) : (s.setSp k v).regs = s.regs := rfl
@[simp] theorem State.setSp_cores (k : Nat) (v : Sp) : (s.setSp k v).cores = s.cores := rfl
@[simp] theorem State.setSp_l2 (k : Nat) (v : Sp) : (s.setSp k v).l2 = s.l2 := rfl
@[simp] theorem State.setSp_mx (k : Nat) (v : Sp) : (s.setSp k v).mx = s.mx := rfl
@[simp] theorem State.setSp_vx (k : Nat) (v : Sp) : (s.setSp k v).vx = s.vx := rfl
@[simp] theorem State.setSp_dm (k : Nat) (v : Sp) : (s.setSp k v).dm = s.dm := rfl
@[simp] theorem State.setSp_dram (k : Nat) (v : Sp) : (s.setSp k v).dram = s.dram := rfl
@[simp] theorem State.setSp_sram (k : Nat) (v : Sp) : (s.setSp k v).sram = s.sram := rfl
@[simp] theorem State.setSp_sramBad (k : Nat) (v : Sp) : (s.setSp k v).sramBad = s.sramBad := rfl
@[simp] theorem State.setSp_sides (k : Nat) (v : Sp) : (s.setSp k v).sides = s.sides := rfl
@[simp] theorem State.setSp_tables (k : Nat) (v : Sp) : (s.setSp k v).tables = s.tables := rfl
@[simp] theorem State.setSp_periods (k : Nat) (v : Sp) : (s.setSp k v).periods = s.periods := rfl
@[simp] theorem State.setSp_slices (k : Nat) (v : Sp) : (s.setSp k v).slices = s.slices := rfl
@[simp] theorem State.setSp_schedules (k : Nat) (v : Sp) : (s.setSp k v).schedules = s.schedules := rfl
@[simp] theorem State.setSp_stallLog (k : Nat) (v : Sp) : (s.setSp k v).stallLog = s.stallLog := rfl
@[simp] theorem State.setSp_vReq (k : Nat) (v : Sp) : (s.setSp k v).vReq = s.vReq := rfl
@[simp] theorem State.setSp_vResp (k : Nat) (v : Sp) : (s.setSp k v).vResp = s.vResp := rfl
@[simp] theorem State.setSp_vTurn (k : Nat) (v : Sp) : (s.setSp k v).vTurn = s.vTurn := rfl
@[simp] theorem State.setSp_ctx (k : Nat) (v : Sp) : (s.setSp k v).ctx = s.ctx := rfl
@[simp] theorem State.setSp_cx (k : Nat) (v : Sp) : (s.setSp k v).cx = s.cx := rfl
@[simp] theorem State.setSp_sync (k : Nat) (v : Sp) : (s.setSp k v).sync = s.sync := rfl
@[simp] theorem State.setSp_ol (k : Nat) (v : Sp) : (s.setSp k v).ol = s.ol := rfl
@[simp] theorem State.setSp_px (k : Nat) (v : Sp) : (s.setSp k v).px = s.px := rfl
@[simp] theorem State.setSp_sec (k : Nat) (v : Sp) : (s.setSp k v).sec = s.sec := rfl
@[simp] theorem State.setSp_pw (k : Nat) (v : Sp) : (s.setSp k v).pw = s.pw := rfl
@[simp] theorem State.setSp_rs (k : Nat) (v : Sp) : (s.setSp k v).rs = s.rs := rfl
@[simp] theorem State.setSp_proof (k : Nat) (v : Sp) : (s.setSp k v).proof = s.proof := rfl
@[simp] theorem State.setSp_freeCount (k : Nat) (v : Sp) : (s.setSp k v).freeCount = s.freeCount := rfl
@[simp] theorem State.setSp_out (k : Nat) (v : Sp) : (s.setSp k v).out = s.out := rfl
@[simp] theorem State.setDm_pending (k : Nat) (v : Dm) : (s.setDm k v).pending = s.pending := rfl
@[simp] theorem State.setDm_clock (k : Nat) (v : Dm) : (s.setDm k v).clock = s.clock := rfl
@[simp] theorem State.setDm_resetAt (k : Nat) (v : Dm) : (s.setDm k v).resetAt = s.resetAt := rfl
@[simp] theorem State.setDm_powerOnAt (k : Nat) (v : Dm) : (s.setDm k v).powerOnAt = s.powerOnAt := rfl
@[simp] theorem State.setDm_level (k : Nat) (v : Dm) : (s.setDm k v).level = s.level := rfl
@[simp] theorem State.setDm_level0 (k : Nat) (v : Dm) : (s.setDm k v).level0 = s.level0 := rfl
@[simp] theorem State.setDm_level1At (k : Nat) (v : Dm) : (s.setDm k v).level1At = s.level1At := rfl
@[simp] theorem State.setDm_regs (k : Nat) (v : Dm) : (s.setDm k v).regs = s.regs := rfl
@[simp] theorem State.setDm_cores (k : Nat) (v : Dm) : (s.setDm k v).cores = s.cores := rfl
@[simp] theorem State.setDm_l2 (k : Nat) (v : Dm) : (s.setDm k v).l2 = s.l2 := rfl
@[simp] theorem State.setDm_mx (k : Nat) (v : Dm) : (s.setDm k v).mx = s.mx := rfl
@[simp] theorem State.setDm_vx (k : Nat) (v : Dm) : (s.setDm k v).vx = s.vx := rfl
@[simp] theorem State.setDm_sp (k : Nat) (v : Dm) : (s.setDm k v).sp = s.sp := rfl
@[simp] theorem State.setDm_dram (k : Nat) (v : Dm) : (s.setDm k v).dram = s.dram := rfl
@[simp] theorem State.setDm_sram (k : Nat) (v : Dm) : (s.setDm k v).sram = s.sram := rfl
@[simp] theorem State.setDm_sramBad (k : Nat) (v : Dm) : (s.setDm k v).sramBad = s.sramBad := rfl
@[simp] theorem State.setDm_sides (k : Nat) (v : Dm) : (s.setDm k v).sides = s.sides := rfl
@[simp] theorem State.setDm_tables (k : Nat) (v : Dm) : (s.setDm k v).tables = s.tables := rfl
@[simp] theorem State.setDm_periods (k : Nat) (v : Dm) : (s.setDm k v).periods = s.periods := rfl
@[simp] theorem State.setDm_slices (k : Nat) (v : Dm) : (s.setDm k v).slices = s.slices := rfl
@[simp] theorem State.setDm_schedules (k : Nat) (v : Dm) : (s.setDm k v).schedules = s.schedules := rfl
@[simp] theorem State.setDm_stallLog (k : Nat) (v : Dm) : (s.setDm k v).stallLog = s.stallLog := rfl
@[simp] theorem State.setDm_vReq (k : Nat) (v : Dm) : (s.setDm k v).vReq = s.vReq := rfl
@[simp] theorem State.setDm_vResp (k : Nat) (v : Dm) : (s.setDm k v).vResp = s.vResp := rfl
@[simp] theorem State.setDm_vTurn (k : Nat) (v : Dm) : (s.setDm k v).vTurn = s.vTurn := rfl
@[simp] theorem State.setDm_ctx (k : Nat) (v : Dm) : (s.setDm k v).ctx = s.ctx := rfl
@[simp] theorem State.setDm_cx (k : Nat) (v : Dm) : (s.setDm k v).cx = s.cx := rfl
@[simp] theorem State.setDm_sync (k : Nat) (v : Dm) : (s.setDm k v).sync = s.sync := rfl
@[simp] theorem State.setDm_ol (k : Nat) (v : Dm) : (s.setDm k v).ol = s.ol := rfl
@[simp] theorem State.setDm_px (k : Nat) (v : Dm) : (s.setDm k v).px = s.px := rfl
@[simp] theorem State.setDm_sec (k : Nat) (v : Dm) : (s.setDm k v).sec = s.sec := rfl
@[simp] theorem State.setDm_pw (k : Nat) (v : Dm) : (s.setDm k v).pw = s.pw := rfl
@[simp] theorem State.setDm_rs (k : Nat) (v : Dm) : (s.setDm k v).rs = s.rs := rfl
@[simp] theorem State.setDm_proof (k : Nat) (v : Dm) : (s.setDm k v).proof = s.proof := rfl
@[simp] theorem State.setDm_freeCount (k : Nat) (v : Dm) : (s.setDm k v).freeCount = s.freeCount := rfl
@[simp] theorem State.setDm_out (k : Nat) (v : Dm) : (s.setDm k v).out = s.out := rfl
@[simp] theorem State.setSlice_pending (n : Nat) (v : Slice) : (s.setSlice n v).pending = s.pending := rfl
@[simp] theorem State.setSlice_clock (n : Nat) (v : Slice) : (s.setSlice n v).clock = s.clock := rfl
@[simp] theorem State.setSlice_resetAt (n : Nat) (v : Slice) : (s.setSlice n v).resetAt = s.resetAt := rfl
@[simp] theorem State.setSlice_powerOnAt (n : Nat) (v : Slice) : (s.setSlice n v).powerOnAt = s.powerOnAt := rfl
@[simp] theorem State.setSlice_level (n : Nat) (v : Slice) : (s.setSlice n v).level = s.level := rfl
@[simp] theorem State.setSlice_level0 (n : Nat) (v : Slice) : (s.setSlice n v).level0 = s.level0 := rfl
@[simp] theorem State.setSlice_level1At (n : Nat) (v : Slice) : (s.setSlice n v).level1At = s.level1At := rfl
@[simp] theorem State.setSlice_regs (n : Nat) (v : Slice) : (s.setSlice n v).regs = s.regs := rfl
@[simp] theorem State.setSlice_cores (n : Nat) (v : Slice) : (s.setSlice n v).cores = s.cores := rfl
@[simp] theorem State.setSlice_l2 (n : Nat) (v : Slice) : (s.setSlice n v).l2 = s.l2 := rfl
@[simp] theorem State.setSlice_mx (n : Nat) (v : Slice) : (s.setSlice n v).mx = s.mx := rfl
@[simp] theorem State.setSlice_vx (n : Nat) (v : Slice) : (s.setSlice n v).vx = s.vx := rfl
@[simp] theorem State.setSlice_sp (n : Nat) (v : Slice) : (s.setSlice n v).sp = s.sp := rfl
@[simp] theorem State.setSlice_dm (n : Nat) (v : Slice) : (s.setSlice n v).dm = s.dm := rfl
@[simp] theorem State.setSlice_dram (n : Nat) (v : Slice) : (s.setSlice n v).dram = s.dram := rfl
@[simp] theorem State.setSlice_sram (n : Nat) (v : Slice) : (s.setSlice n v).sram = s.sram := rfl
@[simp] theorem State.setSlice_sramBad (n : Nat) (v : Slice) : (s.setSlice n v).sramBad = s.sramBad := rfl
@[simp] theorem State.setSlice_sides (n : Nat) (v : Slice) : (s.setSlice n v).sides = s.sides := rfl
@[simp] theorem State.setSlice_tables (n : Nat) (v : Slice) : (s.setSlice n v).tables = s.tables := rfl
@[simp] theorem State.setSlice_periods (n : Nat) (v : Slice) : (s.setSlice n v).periods = s.periods := rfl
@[simp] theorem State.setSlice_schedules (n : Nat) (v : Slice) : (s.setSlice n v).schedules = s.schedules := rfl
@[simp] theorem State.setSlice_stallLog (n : Nat) (v : Slice) : (s.setSlice n v).stallLog = s.stallLog := rfl
@[simp] theorem State.setSlice_vReq (n : Nat) (v : Slice) : (s.setSlice n v).vReq = s.vReq := rfl
@[simp] theorem State.setSlice_vResp (n : Nat) (v : Slice) : (s.setSlice n v).vResp = s.vResp := rfl
@[simp] theorem State.setSlice_vTurn (n : Nat) (v : Slice) : (s.setSlice n v).vTurn = s.vTurn := rfl
@[simp] theorem State.setSlice_ctx (n : Nat) (v : Slice) : (s.setSlice n v).ctx = s.ctx := rfl
@[simp] theorem State.setSlice_cx (n : Nat) (v : Slice) : (s.setSlice n v).cx = s.cx := rfl
@[simp] theorem State.setSlice_sync (n : Nat) (v : Slice) : (s.setSlice n v).sync = s.sync := rfl
@[simp] theorem State.setSlice_ol (n : Nat) (v : Slice) : (s.setSlice n v).ol = s.ol := rfl
@[simp] theorem State.setSlice_px (n : Nat) (v : Slice) : (s.setSlice n v).px = s.px := rfl
@[simp] theorem State.setSlice_sec (n : Nat) (v : Slice) : (s.setSlice n v).sec = s.sec := rfl
@[simp] theorem State.setSlice_pw (n : Nat) (v : Slice) : (s.setSlice n v).pw = s.pw := rfl
@[simp] theorem State.setSlice_rs (n : Nat) (v : Slice) : (s.setSlice n v).rs = s.rs := rfl
@[simp] theorem State.setSlice_proof (n : Nat) (v : Slice) : (s.setSlice n v).proof = s.proof := rfl
@[simp] theorem State.setSlice_freeCount (n : Nat) (v : Slice) : (s.setSlice n v).freeCount = s.freeCount := rfl
@[simp] theorem State.setSlice_out (n : Nat) (v : Slice) : (s.setSlice n v).out = s.out := rfl
@[simp] theorem State.setRec_pending (x : Nat) (v : CtxRec) : (s.setRec x v).pending = s.pending := rfl
@[simp] theorem State.setRec_clock (x : Nat) (v : CtxRec) : (s.setRec x v).clock = s.clock := rfl
@[simp] theorem State.setRec_resetAt (x : Nat) (v : CtxRec) : (s.setRec x v).resetAt = s.resetAt := rfl
@[simp] theorem State.setRec_powerOnAt (x : Nat) (v : CtxRec) : (s.setRec x v).powerOnAt = s.powerOnAt := rfl
@[simp] theorem State.setRec_level (x : Nat) (v : CtxRec) : (s.setRec x v).level = s.level := rfl
@[simp] theorem State.setRec_level0 (x : Nat) (v : CtxRec) : (s.setRec x v).level0 = s.level0 := rfl
@[simp] theorem State.setRec_level1At (x : Nat) (v : CtxRec) : (s.setRec x v).level1At = s.level1At := rfl
@[simp] theorem State.setRec_regs (x : Nat) (v : CtxRec) : (s.setRec x v).regs = s.regs := rfl
@[simp] theorem State.setRec_cores (x : Nat) (v : CtxRec) : (s.setRec x v).cores = s.cores := rfl
@[simp] theorem State.setRec_l2 (x : Nat) (v : CtxRec) : (s.setRec x v).l2 = s.l2 := rfl
@[simp] theorem State.setRec_mx (x : Nat) (v : CtxRec) : (s.setRec x v).mx = s.mx := rfl
@[simp] theorem State.setRec_vx (x : Nat) (v : CtxRec) : (s.setRec x v).vx = s.vx := rfl
@[simp] theorem State.setRec_sp (x : Nat) (v : CtxRec) : (s.setRec x v).sp = s.sp := rfl
@[simp] theorem State.setRec_dm (x : Nat) (v : CtxRec) : (s.setRec x v).dm = s.dm := rfl
@[simp] theorem State.setRec_dram (x : Nat) (v : CtxRec) : (s.setRec x v).dram = s.dram := rfl
@[simp] theorem State.setRec_sram (x : Nat) (v : CtxRec) : (s.setRec x v).sram = s.sram := rfl
@[simp] theorem State.setRec_sramBad (x : Nat) (v : CtxRec) : (s.setRec x v).sramBad = s.sramBad := rfl
@[simp] theorem State.setRec_sides (x : Nat) (v : CtxRec) : (s.setRec x v).sides = s.sides := rfl
@[simp] theorem State.setRec_tables (x : Nat) (v : CtxRec) : (s.setRec x v).tables = s.tables := rfl
@[simp] theorem State.setRec_periods (x : Nat) (v : CtxRec) : (s.setRec x v).periods = s.periods := rfl
@[simp] theorem State.setRec_slices (x : Nat) (v : CtxRec) : (s.setRec x v).slices = s.slices := rfl
@[simp] theorem State.setRec_schedules (x : Nat) (v : CtxRec) : (s.setRec x v).schedules = s.schedules := rfl
@[simp] theorem State.setRec_stallLog (x : Nat) (v : CtxRec) : (s.setRec x v).stallLog = s.stallLog := rfl
@[simp] theorem State.setRec_vReq (x : Nat) (v : CtxRec) : (s.setRec x v).vReq = s.vReq := rfl
@[simp] theorem State.setRec_vResp (x : Nat) (v : CtxRec) : (s.setRec x v).vResp = s.vResp := rfl
@[simp] theorem State.setRec_vTurn (x : Nat) (v : CtxRec) : (s.setRec x v).vTurn = s.vTurn := rfl
@[simp] theorem State.setRec_cx (x : Nat) (v : CtxRec) : (s.setRec x v).cx = s.cx := rfl
@[simp] theorem State.setRec_sync (x : Nat) (v : CtxRec) : (s.setRec x v).sync = s.sync := rfl
@[simp] theorem State.setRec_ol (x : Nat) (v : CtxRec) : (s.setRec x v).ol = s.ol := rfl
@[simp] theorem State.setRec_px (x : Nat) (v : CtxRec) : (s.setRec x v).px = s.px := rfl
@[simp] theorem State.setRec_sec (x : Nat) (v : CtxRec) : (s.setRec x v).sec = s.sec := rfl
@[simp] theorem State.setRec_pw (x : Nat) (v : CtxRec) : (s.setRec x v).pw = s.pw := rfl
@[simp] theorem State.setRec_rs (x : Nat) (v : CtxRec) : (s.setRec x v).rs = s.rs := rfl
@[simp] theorem State.setRec_proof (x : Nat) (v : CtxRec) : (s.setRec x v).proof = s.proof := rfl
@[simp] theorem State.setRec_freeCount (x : Nat) (v : CtxRec) : (s.setRec x v).freeCount = s.freeCount := rfl
@[simp] theorem State.setRec_out (x : Nat) (v : CtxRec) : (s.setRec x v).out = s.out := rfl
@[simp] theorem State.setCtr_pending (p : Nat) (v : Counter) : (s.setCtr p v).pending = s.pending := rfl
@[simp] theorem State.setCtr_clock (p : Nat) (v : Counter) : (s.setCtr p v).clock = s.clock := rfl
@[simp] theorem State.setCtr_resetAt (p : Nat) (v : Counter) : (s.setCtr p v).resetAt = s.resetAt := rfl
@[simp] theorem State.setCtr_powerOnAt (p : Nat) (v : Counter) : (s.setCtr p v).powerOnAt = s.powerOnAt := rfl
@[simp] theorem State.setCtr_level (p : Nat) (v : Counter) : (s.setCtr p v).level = s.level := rfl
@[simp] theorem State.setCtr_level0 (p : Nat) (v : Counter) : (s.setCtr p v).level0 = s.level0 := rfl
@[simp] theorem State.setCtr_level1At (p : Nat) (v : Counter) : (s.setCtr p v).level1At = s.level1At := rfl
@[simp] theorem State.setCtr_regs (p : Nat) (v : Counter) : (s.setCtr p v).regs = s.regs := rfl
@[simp] theorem State.setCtr_cores (p : Nat) (v : Counter) : (s.setCtr p v).cores = s.cores := rfl
@[simp] theorem State.setCtr_l2 (p : Nat) (v : Counter) : (s.setCtr p v).l2 = s.l2 := rfl
@[simp] theorem State.setCtr_mx (p : Nat) (v : Counter) : (s.setCtr p v).mx = s.mx := rfl
@[simp] theorem State.setCtr_vx (p : Nat) (v : Counter) : (s.setCtr p v).vx = s.vx := rfl
@[simp] theorem State.setCtr_sp (p : Nat) (v : Counter) : (s.setCtr p v).sp = s.sp := rfl
@[simp] theorem State.setCtr_dm (p : Nat) (v : Counter) : (s.setCtr p v).dm = s.dm := rfl
@[simp] theorem State.setCtr_dram (p : Nat) (v : Counter) : (s.setCtr p v).dram = s.dram := rfl
@[simp] theorem State.setCtr_sram (p : Nat) (v : Counter) : (s.setCtr p v).sram = s.sram := rfl
@[simp] theorem State.setCtr_sramBad (p : Nat) (v : Counter) : (s.setCtr p v).sramBad = s.sramBad := rfl
@[simp] theorem State.setCtr_sides (p : Nat) (v : Counter) : (s.setCtr p v).sides = s.sides := rfl
@[simp] theorem State.setCtr_tables (p : Nat) (v : Counter) : (s.setCtr p v).tables = s.tables := rfl
@[simp] theorem State.setCtr_periods (p : Nat) (v : Counter) : (s.setCtr p v).periods = s.periods := rfl
@[simp] theorem State.setCtr_slices (p : Nat) (v : Counter) : (s.setCtr p v).slices = s.slices := rfl
@[simp] theorem State.setCtr_schedules (p : Nat) (v : Counter) : (s.setCtr p v).schedules = s.schedules := rfl
@[simp] theorem State.setCtr_stallLog (p : Nat) (v : Counter) : (s.setCtr p v).stallLog = s.stallLog := rfl
@[simp] theorem State.setCtr_vReq (p : Nat) (v : Counter) : (s.setCtr p v).vReq = s.vReq := rfl
@[simp] theorem State.setCtr_vResp (p : Nat) (v : Counter) : (s.setCtr p v).vResp = s.vResp := rfl
@[simp] theorem State.setCtr_vTurn (p : Nat) (v : Counter) : (s.setCtr p v).vTurn = s.vTurn := rfl
@[simp] theorem State.setCtr_ctx (p : Nat) (v : Counter) : (s.setCtr p v).ctx = s.ctx := rfl
@[simp] theorem State.setCtr_cx (p : Nat) (v : Counter) : (s.setCtr p v).cx = s.cx := rfl
@[simp] theorem State.setCtr_ol (p : Nat) (v : Counter) : (s.setCtr p v).ol = s.ol := rfl
@[simp] theorem State.setCtr_px (p : Nat) (v : Counter) : (s.setCtr p v).px = s.px := rfl
@[simp] theorem State.setCtr_sec (p : Nat) (v : Counter) : (s.setCtr p v).sec = s.sec := rfl
@[simp] theorem State.setCtr_pw (p : Nat) (v : Counter) : (s.setCtr p v).pw = s.pw := rfl
@[simp] theorem State.setCtr_rs (p : Nat) (v : Counter) : (s.setCtr p v).rs = s.rs := rfl
@[simp] theorem State.setCtr_proof (p : Nat) (v : Counter) : (s.setCtr p v).proof = s.proof := rfl
@[simp] theorem State.setCtr_freeCount (p : Nat) (v : Counter) : (s.setCtr p v).freeCount = s.freeCount := rfl
@[simp] theorem State.setCtr_out (p : Nat) (v : Counter) : (s.setCtr p v).out = s.out := rfl
@[simp] theorem State.setBar_pending (b : Nat) (v : Barrier) : (s.setBar b v).pending = s.pending := rfl
@[simp] theorem State.setBar_clock (b : Nat) (v : Barrier) : (s.setBar b v).clock = s.clock := rfl
@[simp] theorem State.setBar_resetAt (b : Nat) (v : Barrier) : (s.setBar b v).resetAt = s.resetAt := rfl
@[simp] theorem State.setBar_powerOnAt (b : Nat) (v : Barrier) : (s.setBar b v).powerOnAt = s.powerOnAt := rfl
@[simp] theorem State.setBar_level (b : Nat) (v : Barrier) : (s.setBar b v).level = s.level := rfl
@[simp] theorem State.setBar_level0 (b : Nat) (v : Barrier) : (s.setBar b v).level0 = s.level0 := rfl
@[simp] theorem State.setBar_level1At (b : Nat) (v : Barrier) : (s.setBar b v).level1At = s.level1At := rfl
@[simp] theorem State.setBar_regs (b : Nat) (v : Barrier) : (s.setBar b v).regs = s.regs := rfl
@[simp] theorem State.setBar_cores (b : Nat) (v : Barrier) : (s.setBar b v).cores = s.cores := rfl
@[simp] theorem State.setBar_l2 (b : Nat) (v : Barrier) : (s.setBar b v).l2 = s.l2 := rfl
@[simp] theorem State.setBar_mx (b : Nat) (v : Barrier) : (s.setBar b v).mx = s.mx := rfl
@[simp] theorem State.setBar_vx (b : Nat) (v : Barrier) : (s.setBar b v).vx = s.vx := rfl
@[simp] theorem State.setBar_sp (b : Nat) (v : Barrier) : (s.setBar b v).sp = s.sp := rfl
@[simp] theorem State.setBar_dm (b : Nat) (v : Barrier) : (s.setBar b v).dm = s.dm := rfl
@[simp] theorem State.setBar_dram (b : Nat) (v : Barrier) : (s.setBar b v).dram = s.dram := rfl
@[simp] theorem State.setBar_sram (b : Nat) (v : Barrier) : (s.setBar b v).sram = s.sram := rfl
@[simp] theorem State.setBar_sramBad (b : Nat) (v : Barrier) : (s.setBar b v).sramBad = s.sramBad := rfl
@[simp] theorem State.setBar_sides (b : Nat) (v : Barrier) : (s.setBar b v).sides = s.sides := rfl
@[simp] theorem State.setBar_tables (b : Nat) (v : Barrier) : (s.setBar b v).tables = s.tables := rfl
@[simp] theorem State.setBar_periods (b : Nat) (v : Barrier) : (s.setBar b v).periods = s.periods := rfl
@[simp] theorem State.setBar_slices (b : Nat) (v : Barrier) : (s.setBar b v).slices = s.slices := rfl
@[simp] theorem State.setBar_schedules (b : Nat) (v : Barrier) : (s.setBar b v).schedules = s.schedules := rfl
@[simp] theorem State.setBar_stallLog (b : Nat) (v : Barrier) : (s.setBar b v).stallLog = s.stallLog := rfl
@[simp] theorem State.setBar_vReq (b : Nat) (v : Barrier) : (s.setBar b v).vReq = s.vReq := rfl
@[simp] theorem State.setBar_vResp (b : Nat) (v : Barrier) : (s.setBar b v).vResp = s.vResp := rfl
@[simp] theorem State.setBar_vTurn (b : Nat) (v : Barrier) : (s.setBar b v).vTurn = s.vTurn := rfl
@[simp] theorem State.setBar_ctx (b : Nat) (v : Barrier) : (s.setBar b v).ctx = s.ctx := rfl
@[simp] theorem State.setBar_cx (b : Nat) (v : Barrier) : (s.setBar b v).cx = s.cx := rfl
@[simp] theorem State.setBar_ol (b : Nat) (v : Barrier) : (s.setBar b v).ol = s.ol := rfl
@[simp] theorem State.setBar_px (b : Nat) (v : Barrier) : (s.setBar b v).px = s.px := rfl
@[simp] theorem State.setBar_sec (b : Nat) (v : Barrier) : (s.setBar b v).sec = s.sec := rfl
@[simp] theorem State.setBar_pw (b : Nat) (v : Barrier) : (s.setBar b v).pw = s.pw := rfl
@[simp] theorem State.setBar_rs (b : Nat) (v : Barrier) : (s.setBar b v).rs = s.rs := rfl
@[simp] theorem State.setBar_proof (b : Nat) (v : Barrier) : (s.setBar b v).proof = s.proof := rfl
@[simp] theorem State.setBar_freeCount (b : Nat) (v : Barrier) : (s.setBar b v).freeCount = s.freeCount := rfl
@[simp] theorem State.setBar_out (b : Nat) (v : Barrier) : (s.setBar b v).out = s.out := rfl
@[simp] theorem State.setPort_pending (m : Nat) (v : OPort) : (s.setPort m v).pending = s.pending := rfl
@[simp] theorem State.setPort_clock (m : Nat) (v : OPort) : (s.setPort m v).clock = s.clock := rfl
@[simp] theorem State.setPort_resetAt (m : Nat) (v : OPort) : (s.setPort m v).resetAt = s.resetAt := rfl
@[simp] theorem State.setPort_powerOnAt (m : Nat) (v : OPort) : (s.setPort m v).powerOnAt = s.powerOnAt := rfl
@[simp] theorem State.setPort_level (m : Nat) (v : OPort) : (s.setPort m v).level = s.level := rfl
@[simp] theorem State.setPort_level0 (m : Nat) (v : OPort) : (s.setPort m v).level0 = s.level0 := rfl
@[simp] theorem State.setPort_level1At (m : Nat) (v : OPort) : (s.setPort m v).level1At = s.level1At := rfl
@[simp] theorem State.setPort_regs (m : Nat) (v : OPort) : (s.setPort m v).regs = s.regs := rfl
@[simp] theorem State.setPort_cores (m : Nat) (v : OPort) : (s.setPort m v).cores = s.cores := rfl
@[simp] theorem State.setPort_l2 (m : Nat) (v : OPort) : (s.setPort m v).l2 = s.l2 := rfl
@[simp] theorem State.setPort_mx (m : Nat) (v : OPort) : (s.setPort m v).mx = s.mx := rfl
@[simp] theorem State.setPort_vx (m : Nat) (v : OPort) : (s.setPort m v).vx = s.vx := rfl
@[simp] theorem State.setPort_sp (m : Nat) (v : OPort) : (s.setPort m v).sp = s.sp := rfl
@[simp] theorem State.setPort_dm (m : Nat) (v : OPort) : (s.setPort m v).dm = s.dm := rfl
@[simp] theorem State.setPort_dram (m : Nat) (v : OPort) : (s.setPort m v).dram = s.dram := rfl
@[simp] theorem State.setPort_sram (m : Nat) (v : OPort) : (s.setPort m v).sram = s.sram := rfl
@[simp] theorem State.setPort_sramBad (m : Nat) (v : OPort) : (s.setPort m v).sramBad = s.sramBad := rfl
@[simp] theorem State.setPort_sides (m : Nat) (v : OPort) : (s.setPort m v).sides = s.sides := rfl
@[simp] theorem State.setPort_tables (m : Nat) (v : OPort) : (s.setPort m v).tables = s.tables := rfl
@[simp] theorem State.setPort_periods (m : Nat) (v : OPort) : (s.setPort m v).periods = s.periods := rfl
@[simp] theorem State.setPort_slices (m : Nat) (v : OPort) : (s.setPort m v).slices = s.slices := rfl
@[simp] theorem State.setPort_schedules (m : Nat) (v : OPort) : (s.setPort m v).schedules = s.schedules := rfl
@[simp] theorem State.setPort_stallLog (m : Nat) (v : OPort) : (s.setPort m v).stallLog = s.stallLog := rfl
@[simp] theorem State.setPort_vReq (m : Nat) (v : OPort) : (s.setPort m v).vReq = s.vReq := rfl
@[simp] theorem State.setPort_vResp (m : Nat) (v : OPort) : (s.setPort m v).vResp = s.vResp := rfl
@[simp] theorem State.setPort_vTurn (m : Nat) (v : OPort) : (s.setPort m v).vTurn = s.vTurn := rfl
@[simp] theorem State.setPort_ctx (m : Nat) (v : OPort) : (s.setPort m v).ctx = s.ctx := rfl
@[simp] theorem State.setPort_cx (m : Nat) (v : OPort) : (s.setPort m v).cx = s.cx := rfl
@[simp] theorem State.setPort_sync (m : Nat) (v : OPort) : (s.setPort m v).sync = s.sync := rfl
@[simp] theorem State.setPort_px (m : Nat) (v : OPort) : (s.setPort m v).px = s.px := rfl
@[simp] theorem State.setPort_sec (m : Nat) (v : OPort) : (s.setPort m v).sec = s.sec := rfl
@[simp] theorem State.setPort_pw (m : Nat) (v : OPort) : (s.setPort m v).pw = s.pw := rfl
@[simp] theorem State.setPort_rs (m : Nat) (v : OPort) : (s.setPort m v).rs = s.rs := rfl
@[simp] theorem State.setPort_proof (m : Nat) (v : OPort) : (s.setPort m v).proof = s.proof := rfl
@[simp] theorem State.setPort_freeCount (m : Nat) (v : OPort) : (s.setPort m v).freeCount = s.freeCount := rfl
@[simp] theorem State.setPort_out (m : Nat) (v : OPort) : (s.setPort m v).out = s.out := rfl
@[simp] theorem State.setLink_pending (k : Nat) (v : OLink) : (s.setLink k v).pending = s.pending := rfl
@[simp] theorem State.setLink_clock (k : Nat) (v : OLink) : (s.setLink k v).clock = s.clock := rfl
@[simp] theorem State.setLink_resetAt (k : Nat) (v : OLink) : (s.setLink k v).resetAt = s.resetAt := rfl
@[simp] theorem State.setLink_powerOnAt (k : Nat) (v : OLink) : (s.setLink k v).powerOnAt = s.powerOnAt := rfl
@[simp] theorem State.setLink_level (k : Nat) (v : OLink) : (s.setLink k v).level = s.level := rfl
@[simp] theorem State.setLink_level0 (k : Nat) (v : OLink) : (s.setLink k v).level0 = s.level0 := rfl
@[simp] theorem State.setLink_level1At (k : Nat) (v : OLink) : (s.setLink k v).level1At = s.level1At := rfl
@[simp] theorem State.setLink_regs (k : Nat) (v : OLink) : (s.setLink k v).regs = s.regs := rfl
@[simp] theorem State.setLink_cores (k : Nat) (v : OLink) : (s.setLink k v).cores = s.cores := rfl
@[simp] theorem State.setLink_l2 (k : Nat) (v : OLink) : (s.setLink k v).l2 = s.l2 := rfl
@[simp] theorem State.setLink_mx (k : Nat) (v : OLink) : (s.setLink k v).mx = s.mx := rfl
@[simp] theorem State.setLink_vx (k : Nat) (v : OLink) : (s.setLink k v).vx = s.vx := rfl
@[simp] theorem State.setLink_sp (k : Nat) (v : OLink) : (s.setLink k v).sp = s.sp := rfl
@[simp] theorem State.setLink_dm (k : Nat) (v : OLink) : (s.setLink k v).dm = s.dm := rfl
@[simp] theorem State.setLink_dram (k : Nat) (v : OLink) : (s.setLink k v).dram = s.dram := rfl
@[simp] theorem State.setLink_sram (k : Nat) (v : OLink) : (s.setLink k v).sram = s.sram := rfl
@[simp] theorem State.setLink_sramBad (k : Nat) (v : OLink) : (s.setLink k v).sramBad = s.sramBad := rfl
@[simp] theorem State.setLink_sides (k : Nat) (v : OLink) : (s.setLink k v).sides = s.sides := rfl
@[simp] theorem State.setLink_tables (k : Nat) (v : OLink) : (s.setLink k v).tables = s.tables := rfl
@[simp] theorem State.setLink_periods (k : Nat) (v : OLink) : (s.setLink k v).periods = s.periods := rfl
@[simp] theorem State.setLink_slices (k : Nat) (v : OLink) : (s.setLink k v).slices = s.slices := rfl
@[simp] theorem State.setLink_schedules (k : Nat) (v : OLink) : (s.setLink k v).schedules = s.schedules := rfl
@[simp] theorem State.setLink_stallLog (k : Nat) (v : OLink) : (s.setLink k v).stallLog = s.stallLog := rfl
@[simp] theorem State.setLink_vReq (k : Nat) (v : OLink) : (s.setLink k v).vReq = s.vReq := rfl
@[simp] theorem State.setLink_vResp (k : Nat) (v : OLink) : (s.setLink k v).vResp = s.vResp := rfl
@[simp] theorem State.setLink_vTurn (k : Nat) (v : OLink) : (s.setLink k v).vTurn = s.vTurn := rfl
@[simp] theorem State.setLink_ctx (k : Nat) (v : OLink) : (s.setLink k v).ctx = s.ctx := rfl
@[simp] theorem State.setLink_cx (k : Nat) (v : OLink) : (s.setLink k v).cx = s.cx := rfl
@[simp] theorem State.setLink_sync (k : Nat) (v : OLink) : (s.setLink k v).sync = s.sync := rfl
@[simp] theorem State.setLink_px (k : Nat) (v : OLink) : (s.setLink k v).px = s.px := rfl
@[simp] theorem State.setLink_sec (k : Nat) (v : OLink) : (s.setLink k v).sec = s.sec := rfl
@[simp] theorem State.setLink_pw (k : Nat) (v : OLink) : (s.setLink k v).pw = s.pw := rfl
@[simp] theorem State.setLink_rs (k : Nat) (v : OLink) : (s.setLink k v).rs = s.rs := rfl
@[simp] theorem State.setLink_proof (k : Nat) (v : OLink) : (s.setLink k v).proof = s.proof := rfl
@[simp] theorem State.setLink_freeCount (k : Nat) (v : OLink) : (s.setLink k v).freeCount = s.freeCount := rfl
@[simp] theorem State.setLink_out (k : Nat) (v : OLink) : (s.setLink k v).out = s.out := rfl
@[simp] theorem State.setPx_pending (p : Nat) (v : PxPort) : (s.setPx p v).pending = s.pending := rfl
@[simp] theorem State.setPx_clock (p : Nat) (v : PxPort) : (s.setPx p v).clock = s.clock := rfl
@[simp] theorem State.setPx_resetAt (p : Nat) (v : PxPort) : (s.setPx p v).resetAt = s.resetAt := rfl
@[simp] theorem State.setPx_powerOnAt (p : Nat) (v : PxPort) : (s.setPx p v).powerOnAt = s.powerOnAt := rfl
@[simp] theorem State.setPx_level (p : Nat) (v : PxPort) : (s.setPx p v).level = s.level := rfl
@[simp] theorem State.setPx_level0 (p : Nat) (v : PxPort) : (s.setPx p v).level0 = s.level0 := rfl
@[simp] theorem State.setPx_level1At (p : Nat) (v : PxPort) : (s.setPx p v).level1At = s.level1At := rfl
@[simp] theorem State.setPx_regs (p : Nat) (v : PxPort) : (s.setPx p v).regs = s.regs := rfl
@[simp] theorem State.setPx_cores (p : Nat) (v : PxPort) : (s.setPx p v).cores = s.cores := rfl
@[simp] theorem State.setPx_l2 (p : Nat) (v : PxPort) : (s.setPx p v).l2 = s.l2 := rfl
@[simp] theorem State.setPx_mx (p : Nat) (v : PxPort) : (s.setPx p v).mx = s.mx := rfl
@[simp] theorem State.setPx_vx (p : Nat) (v : PxPort) : (s.setPx p v).vx = s.vx := rfl
@[simp] theorem State.setPx_sp (p : Nat) (v : PxPort) : (s.setPx p v).sp = s.sp := rfl
@[simp] theorem State.setPx_dm (p : Nat) (v : PxPort) : (s.setPx p v).dm = s.dm := rfl
@[simp] theorem State.setPx_dram (p : Nat) (v : PxPort) : (s.setPx p v).dram = s.dram := rfl
@[simp] theorem State.setPx_sram (p : Nat) (v : PxPort) : (s.setPx p v).sram = s.sram := rfl
@[simp] theorem State.setPx_sramBad (p : Nat) (v : PxPort) : (s.setPx p v).sramBad = s.sramBad := rfl
@[simp] theorem State.setPx_sides (p : Nat) (v : PxPort) : (s.setPx p v).sides = s.sides := rfl
@[simp] theorem State.setPx_tables (p : Nat) (v : PxPort) : (s.setPx p v).tables = s.tables := rfl
@[simp] theorem State.setPx_periods (p : Nat) (v : PxPort) : (s.setPx p v).periods = s.periods := rfl
@[simp] theorem State.setPx_slices (p : Nat) (v : PxPort) : (s.setPx p v).slices = s.slices := rfl
@[simp] theorem State.setPx_schedules (p : Nat) (v : PxPort) : (s.setPx p v).schedules = s.schedules := rfl
@[simp] theorem State.setPx_stallLog (p : Nat) (v : PxPort) : (s.setPx p v).stallLog = s.stallLog := rfl
@[simp] theorem State.setPx_vReq (p : Nat) (v : PxPort) : (s.setPx p v).vReq = s.vReq := rfl
@[simp] theorem State.setPx_vResp (p : Nat) (v : PxPort) : (s.setPx p v).vResp = s.vResp := rfl
@[simp] theorem State.setPx_vTurn (p : Nat) (v : PxPort) : (s.setPx p v).vTurn = s.vTurn := rfl
@[simp] theorem State.setPx_ctx (p : Nat) (v : PxPort) : (s.setPx p v).ctx = s.ctx := rfl
@[simp] theorem State.setPx_cx (p : Nat) (v : PxPort) : (s.setPx p v).cx = s.cx := rfl
@[simp] theorem State.setPx_sync (p : Nat) (v : PxPort) : (s.setPx p v).sync = s.sync := rfl
@[simp] theorem State.setPx_ol (p : Nat) (v : PxPort) : (s.setPx p v).ol = s.ol := rfl
@[simp] theorem State.setPx_sec (p : Nat) (v : PxPort) : (s.setPx p v).sec = s.sec := rfl
@[simp] theorem State.setPx_pw (p : Nat) (v : PxPort) : (s.setPx p v).pw = s.pw := rfl
@[simp] theorem State.setPx_rs (p : Nat) (v : PxPort) : (s.setPx p v).rs = s.rs := rfl
@[simp] theorem State.setPx_proof (p : Nat) (v : PxPort) : (s.setPx p v).proof = s.proof := rfl
@[simp] theorem State.setPx_freeCount (p : Nat) (v : PxPort) : (s.setPx p v).freeCount = s.freeCount := rfl
@[simp] theorem State.setPx_out (p : Nat) (v : PxPort) : (s.setPx p v).out = s.out := rfl
@[simp] theorem State.setCtr_sync_xlat (p : Nat) (v : Counter) : (s.setCtr p v).sync.xlat = s.sync.xlat := rfl
@[simp] theorem State.setCtr_sync_xlatGlb (p : Nat) (v : Counter) : (s.setCtr p v).sync.xlatGlb = s.sync.xlatGlb := rfl
@[simp] theorem State.setCtr_sync_bars (p : Nat) (v : Counter) : (s.setCtr p v).sync.bars = s.sync.bars := rfl
@[simp] theorem State.setCtr_sync_sigs (p : Nat) (v : Counter) : (s.setCtr p v).sync.sigs = s.sync.sigs := rfl
@[simp] theorem State.setCtr_sync_regs (p : Nat) (v : Counter) : (s.setCtr p v).sync.regs = s.sync.regs := rfl
@[simp] theorem State.setCtr_sync_wakes (p : Nat) (v : Counter) : (s.setCtr p v).sync.wakes = s.sync.wakes := rfl
@[simp] theorem State.setCtr_sync_notices (p : Nat) (v : Counter) : (s.setCtr p v).sync.notices = s.sync.notices := rfl
@[simp] theorem State.setCtr_sync_parked (p : Nat) (v : Counter) : (s.setCtr p v).sync.parked = s.sync.parked := rfl
@[simp] theorem State.setCtr_sync_dieArrivals (p : Nat) (v : Counter) :
    (s.setCtr p v).sync.dieArrivals = s.sync.dieArrivals := rfl
@[simp] theorem State.setBar_sync_counters (b : Nat) (v : Barrier) :
    (s.setBar b v).sync.counters = s.sync.counters := rfl
@[simp] theorem State.setBar_sync_xlat (b : Nat) (v : Barrier) : (s.setBar b v).sync.xlat = s.sync.xlat := rfl
@[simp] theorem State.setBar_sync_xlatGlb (b : Nat) (v : Barrier) : (s.setBar b v).sync.xlatGlb = s.sync.xlatGlb := rfl
@[simp] theorem State.setBar_sync_sigs (b : Nat) (v : Barrier) : (s.setBar b v).sync.sigs = s.sync.sigs := rfl
@[simp] theorem State.setBar_sync_regs (b : Nat) (v : Barrier) : (s.setBar b v).sync.regs = s.sync.regs := rfl
@[simp] theorem State.setBar_sync_wakes (b : Nat) (v : Barrier) : (s.setBar b v).sync.wakes = s.sync.wakes := rfl
@[simp] theorem State.setBar_sync_notices (b : Nat) (v : Barrier) : (s.setBar b v).sync.notices = s.sync.notices := rfl
@[simp] theorem State.setBar_sync_parked (b : Nat) (v : Barrier) : (s.setBar b v).sync.parked = s.sync.parked := rfl
@[simp] theorem State.setBar_sync_dieArrivals (b : Nat) (v : Barrier) :
    (s.setBar b v).sync.dieArrivals = s.sync.dieArrivals := rfl
@[simp] theorem State.setPort_ol_links (m : Nat) (v : OPort) : (s.setPort m v).ol.links = s.ol.links := rfl
@[simp] theorem State.setPort_ol_cur (m : Nat) (v : OPort) : (s.setPort m v).ol.cur = s.ol.cur := rfl
@[simp] theorem State.setPort_ol_next (m : Nat) (v : OPort) : (s.setPort m v).ol.next = s.ol.next := rfl
@[simp] theorem State.setPort_ol_prev (m : Nat) (v : OPort) : (s.setPort m v).ol.prev = s.ol.prev := rfl
@[simp] theorem State.setPort_ol_epoch (m : Nat) (v : OPort) : (s.setPort m v).ol.epoch = s.ol.epoch := rfl
@[simp] theorem State.setPort_ol_armed (m : Nat) (v : OPort) : (s.setPort m v).ol.armed = s.ol.armed := rfl
@[simp] theorem State.setPort_ol_draining (m : Nat) (v : OPort) : (s.setPort m v).ol.draining = s.ol.draining := rfl
@[simp] theorem State.setPort_ol_drainAt (m : Nat) (v : OPort) : (s.setPort m v).ol.drainAt = s.ol.drainAt := rfl
@[simp] theorem State.setPort_ol_hub (m : Nat) (v : OPort) : (s.setPort m v).ol.hub = s.ol.hub := rfl
@[simp] theorem State.setPort_ol_domain (m : Nat) (v : OPort) : (s.setPort m v).ol.domain = s.ol.domain := rfl
@[simp] theorem State.setPort_ol_adopted (m : Nat) (v : OPort) : (s.setPort m v).ol.adopted = s.ol.adopted := rfl
@[simp] theorem State.setPort_ol_mapped (m : Nat) (v : OPort) : (s.setPort m v).ol.mapped = s.ol.mapped := rfl
@[simp] theorem State.setPort_ol_devId (m : Nat) (v : OPort) : (s.setPort m v).ol.devId = s.ol.devId := rfl
@[simp] theorem State.setPort_ol_coord (m : Nat) (v : OPort) : (s.setPort m v).ol.coord = s.ol.coord := rfl
@[simp] theorem State.setPort_ol_workingFailed (m : Nat) (v : OPort) :
    (s.setPort m v).ol.workingFailed = s.ol.workingFailed := rfl
@[simp] theorem State.setPort_ol_spareFailed (m : Nat) (v : OPort) :
    (s.setPort m v).ol.spareFailed = s.ol.spareFailed := rfl
@[simp] theorem State.setLink_ol_ports (k : Nat) (v : OLink) : (s.setLink k v).ol.ports = s.ol.ports := rfl
@[simp] theorem State.setLink_ol_cur (k : Nat) (v : OLink) : (s.setLink k v).ol.cur = s.ol.cur := rfl
@[simp] theorem State.setLink_ol_next (k : Nat) (v : OLink) : (s.setLink k v).ol.next = s.ol.next := rfl
@[simp] theorem State.setLink_ol_prev (k : Nat) (v : OLink) : (s.setLink k v).ol.prev = s.ol.prev := rfl
@[simp] theorem State.setLink_ol_epoch (k : Nat) (v : OLink) : (s.setLink k v).ol.epoch = s.ol.epoch := rfl
@[simp] theorem State.setLink_ol_armed (k : Nat) (v : OLink) : (s.setLink k v).ol.armed = s.ol.armed := rfl
@[simp] theorem State.setLink_ol_draining (k : Nat) (v : OLink) : (s.setLink k v).ol.draining = s.ol.draining := rfl
@[simp] theorem State.setLink_ol_drainAt (k : Nat) (v : OLink) : (s.setLink k v).ol.drainAt = s.ol.drainAt := rfl
@[simp] theorem State.setLink_ol_hub (k : Nat) (v : OLink) : (s.setLink k v).ol.hub = s.ol.hub := rfl
@[simp] theorem State.setLink_ol_domain (k : Nat) (v : OLink) : (s.setLink k v).ol.domain = s.ol.domain := rfl
@[simp] theorem State.setLink_ol_adopted (k : Nat) (v : OLink) : (s.setLink k v).ol.adopted = s.ol.adopted := rfl
@[simp] theorem State.setLink_ol_mapped (k : Nat) (v : OLink) : (s.setLink k v).ol.mapped = s.ol.mapped := rfl
@[simp] theorem State.setLink_ol_devId (k : Nat) (v : OLink) : (s.setLink k v).ol.devId = s.ol.devId := rfl
@[simp] theorem State.setLink_ol_coord (k : Nat) (v : OLink) : (s.setLink k v).ol.coord = s.ol.coord := rfl
@[simp] theorem State.setLink_ol_workingFailed (k : Nat) (v : OLink) :
    (s.setLink k v).ol.workingFailed = s.ol.workingFailed := rfl
@[simp] theorem State.setLink_ol_spareFailed (k : Nat) (v : OLink) :
    (s.setLink k v).ol.spareFailed = s.ol.spareFailed := rfl
@[simp] theorem State.emit_out (e : Emission) : (s.emit e).out = e :: s.out := rfl

end Sys2Proof.Machine
end

