-- ==== Sys2Proof/Laws/Keeps.lean ====
section
/-! SUPPORT. What no operation of the block does: it leaves the queue and the clock alone and keeps the invariant. The
relation, its rules, and the operations on single fields and units. -/

namespace Sys2Proof.Machine

/-- From s to t the queue and the clock are the same, and the invariant is kept. -/
structure Keeps (s t : State) : Prop where
  pending : t.pending = s.pending
  clock   : t.clock = s.clock
  inv     : s.Inv → t.Inv

theorem Keeps.refl (s : State) : Keeps s s := ⟨rfl, rfl, id⟩

theorem Keeps.trans {r s t : State} (h : Keeps r s) (k : Keeps s t) : Keeps r t :=
  ⟨k.pending.trans h.pending, k.clock.trans h.clock, fun i => k.inv (h.inv i)⟩

/-- A change of fields that the invariant does not name. -/
theorem Keeps.same {r s t : State} (h : Keeps r s) (h1 : t.pending = s.pending) (h2 : t.clock = s.clock)
    (h3 : t.resetAt = s.resetAt) (h4 : t.powerOnAt = s.powerOnAt) (h5 : t.level = s.level) (h6 : t.cores = s.cores)
    (h7 : t.dram = s.dram) (h8 : t.sram = s.sram) (h9 : t.sp = s.sp) (h10 : t.sync.counters = s.sync.counters) :
    Keeps r t := by
  refine h.trans ⟨h1, h2, fun i => ?_⟩
  have hc : t.core = s.core := funext fun c => by simp only [State.core, h6]
  have hs : t.spOf = s.spOf := funext fun c => by simp only [State.spOf, h9]
  have hp : t.ctr = s.ctr := funext fun c => by simp only [State.ctr, h10]
  constructor
  · rw [hc]; exact i.cores
  · rw [h7]; exact i.dram
  · rw [h8]; exact i.sram
  · rw [hs]; exact i.sp
  · rw [hp]; exact i.counters
  · rw [h5]; exact i.level
  · rw [h4, h3]; exact i.resets
  · rw [h3, h2]; exact i.now

/-- A record update of fields that the invariant does not name. -/
theorem Keeps.upd {r s : State} {level0 : Bool} {level1At : Nat} {regs : SMap Word} {l2 : Cache} {mx : SMap Mx} {vx : SMap Vx} {dm : SMap Dm}
    {sramBad : SMap Bool} {sides : SMap Side} {tables : SMap Word} {periods : SMap Nat} {slices : SMap Slice}
    {schedules : SMap Word} {stallLog : List Word} {vReq : List Msg} {vResp : List Msg} {vTurn : SMap Nat} {ctx : SMap CtxRec} {cx :
    CxEngine} {sync : Sync} {ol : Ol} {px : SMap PxPort} {sec : Sec} {pw : Pw} {rs : Rs} {proof : List (List Byte)}
    {freeCount : Nat} {out : List Emission}
    (h : Keeps r s) (hs : sync.counters = s.sync.counters) :
    Keeps r (State.mk s.pending s.clock s.resetAt s.powerOnAt s.level level0 level1At regs s.cores l2 mx vx s.sp dm s.dram s.sram
      sramBad sides tables periods slices schedules stallLog vReq vResp vTurn ctx cx sync ol px sec pw rs proof freeCount
      out) :=
  h.same rfl rfl rfl rfl rfl rfl rfl rfl rfl hs

/-! ### Chains, folds and matches -/

theorem Keeps.fold {α : Type} {r s : State} {g : State → α → State} {l : List α} (h : Keeps r s)
    (hg : ∀ t a, Keeps r t → Keeps r (g t a)) : Keeps r (l.foldl g s) := by
  induction l generalizing s with
  | nil => exact h
  | cons a l ih => exact ih (hg _ _ h)

theorem Keeps.fold2 {α β : Type} {r : State} {p : β × State} {g : β × State → α → β × State} {l : List α}
    (h : Keeps r p.2) (hg : ∀ q a, Keeps r q.2 → Keeps r (g q a).2) : Keeps r (l.foldl g p).2 := by
  induction l generalizing p with
  | nil => exact h
  | cons a l ih => exact ih (hg _ _ h)

theorem Keeps.fold3 {α β γ : Type} {r : State} {p : β × γ × State} {g : β × γ × State → α → β × γ × State} {l : List α}
    (h : Keeps r p.2.2) (hg : ∀ q a, Keeps r q.2.2 → Keeps r (g q a).2.2) : Keeps r (l.foldl g p).2.2 := by
  induction l generalizing p with
  | nil => exact h
  | cons a l ih => exact ih (hg _ _ h)

theorem Keeps.snd {β : Type} {r t : State} {p : β × State} {a : β} (e : p = (a, t)) (h : Keeps r p.2) : Keeps r t := by
  rw [e] at h; exact h

theorem Keeps.trd {β γ : Type} {r t : State} {p : β × γ × State} {a : β} {b : γ} (e : p = (a, b, t))
    (h : Keeps r p.2.2) : Keeps r t := by rw [e] at h; exact h

theorem Keeps.fourth {β γ δ : Type} {r t : State} {p : β × γ × δ × State} {a : β} {b : γ} {c : δ} (e : p = (a, b, c, t))
    (h : Keeps r p.2.2.2) : Keeps r t := by rw [e] at h; exact h

theorem Keeps.fold5 {α β γ δ ε : Type} {r : State} {p : β × γ × δ × ε × State}
    {g : β × γ × δ × ε × State → α → β × γ × δ × ε × State} {l : List α}
    (h : Keeps r p.2.2.2.2) (hg : ∀ q a, Keeps r q.2.2.2.2 → Keeps r (g q a).2.2.2.2) :
    Keeps r (l.foldl g p).2.2.2.2 := by
  induction l generalizing p with
  | nil => exact h
  | cons a l ih => exact ih (hg _ _ h)

theorem Keeps.fifth {β γ δ ε : Type} {r t : State} {p : β × γ × δ × ε × State} {a : β} {b : γ} {c : δ} {d : ε}
    (e : p = (a, b, c, d, t)) (h : Keeps r p.2.2.2.2) : Keeps r t := by rw [e] at h; exact h

theorem Keeps.fst {β : Type} {r t : State} {p : State × β} {a : β} (e : p = (t, a)) (h : Keeps r p.1) : Keeps r t := by
  rw [e] at h; exact h

theorem Keeps.ite {r a b : State} {c : Prop} [Decidable c] (ha : c → Keeps r a) (hb : ¬c → Keeps r b) :
    Keeps r (if c then a else b) := by split <;> simp_all

/-- What an optional state keeps: every state it answers. -/
def KeepsOpt (r : State) (o : Option State) : Prop := ∀ t, o = some t → Keeps r t

theorem KeepsOpt.none (r : State) : KeepsOpt r none := fun _ h => nomatch h
theorem KeepsOpt.some {r s : State} (h : Keeps r s) : KeepsOpt r (some s) := fun _ e => by cases e; exact h
theorem KeepsOpt.of {r t : State} {o : Option State} (e : o = .some t) (h : KeepsOpt r o) : Keeps r t := h t e
theorem KeepsOpt.bind {r : State} {o : Option State} {f : State → Option State} (h : KeepsOpt r o)
    (hf : ∀ t, Keeps r t → KeepsOpt r (f t)) : KeepsOpt r (o.bind f) := by
  cases o with
  | none => exact KeepsOpt.none r
  | some s => exact hf s (h s rfl)
theorem KeepsOpt.map {α : Type} {r : State} {o : Option α} {f : α → State} (hf : ∀ a, Keeps r (f a)) :
    KeepsOpt r (o.map f) := by
  cases o with
  | none => exact KeepsOpt.none r
  | some a => exact KeepsOpt.some (hf a)
theorem KeepsOpt.mapState {r : State} {o : Option State} {f : State → State} (h : KeepsOpt r o)
    (hf : ∀ t, Keeps r t → Keeps r (f t)) : KeepsOpt r (o.map f) := by
  cases o with
  | none => exact KeepsOpt.none r
  | some s => exact KeepsOpt.some (hf s (h s rfl))
theorem KeepsOpt.getD {r s : State} {o : Option State} (h : KeepsOpt r o) (hs : Keeps r s) : Keeps r (o.getD s) := by
  cases o with
  | none => exact hs
  | some t => exact h t rfl

/-- What an outcome keeps: the next state it answers. -/
def KeepsOut (r : State) (o : Host.Outcome State Fault Refusal) : Prop := ∀ t, o = .next t → Keeps r t

theorem KeepsOut.next {r s : State} (h : Keeps r s) : KeepsOut r (.next s) := fun _ e => by cases e; exact h

/-- What a try to issue keeps. -/
def KeepsIssue (r : State) : Issue → Prop
  | .wait => True
  | .done t => Keeps r t
  | .fault t => Keeps r t

theorem KeepsIssue.wait (r : State) : KeepsIssue r .wait := trivial
theorem KeepsIssue.done {r t : State} (h : Keeps r t) : KeepsIssue r (.done t) := h
theorem KeepsIssue.fault {r t : State} (h : Keeps r t) : KeepsIssue r (.fault t) := h
theorem KeepsIssue.of_done {r t : State} {i : Issue} (e : i = .done t) (h : KeepsIssue r i) : Keeps r t := by
  subst e; exact h
theorem KeepsIssue.of_fault {r t : State} {i : Issue} (e : i = .fault t) (h : KeepsIssue r i) : Keeps r t := by
  subst e; exact h
theorem Issue.state_keeps {r s : State} {i : Issue} (h : Keeps r s) (hi : KeepsIssue r i) : Keeps r (i.state s) := by
  cases i with
  | wait => exact h
  | done t => exact hi
  | fault t => exact hi

/-- What the end of an instruction keeps. -/
def KeepsFlow (r : State) : Flow → Prop
  | .done t => Keeps r t
  | .wait => True
  | .hold t => Keeps r t
  | .exc _ t => Keeps r t

theorem KeepsFlow.done {r t : State} (h : Keeps r t) : KeepsFlow r (.done t) := h
theorem KeepsFlow.wait (r : State) : KeepsFlow r .wait := trivial
theorem KeepsFlow.hold {r t : State} (h : Keeps r t) : KeepsFlow r (.hold t) := h
theorem KeepsFlow.exc {r t : State} {e : Exc} (h : Keeps r t) : KeepsFlow r (.exc e t) := h

/-- What the end of a load keeps. -/
def KeepsLoaded (r : State) : Loaded → Prop
  | .ok _ t => Keeps r t
  | .wait => True
  | .hold t => Keeps r t
  | .exc _ t => Keeps r t

theorem KeepsLoaded.ok {r t : State} {ws : List Half} (h : Keeps r t) : KeepsLoaded r (.ok ws t) := h
theorem KeepsLoaded.wait (r : State) : KeepsLoaded r .wait := trivial
theorem KeepsLoaded.hold {r t : State} (h : Keeps r t) : KeepsLoaded r (.hold t) := h
theorem KeepsLoaded.exc {r t : State} {e : Exc} (h : Keeps r t) : KeepsLoaded r (.exc e t) := h
theorem KeepsLoaded.of_ok {r t : State} {l : Loaded} {ws : List Half} (e : l = .ok ws t) (h : KeepsLoaded r l) :
    Keeps r t := by subst e; exact h
theorem KeepsLoaded.of_hold {r t : State} {l : Loaded} (e : l = .hold t) (h : KeepsLoaded r l) : Keeps r t := by
  subst e; exact h
theorem KeepsLoaded.of_exc {r t : State} {l : Loaded} {x : Exc} (e : l = .exc x t) (h : KeepsLoaded r l) :
    Keeps r t := by subst e; exact h

/-- What the beginning of an instruction keeps. -/
def KeepsBegin (r : State) : Begin → Prop
  | .stop t => Keeps r t
  | .go t => Keeps r t

theorem KeepsBegin.stop {r t : State} (h : Keeps r t) : KeepsBegin r (.stop t) := h
theorem KeepsBegin.go {r t : State} (h : Keeps r t) : KeepsBegin r (.go t) := h
theorem KeepsBegin.of_stop {r t : State} {b : Begin} (e : b = .stop t) (h : KeepsBegin r b) : Keeps r t := by
  subst e; exact h
theorem KeepsBegin.of_go {r t : State} {b : Begin} (e : b = .go t) (h : KeepsBegin r b) : Keeps r t := by
  subst e; exact h

/-! ### Single fields and units -/

variable {r s : State}

theorem State.setReg_keeps {q : RegId} {u n v : Nat} (h : Keeps r s) : Keeps r (s.setReg q u n v) :=
  h.same rfl rfl rfl rfl rfl rfl rfl rfl rfl rfl
theorem State.setFld_keeps {f : Field} {v u n : Nat} (h : Keeps r s) : Keeps r (s.setFld f v u n) := State.setReg_keeps h
theorem State.setFlag_keeps {f : Field} {v : Bool} {u n : Nat} (h : Keeps r s) : Keeps r (s.setFlag f v u n) :=
  State.setReg_keeps h
theorem State.count_keeps {f : Field} {u n d : Nat} (h : Keeps r s) : Keeps r (s.count f u n d) := State.setReg_keeps h
theorem State.emit_keeps {e : Emission} (h : Keeps r s) : Keeps r (s.emit e) :=
  h.same rfl rfl rfl rfl rfl rfl rfl rfl rfl rfl
theorem State.setMx_keeps {k : Nat} {v : Mx} (h : Keeps r s) : Keeps r (s.setMx k v) :=
  h.same rfl rfl rfl rfl rfl rfl rfl rfl rfl rfl
theorem State.modMx_keeps {k : Nat} {f : Mx → Mx} (h : Keeps r s) : Keeps r (s.modMx k f) := State.setMx_keeps h
theorem State.setVx_keeps {k : Nat} {v : Vx} (h : Keeps r s) : Keeps r (s.setVx k v) :=
  h.same rfl rfl rfl rfl rfl rfl rfl rfl rfl rfl
theorem State.modVx_keeps {k : Nat} {f : Vx → Vx} (h : Keeps r s) : Keeps r (s.modVx k f) := State.setVx_keeps h
theorem State.setDm_keeps {k : Nat} {v : Dm} (h : Keeps r s) : Keeps r (s.setDm k v) :=
  h.same rfl rfl rfl rfl rfl rfl rfl rfl rfl rfl
theorem State.modDm_keeps {k : Nat} {f : Dm → Dm} (h : Keeps r s) : Keeps r (s.modDm k f) := State.setDm_keeps h
theorem State.setChan_keeps {k ch : Nat} {v : Chan} (h : Keeps r s) : Keeps r (s.setChan k ch v) := State.setDm_keeps h
theorem State.modChan_keeps {k ch : Nat} {f : Chan → Chan} (h : Keeps r s) : Keeps r (s.modChan k ch f) :=
  State.setDm_keeps h
theorem State.setSlice_keeps {n : Nat} {v : Slice} (h : Keeps r s) : Keeps r (s.setSlice n v) :=
  h.same rfl rfl rfl rfl rfl rfl rfl rfl rfl rfl
theorem State.modSlice_keeps {n : Nat} {f : Slice → Slice} (h : Keeps r s) : Keeps r (s.modSlice n f) :=
  State.setSlice_keeps h
theorem State.setRec_keeps {x : Nat} {v : CtxRec} (h : Keeps r s) : Keeps r (s.setRec x v) :=
  h.same rfl rfl rfl rfl rfl rfl rfl rfl rfl rfl
theorem State.modRec_keeps {x : Nat} {f : CtxRec → CtxRec} (h : Keeps r s) : Keeps r (s.modRec x f) :=
  State.setRec_keeps h
theorem State.setBar_keeps {b : Nat} {v : Barrier} (h : Keeps r s) : Keeps r (s.setBar b v) :=
  h.same rfl rfl rfl rfl rfl rfl rfl rfl rfl rfl
theorem State.setPort_keeps {m : Nat} {v : OPort} (h : Keeps r s) : Keeps r (s.setPort m v) :=
  h.same rfl rfl rfl rfl rfl rfl rfl rfl rfl rfl
theorem State.modPort_keeps {m : Nat} {f : OPort → OPort} (h : Keeps r s) : Keeps r (s.modPort m f) :=
  State.setPort_keeps h
theorem State.setLink_keeps {k : Nat} {v : OLink} (h : Keeps r s) : Keeps r (s.setLink k v) :=
  h.same rfl rfl rfl rfl rfl rfl rfl rfl rfl rfl
theorem State.modLink_keeps {k : Nat} {f : OLink → OLink} (h : Keeps r s) : Keeps r (s.modLink k f) :=
  State.setLink_keeps h
theorem State.setPx_keeps {p : Nat} {v : PxPort} (h : Keeps r s) : Keeps r (s.setPx p v) :=
  h.same rfl rfl rfl rfl rfl rfl rfl rfl rfl rfl
theorem State.modPx_keeps {p : Nat} {f : PxPort → PxPort} (h : Keeps r s) : Keeps r (s.modPx p f) := State.setPx_keeps h

theorem Keeps.dram {m : SMap Byte} (h : Keeps r s) (hm : Memory.wf s.dram → Memory.wf m) :
    Keeps r { s with dram := m } :=
  h.trans ⟨rfl, rfl, fun i => ⟨i.cores, hm i.dram, i.sram, i.sp, i.counters, i.level, i.resets, i.now⟩⟩

theorem Keeps.sram {m : SMap Byte} {b : SMap Bool} (h : Keeps r s) (hm : Memory.wf s.sram → Memory.wf m) :
    Keeps r { s with sram := m, sramBad := b } :=
  h.trans ⟨rfl, rfl, fun i => ⟨i.cores, i.dram, hm i.sram, i.sp, i.counters, i.level, i.resets, i.now⟩⟩

theorem State.setCore_keeps {c : Nat} {v : Core} (h : Keeps r s) (hv : s.Inv → CoreOk v) : Keeps r (s.setCore c v) := by
  refine h.trans ⟨rfl, rfl, fun i => ?_⟩
  refine ⟨fun j => ?_, i.dram, i.sram, i.sp, i.counters, i.level, i.resets, i.now⟩
  by_cases e : j = c
  · subst e; rw [State.core_setCore_self]; exact hv i
  · rw [State.core_setCore_ne _ _ _ _ e]; exact i.cores j

theorem State.modCore_keeps {c : Nat} {f : Core → Core} (h : Keeps r s)
    (hf : CoreOk (s.core c) → CoreOk (f (s.core c))) : Keeps r (s.modCore c f) :=
  State.setCore_keeps h fun i => hf (i.cores c)

/-- A change of fields of a core that its invariant does not name. -/
theorem CoreOk.same {x y : Core} (h : CoreOk x) (h1 : y.st = x.st) (h2 : y.vbase = x.vbase) (h3 : y.tsr = x.tsr)
    (h4 : y.ttbase = x.ttbase) (h5 : y.syncctx = x.syncctx) (h6 : y.tlb = x.tlb) (h7 : y.stores = x.stores) :
    CoreOk y :=
  ⟨h1 ▸ h.st, h2 ▸ h.vbase, h3 ▸ h.tsr, h4 ▸ h.ttbase, h5 ▸ h.sync, h6 ▸ h.tlb, h7 ▸ h.stores⟩

/-- A new TLB of no more entries than it may have. -/
theorem CoreOk.withTlb {x : Core} (h : CoreOk x) {l : List TlbEntry} (hl : l.length ≤ 64) : CoreOk { x with tlb := l } :=
  ⟨h.st, h.vbase, h.tsr, h.ttbase, h.sync, hl, h.stores⟩

/-- An entry that is found moves to the front. -/
theorem CoreOk.front {x : Core} (h : CoreOk x) {p : Nat} {e : TlbEntry} (he : x.tlb.find? (·.page == p) = some e) :
    CoreOk { x with tlb := e :: x.tlb.filter (·.page != p) } := by
  refine h.withTlb ?_
  have hm := List.mem_of_find?_eq_some he
  have hp : (e.page == p) = true := by simpa using List.find?_some he
  have : (x.tlb.filter (·.page != p)).length < x.tlb.length := by
    refine List.length_filter_lt_length_iff_exists.2 ⟨e, hm, ?_⟩
    simp only [bne, hp]; decide
  have := h.tlb
  simp only [List.length_cons]; omega

theorem CoreOk.filterTlb {x : Core} (h : CoreOk x) (q : TlbEntry → Bool) : CoreOk { x with tlb := x.tlb.filter q } :=
  h.withTlb (Nat.le_trans (List.length_filter_le _ _) h.tlb)

theorem CoreOk.noTlb {x : Core} (h : CoreOk x) : CoreOk { x with tlb := [] } := h.withTlb (Nat.zero_le _)

/-- A new store buffer of no more entries than it may have. -/
theorem CoreOk.withStores {x : Core} (h : CoreOk x) {l : List StoreEntry} (hl : l.length ≤ 8) :
    CoreOk { x with stores := l } := ⟨h.st, h.vbase, h.tsr, h.ttbase, h.sync, h.tlb, hl⟩

theorem CoreOk.mapStores {x : Core} (h : CoreOk x) (f : StoreEntry → StoreEntry) :
    CoreOk { x with stores := x.stores.map f } := h.withStores (by rw [List.length_map]; exact h.stores)

theorem State.setSp_keeps {k : Nat} {v : Sp} (h : Keeps r s) (hv : Memory.wf (s.spOf k).mem → Memory.wf v.mem) :
    Keeps r (s.setSp k v) := by
  refine h.trans ⟨rfl, rfl, fun i => ?_⟩
  refine ⟨i.cores, i.dram, i.sram, fun j => ?_, i.counters, i.level, i.resets, i.now⟩
  by_cases e : j = k
  · subst e; rw [State.spOf_setSp_self]; exact hv (i.sp j)
  · rw [State.spOf_setSp_ne _ _ _ _ e]; exact i.sp j

theorem State.modSp_keeps {k : Nat} {f : Sp → Sp} (h : Keeps r s)
    (hf : Memory.wf (s.spOf k).mem → Memory.wf (f (s.spOf k)).mem) : Keeps r (s.modSp k f) := State.setSp_keeps h hf

theorem State.setAp_keeps {k n : Nat} {v : Aperture} (h : Keeps r s) : Keeps r (s.setAp k n v) :=
  State.modSp_keeps h id

theorem State.setCtr_keeps {p : Nat} {v : Counter} (h : Keeps r s)
    (hv : (s.ctr p).count ≤ maxCount → v.count ≤ maxCount) : Keeps r (s.setCtr p v) := by
  refine h.trans ⟨rfl, rfl, fun i => ?_⟩
  refine ⟨i.cores, i.dram, i.sram, i.sp, fun j => ?_, i.level, i.resets, i.now⟩
  by_cases e : j = p
  · subst e; rw [State.ctr_setCtr_self]; exact hv (i.counters j)
  · rw [State.ctr_setCtr_ne _ _ _ _ e]; exact i.counters j

/-- What holds of a core after reset. -/
theorem CoreOk.reset : CoreOk {} := ⟨by decide, by decide, by decide, by decide, by decide, by decide, by decide⟩

theorem clearLow_low (n v : Nat) (hn : n ≤ 48) : (clearLow n v).toNat % 2 ^ n = 0 := by
  rw [clearLow, BitVec.toNat_ofNat, Nat.mod_mod_of_dvd _ (Nat.pow_dvd_pow 2 hn)]
  exact Nat.mul_mod_left _ _

theorem stWith_reserved (st : Half) (ring mask : Nat) : (stWith st ring mask).toNat / 16 % 128 = 0 := by
  rw [stWith, BitVec.toNat_ofNat]; omega

theorem into_reserved (f : Nzcv) (st : Half) (h : st.toNat / 16 % 128 = 0) : (f.into st).toNat / 16 % 128 = 0 := by
  have hw : f.word ≤ 15 := by unfold Nzcv.word; split <;> split <;> split <;> split <;> decide
  have := st.isLt
  rw [Nzcv.into, BitVec.toNat_ofNat]; omega

theorem syncctx_reserved (w : Half) : (w &&& 0x8FFF).toNat / 4096 % 8 = 0 := by
  have h : (w &&& 0x8FFF).toNat / 4096 % 8 = w.toNat / 4096 % 8 &&& 0x8FFF / 4096 % 8 := by
    rw [BitVec.toNat_and]
    have e (x : Nat) : x / 4096 % 8 = x >>> 12 % 2 ^ 3 := by omega
    rw [e, e, e, Nat.shiftRight_and_distrib, Nat.and_mod_two_pow]
    rfl
  rw [h]; exact Nat.and_zero _

/-- New system registers, with the bits that read 0 clear. -/
theorem CoreOk.withVbase {x : Core} (h : CoreOk x) (v : Nat) : CoreOk { x with vbase := clearLow 8 v } :=
  ⟨h.st, clearLow_low 8 v (by decide), h.tsr, h.ttbase, h.sync, h.tlb, h.stores⟩
theorem CoreOk.withTsr {x : Core} (h : CoreOk x) (v : Nat) : CoreOk { x with tsr := clearLow 6 v } :=
  ⟨h.st, h.vbase, clearLow_low 6 v (by decide), h.ttbase, h.sync, h.tlb, h.stores⟩
theorem CoreOk.withTtbase {x : Core} (h : CoreOk x) (v : Nat) : CoreOk { x with ttbase := clearLow 15 v } :=
  ⟨h.st, h.vbase, h.tsr, clearLow_low 15 v (by decide), h.sync, h.tlb, h.stores⟩
theorem CoreOk.withSync {x : Core} (h : CoreOk x) (w : Half) : CoreOk { x with syncctx := w &&& 0x8FFF } :=
  ⟨h.st, h.vbase, h.tsr, h.ttbase, syncctx_reserved w, h.tlb, h.stores⟩

/-- A reset: cores, scratchpads and counters are new; DRAM and SRAM are kept or cleared. -/
theorem Keeps.fresh {t : State} (h : Keeps r s) (h1 : t.pending = s.pending) (h2 : t.clock = s.clock)
    (ht : s.Inv → t.powerOnAt ≤ t.resetAt ∧ t.resetAt ≤ t.clock) (hl : s.Inv → t.level ≤ 3) (hc : t.cores = [])
    (hp : t.sp = []) (hn : t.sync.counters = []) (hd : t.dram = s.dram ∨ t.dram = [])
    (hs : t.sram = s.sram ∨ t.sram = []) : Keeps r t := by
  refine h.trans ⟨h1, h2, fun i => ?_⟩
  refine ⟨fun c => ?_, ?_, ?_, fun k => ?_, fun p => ?_, hl i, (ht i).1, (ht i).2⟩
  · rw [State.core, hc]; exact CoreOk.reset
  · rcases hd with e | e <;> rw [e]
    · exact i.dram
    · rfl
  · rcases hs with e | e <;> rw [e]
    · exact i.sram
    · rfl
  · rw [State.spOf, hp]; rfl
  · rw [State.ctr, hn]; exact Nat.zero_le _

end Sys2Proof.Machine
end

