-- ==== Sys2Proof/Laws/KeepsBase.lean ====
section
/-! SUPPORT. The operations of Machine/Base.lean leave the queue and the clock alone and keep the invariant. -/

namespace Sys2Proof.Machine

variable {r s : State}

theorem State.drawByte_keeps  (h : Keeps r s) : Keeps r (State.drawByte s).2 := by
  delta State.drawByte
  repeat' with_reducible first
    | assumption | (apply Keeps.snd; assumption) | (apply Keeps.trd; assumption) | intro _ | split | extract_lets
    | apply Keeps.upd | rfl

theorem State.drawBytes_keeps {n : Nat} (h : Keeps r s) : Keeps r (State.drawBytes s n).2 := by
  delta State.drawBytes
  repeat' with_reducible first
    | assumption | (apply Keeps.snd; assumption) | (apply Keeps.trd; assumption) | intro _ | split | extract_lets
    | apply Keeps.upd | rfl

theorem State.drawNat_keeps  (h : Keeps r s) : Keeps r (State.drawNat s).2 := by
  delta State.drawNat
  repeat' with_reducible first
    | assumption | (apply Keeps.snd; assumption) | (apply Keeps.trd; assumption) | intro _ | split | extract_lets
    | apply Keeps.upd | rfl

theorem State.raise_keeps {c : Nat} {vec : Nat} {src : Nat} {cause : Nat} {fa : Addr} (h : Keeps r s) :
    Keeps r (State.raise s c vec src cause fa) := by
  delta State.raise
  repeat' with_reducible first
    | assumption | apply State.modCore_keeps | (apply CoreOk.same <;> first | assumption | rfl) | apply Keeps.ite
    | intro _ | split | extract_lets

theorem State.deviceEvent_keeps {k : Nat} (h : Keeps r s) : Keeps r (State.deviceEvent s k) := by
  delta State.deviceEvent
  repeat' with_reducible first
    | assumption | apply State.raise_keeps | apply Keeps.fold | apply Keeps.fold2 | apply Keeps.fold3
    | apply Keeps.ite | intro _ | split | extract_lets

theorem State.toHub_keeps {m : Msg} (h : Keeps r s) : Keeps r (State.toHub s m) := by
  delta State.toHub
  repeat' with_reducible first
    | assumption | intro _ | split | extract_lets | apply Keeps.upd | rfl

theorem State.countLane_keeps {sl : Nat} {lane : Nat} (h : Keeps r s) : Keeps r (State.countLane s sl lane) := by
  delta State.countLane
  repeat' with_reducible first
    | assumption | apply State.deviceEvent_keeps | apply State.setFlag_keeps | apply State.setFld_keeps
    | apply State.setReg_keeps | apply State.setSlice_keeps | apply Keeps.ite | intro _ | split | extract_lets

theorem State.laneErrors_keeps {sl : Nat} (h : Keeps r s) : Keeps r (State.laneErrors s sl).2 := by
  delta State.laneErrors
  repeat' with_reducible first
    | assumption | apply Keeps.fold | apply Keeps.fold2 | apply Keeps.fold3 | (apply Keeps.snd; assumption)
    | (apply Keeps.trd; assumption) | apply Keeps.ite | intro _ | split | extract_lets | apply Keeps.upd | rfl

theorem State.readUnit_keeps {sl : Nat} {u : Nat} (h : Keeps r s) : Keeps r (State.readUnit s sl u).2 := by
  delta State.readUnit
  repeat' with_reducible first
    | assumption | apply State.count_keeps | apply State.countLane_keeps | apply State.deviceEvent_keeps
    | apply State.laneErrors_keeps | apply State.setFlag_keeps | apply State.setFld_keeps | apply State.setReg_keeps
    | apply Keeps.fold | apply Keeps.fold2 | apply Keeps.fold3 | (apply Keeps.snd; assumption)
    | (apply Keeps.trd; assumption) | apply Keeps.ite | intro _ | split | extract_lets

theorem State.dramMiscorrect_keeps {u : Nat} {off : List (Nat × Nat)} (h : Keeps r s) :
    Keeps r (State.dramMiscorrect s u off) := by
  delta State.dramMiscorrect
  repeat' with_reducible first
    | assumption | apply Keeps.fold | apply Keeps.fold2 | apply Keeps.fold3 | (apply Keeps.snd; assumption) | intro _
    | split | extract_lets | apply Keeps.dram | apply putBytes_wf

theorem State.dramRead_keeps {a : Nat} {n : Nat} (h : Keeps r s) : Keeps r (State.dramRead s a n).2 := by
  delta State.dramRead
  repeat' with_reducible first
    | assumption | apply State.dramMiscorrect_keeps | apply State.readUnit_keeps | apply Keeps.fold
    | apply Keeps.fold2 | apply Keeps.fold3 | apply KeepsOpt.bind | apply KeepsOpt.map | (apply Keeps.snd; assumption)
    | (apply Keeps.trd; assumption) | apply Keeps.ite | intro _ | split | extract_lets | apply Keeps.upd | rfl

theorem State.cleanUnit_keeps {sl : Nat} {u : Nat} (h : Keeps r s) : Keeps r (State.cleanUnit s sl u) := by
  delta State.cleanUnit
  repeat' with_reducible first
    | assumption | apply State.modSlice_keeps | (apply Keeps.snd; assumption) | intro _ | split | extract_lets

theorem State.poisonUnit_keeps {sl : Nat} {u : Nat} (h : Keeps r s) : Keeps r (State.poisonUnit s sl u) := by
  delta State.poisonUnit
  repeat' with_reducible first
    | assumption | apply State.modSlice_keeps | (apply Keeps.snd; assumption) | intro _ | split | extract_lets

theorem State.endWindow_keeps {sl : Nat} {u : Nat} (h : Keeps r s) : Keeps r (State.endWindow s sl u) := by
  delta State.endWindow
  repeat' with_reducible first
    | assumption | apply State.modSlice_keeps | intro _ | split | extract_lets

theorem State.dramWrite_keeps {a : Nat} {data : List Byte} {be : List Bool} (h : Keeps r s) :
    Keeps r (State.dramWrite s a data be).2 := by
  delta State.dramWrite
  repeat' with_reducible first
    | assumption | apply State.cleanUnit_keeps | apply State.dramMiscorrect_keeps | apply State.endWindow_keeps
    | apply State.poisonUnit_keeps | apply State.readUnit_keeps | apply Keeps.fold | apply Keeps.fold2
    | apply Keeps.fold3 | (apply Keeps.snd; assumption) | (apply Keeps.trd; assumption) | apply Keeps.ite | intro _
    | split | extract_lets | apply putEnabled_wf | apply Keeps.dram

theorem State.sramWrite_keeps {o : Nat} {data : List Byte} {be : List Bool} (h : Keeps r s) :
    Keeps r (State.sramWrite s o data be).2 := by
  delta State.sramWrite
  repeat' with_reducible first
    | assumption | apply Keeps.fold | apply Keeps.fold2 | apply Keeps.fold3 | (apply Keeps.snd; assumption)
    | (apply Keeps.trd; assumption) | apply Keeps.ite | intro _ | split | extract_lets | apply putBytes_wf
    | apply Keeps.sram

end Sys2Proof.Machine
end

