-- ==== Sys2Proof/Laws/KeepsScratchpad.lean ====
section
/-! SUPPORT. The operations of Machine/Scratchpad.lean leave the queue and the clock alone and keep the invariant. -/

namespace Sys2Proof.Machine

variable {r s : State}

theorem State.setCode_keeps {k : Nat} {g : Nat} {c : GranuleCode} (h : Keeps r s) :
    Keeps r (State.setCode s k g c) := by
  delta State.setCode
  repeat' with_reducible first
    | assumption | apply State.modSp_keeps | intro _ | split | extract_lets

theorem State.noteCorrected_keeps {k : Nat} {g : Nat} (h : Keeps r s) : Keeps r (State.noteCorrected s k g) := by
  delta State.noteCorrected
  repeat' with_reducible first
    | assumption | apply State.count_keeps | apply State.setReg_keeps | intro _ | split | extract_lets

theorem State.noteUncorrectable_keeps {k : Nat} {g : Nat} (h : Keeps r s) :
    Keeps r (State.noteUncorrectable s k g) := by
  delta State.noteUncorrectable
  repeat' with_reducible first
    | assumption | apply State.count_keeps | apply State.setReg_keeps | intro _ | split | extract_lets

theorem State.spFault_keeps {k : Nat} {cause : Nat} {ap : Nat} {slot : Nat} {row : Nat} (h : Keeps r s) :
    Keeps r (State.spFault s k cause ap slot row) := by
  delta State.spFault
  repeat' with_reducible first
    | assumption | apply State.setReg_keeps | intro _ | split | extract_lets

theorem State.spRead_keeps {k : Nat} {o : Nat} {n : Nat} (h : Keeps r s) : Keeps r (State.spRead s k o n).2.2 := by
  delta State.spRead
  repeat' with_reducible first
    | assumption | apply State.modSp_keeps | apply State.noteCorrected_keeps | apply State.noteUncorrectable_keeps
    | apply Keeps.fold | apply Keeps.fold2 | apply Keeps.fold3 | exact KeepsOpt.none _ | apply KeepsOpt.some
    | (apply Keeps.snd; assumption) | (apply Keeps.trd; assumption) | apply Keeps.ite | intro _ | split | extract_lets

theorem State.poisonHit_keeps {k : Nat} {g : Nat} (h : Keeps r s) : Keeps r (State.poisonHit s k g) := by
  delta State.poisonHit
  repeat' with_reducible first
    | assumption | apply State.noteUncorrectable_keeps | apply State.raise_keeps | apply State.spFault_keeps | intro _
    | split | extract_lets

theorem State.spWriteGranule_keeps {k : Nat} {g : Nat} {new : List Byte} {be : List Bool} (h : Keeps r s) :
    Keeps r (State.spWriteGranule s k g new be) := by
  delta State.spWriteGranule
  repeat' with_reducible first
    | assumption | apply State.modSp_keeps | apply State.noteCorrected_keeps | apply State.poisonHit_keeps
    | (apply Keeps.snd; assumption) | apply putBytes_wf | apply Keeps.ite | intro _ | split | extract_lets

theorem State.spWrite_keeps {k : Nat} {o : Nat} {data : List Byte} {be : List Bool} (h : Keeps r s) :
    Keeps r (State.spWrite s k o data be) := by
  delta State.spWrite
  repeat' with_reducible first
    | assumption | apply State.spWriteGranule_keeps | apply Keeps.fold | apply Keeps.fold2 | apply Keeps.fold3
    | apply Keeps.ite | intro _ | split | extract_lets

theorem State.spStore_keeps {k : Nat} {o : Nat} {data : List Byte} (h : Keeps r s) :
    Keeps r (State.spStore s k o data) := by
  delta State.spStore
  repeat' with_reducible first
    | assumption | apply State.spWrite_keeps | apply Keeps.ite | intro _ | split | extract_lets

theorem State.spPoison_keeps {k : Nat} {o : Nat} {n : Nat} (h : Keeps r s) : Keeps r (State.spPoison s k o n) := by
  delta State.spPoison
  repeat' with_reducible first
    | assumption | apply State.setCode_keeps | apply Keeps.fold | apply Keeps.fold2 | apply Keeps.fold3 | intro _
    | split | extract_lets

theorem State.spAccumulate_keeps {k : Nat} {o : Nat} {data : List Byte} {op : Nat} (h : Keeps r s) :
    Keeps r (State.spAccumulate s k o data op) := by
  delta State.spAccumulate
  repeat' with_reducible first
    | assumption | apply State.modSp_keeps | apply State.noteCorrected_keeps | apply State.poisonHit_keeps
    | apply State.setFlag_keeps | apply Keeps.fold | apply Keeps.fold2 | apply Keeps.fold3
    | (apply Keeps.snd; assumption) | apply putBytes_wf | apply Keeps.ite | intro _ | split | extract_lets

theorem State.sbAdd_keeps {k : Nat} {e : SbEntry} (h : Keeps r s) : Keeps r (State.sbAdd s k e) := by
  delta State.sbAdd
  repeat' with_reducible first
    | assumption | apply State.modSp_keeps | intro _ | split | extract_lets

theorem State.sbRelease_keeps {k : Nat} {o : SbOwner} (h : Keeps r s) : Keeps r (State.sbRelease s k o) := by
  delta State.sbRelease
  repeat' with_reducible first
    | assumption | apply State.modSp_keeps | intro _ | split | extract_lets

theorem State.apOpen_keeps {k : Nat} {n : Nat} (h : Keeps r s) : Keeps r (State.apOpen s k n).2 := by
  delta State.apOpen
  repeat' with_reducible first
    | assumption | apply State.setAp_keeps | apply State.setFlag_keeps | (apply Keeps.snd; assumption)
    | (apply Keeps.trd; assumption) | apply Keeps.ite | intro _ | split | extract_lets

theorem State.noteRefused_keeps {k : Nat} {o : Nat} {reason : Nat} {dev : Nat} {req : Nat} (h : Keeps r s) :
    Keeps r (State.noteRefused s k o reason dev req) := by
  delta State.noteRefused
  repeat' with_reducible first
    | assumption | apply State.count_keeps | apply State.setReg_keeps | intro _ | split | extract_lets

theorem State.landWrite_keeps {k : Nat} {o : Nat} {m : Msg} (h : Keeps r s) : Keeps r (State.landWrite s k o m) := by
  delta State.landWrite
  repeat' with_reducible first
    | assumption | apply State.spPoison_keeps | apply State.spWrite_keeps | apply Keeps.ite | intro _ | split
    | extract_lets

theorem State.acceptWrite_keeps {k : Nat} {o : Nat} {n : Nat} {m : Msg} (h : Keeps r s) :
    Keeps r (State.acceptWrite s k o n m) := by
  delta State.acceptWrite
  repeat' with_reducible first
    | assumption | apply State.landWrite_keeps | apply State.setAp_keeps | apply State.spAccumulate_keeps
    | (apply Keeps.snd; assumption) | apply Keeps.ite | intro _ | split | extract_lets

theorem State.arriveWrite_keeps {k : Nat} {o : Nat} {m : Msg} (h : Keeps r s) :
    Keeps r (State.arriveWrite s k o m).2 := by
  delta State.arriveWrite
  repeat' with_reducible first
    | assumption | apply State.acceptWrite_keeps | apply State.noteRefused_keeps | (apply Keeps.snd; assumption)
    | (apply Keeps.trd; assumption) | apply Keeps.ite | intro _ | split | extract_lets

theorem State.arriveRead_keeps {k : Nat} {o : Nat} {len : Nat} {dev : Nat} {req : Nat} (h : Keeps r s) :
    Keeps r (State.arriveRead s k o len dev req).2.2 := by
  delta State.arriveRead
  repeat' with_reducible first
    | assumption | apply State.noteRefused_keeps | apply State.spRead_keeps | (apply Keeps.snd; assumption)
    | (apply Keeps.trd; assumption) | apply Keeps.ite | intro _ | split | extract_lets

theorem State.drainHeld_keeps {k : Nat} (h : Keeps r s) : Keeps r (State.drainHeld s k).2 := by
  delta State.drainHeld
  repeat' with_reducible first
    | assumption | apply State.acceptWrite_keeps | apply State.modSp_keeps | apply Keeps.fold | apply Keeps.fold2
    | apply Keeps.fold3 | (apply Keeps.snd; assumption) | (apply Keeps.trd; assumption) | apply Keeps.ite | intro _
    | split | extract_lets

theorem State.releaseSlot_keeps {k : Nat} {n : Nat} {sl : Nat} (h : Keeps r s) :
    Keeps r (State.releaseSlot s k n sl) := by
  delta State.releaseSlot
  repeat' with_reducible first
    | assumption | apply State.setAp_keeps | apply State.setFlag_keeps | apply Keeps.ite | intro _ | split
    | extract_lets

theorem State.applyRelease_keeps {k : Nat} {q : ReleaseReq} (h : Keeps r s) :
    Keeps r (State.applyRelease s k q).2 := by
  delta State.applyRelease
  repeat' with_reducible first
    | assumption | apply State.drainHeld_keeps | apply State.releaseSlot_keeps | apply Keeps.fold | apply Keeps.fold2
    | apply Keeps.fold3 | (apply Keeps.trd; assumption) | intro _ | split | extract_lets

theorem State.askRelease_keeps {k : Nat} {v : Nat} (h : Keeps r s) : Keeps r (State.askRelease s k v) := by
  delta State.askRelease
  repeat' with_reducible first
    | assumption | apply State.modSp_keeps | apply State.setFlag_keeps | apply Keeps.ite | intro _ | split
    | extract_lets

theorem State.writeApCtrl_keeps {k : Nat} {n : Nat} {v : Nat} (h : Keeps r s) :
    Keeps r (State.writeApCtrl s k n v) := by
  delta State.writeApCtrl
  repeat' with_reducible first
    | assumption | apply State.apOpen_keeps | apply State.setAp_keeps | apply State.setFlag_keeps
    | apply State.setReg_keeps | (apply Keeps.snd; assumption) | apply Keeps.ite | intro _ | split | extract_lets

end Sys2Proof.Machine
end

