-- ==== Sys2Proof/Laws/KeepsTranslate.lean ====
section
/-! SUPPORT. The operations of Machine/Translate.lean leave the queue and the clock alone and keep the invariant. -/

namespace Sys2Proof.Machine

variable {r s : State}

theorem State.memRead_keeps {c : Nat} {a : Nat} {n : Nat} (h : Keeps r s) : Keeps r (State.memRead s c a n).2 := by
  delta State.memRead
  repeat' with_reducible first
    | assumption | apply State.arriveRead_keeps | apply State.dramRead_keeps | apply State.spRead_keeps
    | (apply Keeps.snd; assumption) | (apply Keeps.trd; assumption) | apply Keeps.ite | intro _ | split | extract_lets

theorem State.walkEntries_keeps {c : Nat} {page : Nat} (h : Keeps r s) : Keeps r (State.walkEntries s c page).2 := by
  delta State.walkEntries
  repeat' with_reducible first
    | assumption | apply State.memRead_keeps | (apply Keeps.snd; assumption) | (apply Keeps.trd; assumption) | intro _
    | split | extract_lets

theorem State.walk_keeps {c : Nat} {page : Nat} {kind : AccessKind} {ring : Nat} (h : Keeps r s) :
    Keeps r (State.walk s c page kind ring).2 := by
  delta State.walk
  repeat' with_reducible first
    | assumption | apply State.count_keeps | apply State.modCore_keeps | apply State.walkEntries_keeps
    | (apply Keeps.snd; assumption) | (apply Keeps.trd; assumption) | (apply CoreOk.same <;> first | assumption | rfl)
    | apply Keeps.ite | intro _ | split | extract_lets | exact CoreOk.withTlb ‹_› (List.length_take_le _ _)

theorem State.translate_keeps {c : Nat} {va : Addr} {kind : AccessKind} {ring : Nat} (h : Keeps r s) :
    Keeps r (State.translate s c va kind ring).2 := by
  delta State.translate
  repeat' with_reducible first
    | assumption | apply State.modCore_keeps | apply State.walk_keeps | (apply Keeps.snd; assumption)
    | (apply Keeps.trd; assumption) | (apply CoreOk.same <;> first | assumption | rfl) | apply Keeps.ite | intro _
    | split | extract_lets | exact CoreOk.front ‹_› ‹_›

theorem State.translateAll_keeps {c : Nat} {vas : List Addr} {kind : AccessKind} {ring : Nat} (h : Keeps r s) :
    Keeps r (State.translateAll s c vas kind ring).2.2 := by
  delta State.translateAll
  repeat' with_reducible first
    | assumption | apply State.translate_keeps | apply Keeps.fold | apply Keeps.fold2 | apply Keeps.fold3
    | (apply Keeps.snd; assumption) | (apply Keeps.trd; assumption) | intro _ | split | extract_lets
    | apply Keeps.fold3

theorem State.flushTlb_keeps {c : Nat} (h : Keeps r s) : Keeps r (State.flushTlb s c) := by
  delta State.flushTlb
  repeat' with_reducible first
    | assumption | apply State.modCore_keeps | (apply CoreOk.same <;> first | assumption | rfl) | apply Keeps.ite
    | intro _ | split | extract_lets | exact CoreOk.noTlb ‹_›

theorem State.flushPage_keeps {c : Nat} {page : Nat} (h : Keeps r s) : Keeps r (State.flushPage s c page) := by
  delta State.flushPage
  repeat' with_reducible first
    | assumption | apply State.modCore_keeps | (apply CoreOk.same <;> first | assumption | rfl) | apply Keeps.ite
    | intro _ | split | extract_lets | exact CoreOk.filterTlb ‹_› _

end Sys2Proof.Machine
end

