-- ==== Sys2Proof/Laws/KeepsEngine.lean ====
section
/-! SUPPORT. The operations of Machine/Engine.lean leave the queue and the clock alone and keep the invariant. -/

namespace Sys2Proof.Machine

variable {r s : State}

theorem State.pageIs_keeps {k : Nat} {p : Nat} {kind : AccessKind} {ring : Nat} (h : Keeps r s) :
    Keeps r (State.pageIs s k p kind ring).2 := by
  delta State.pageIs
  repeat' with_reducible first
    | assumption | apply State.translate_keeps | exact KeepsOpt.none _ | apply KeepsOpt.some
    | (apply Keeps.snd; assumption) | (apply Keeps.trd; assumption) | apply Keeps.ite | intro _ | split | extract_lets

theorem State.pageTable_keeps {k : Nat} {pages : List Nat} {kind : AccessKind} {ring : Nat} (h : Keeps r s) :
    Keeps r (State.pageTable s k pages kind ring).2 := by
  delta State.pageTable
  repeat' with_reducible first
    | assumption | apply State.pageIs_keeps | apply Keeps.fold | apply Keeps.fold2 | apply Keeps.fold3
    | exact KeepsOpt.none _ | apply KeepsOpt.some | (apply Keeps.snd; assumption) | (apply Keeps.trd; assumption)
    | intro _ | split | extract_lets

theorem State.readSpan_keeps {k : Nat} {pt : List (Nat × PageIs)} {v : Nat} {n : Nat} (h : Keeps r s) :
    Keeps r (State.readSpan s k pt v n).2.2 := by
  delta State.readSpan
  repeat' with_reducible first
    | assumption | apply State.spRead_keeps | apply Keeps.fold | apply Keeps.fold2 | apply Keeps.fold3
    | (apply Keeps.snd; assumption) | (apply Keeps.trd; assumption) | intro _ | split | extract_lets

theorem State.writeSpan_keeps {k : Nat} {pt : List (Nat × PageIs)} {v : Nat} {data : List Byte} (h : Keeps r s) :
    Keeps r (State.writeSpan s k pt v data).2 := by
  delta State.writeSpan
  repeat' with_reducible first
    | assumption | apply State.spStore_keeps | apply Keeps.fold | apply Keeps.fold2 | apply Keeps.fold3
    | (apply Keeps.snd; assumption) | (apply Keeps.trd; assumption) | intro _ | split | extract_lets

theorem State.writeWhole_keeps {k : Nat} {pt : List (Nat × PageIs)} {v : Nat} {data : List Byte} (h : Keeps r s) :
    Keeps r (State.writeWhole s k pt v data).2 := by
  delta State.writeWhole
  repeat' with_reducible first
    | assumption | apply State.writeSpan_keeps | (apply Keeps.snd; assumption) | (apply Keeps.trd; assumption)
    | apply Keeps.ite | intro _ | split | extract_lets

theorem State.engineSpFault_keeps {k : Nat} {src : Nat} {cause : Nat} {ap : Nat} {slot : Nat} {row : Nat} {fa : Addr} (h : Keeps r s) :
    Keeps r (State.engineSpFault s k src cause ap slot row fa) := by
  delta State.engineSpFault
  repeat' with_reducible first
    | assumption | apply State.raise_keeps | apply State.spFault_keeps | intro _ | split | extract_lets

end Sys2Proof.Machine
end

