-- ==== Sys2Proof/Laws/KeepsMsix.lean ====
section
/-! SUPPORT. The operations of Machine/Msix.lean leave the queue and the clock alone and keep the invariant. -/

namespace Sys2Proof.Machine

variable {r s : State}

theorem State.setMsixDw_keeps {p : Nat} {f : Nat} {i : Nat} {v : Nat} (h : Keeps r s) :
    Keeps r (State.setMsixDw s p f i v) := by
  delta State.setMsixDw
  repeat' with_reducible first
    | assumption | apply State.modPx_keeps | apply Keeps.ite | intro _ | split | extract_lets

theorem State.sendVector_keeps {p : Nat} {f : Nat} {vec : Nat} (h : Keeps r s) :
    Keeps r (State.sendVector s p f vec) := by
  delta State.sendVector
  repeat' with_reducible first
    | assumption | apply State.modPx_keeps | intro _ | split | extract_lets

theorem State.raiseVector_keeps {p : Nat} {f : Nat} {vec : Nat} (h : Keeps r s) :
    Keeps r (State.raiseVector s p f vec) := by
  delta State.raiseVector
  repeat' with_reducible first
    | assumption | apply State.modPx_keeps | apply State.sendVector_keeps | apply Keeps.ite | intro _ | split
    | extract_lets

theorem State.sendPending_keeps {p : Nat} {f : Nat} (h : Keeps r s) : Keeps r (State.sendPending s p f) := by
  delta State.sendPending
  repeat' with_reducible first
    | assumption | apply State.sendVector_keeps | apply Keeps.fold | apply Keeps.fold2 | apply Keeps.fold3
    | (apply Keeps.snd; assumption) | apply Keeps.ite | intro _ | split | extract_lets

theorem State.hostEvent_keeps {p : Nat} {f : Field} (h : Keeps r s) : Keeps r (State.hostEvent s p f) := by
  delta State.hostEvent
  repeat' with_reducible first
    | assumption | apply State.raiseVector_keeps | apply State.setFlag_keeps | apply Keeps.ite | intro _ | split
    | extract_lets

theorem State.hostEvents_keeps {f : Field} (h : Keeps r s) : Keeps r (State.hostEvents s f) := by
  delta State.hostEvents
  repeat' with_reducible first
    | assumption | apply State.hostEvent_keeps | intro _ | split | extract_lets

end Sys2Proof.Machine
end

