-- ==== Sys2Proof/Laws/KeepsAer.lean ====
section
/-! SUPPORT. The operations of Machine/Aer.lean leave the queue and the clock alone and keep the invariant. -/

namespace Sys2Proof.Machine

variable {r s : State}

theorem State.portDrains_keeps {p : Nat} (h : Keeps r s) : Keeps r (State.portDrains s p) := by
  delta State.portDrains
  repeat' with_reducible first
    | assumption | apply State.emit_keeps | apply State.setPx_keeps | apply Keeps.fold | apply Keeps.fold2
    | apply Keeps.fold3 | (apply Keeps.snd; assumption) | apply Keeps.ite | intro _ | split | extract_lets

theorem State.leaves_keeps {p : Nat} {e : Emission} (h : Keeps r s) : Keeps r (State.leaves s p e) := by
  delta State.leaves
  repeat' with_reducible first
    | assumption | apply State.emit_keeps | apply State.portDrains_keeps | intro _ | split | extract_lets

theorem State.complete_keeps {p : Nat} {f : Nat} {d : List Byte} {poison : Bool} (h : Keeps r s) :
    Keeps r (State.complete s p f d poison) := by
  delta State.complete
  repeat' with_reducible first
    | assumption | apply State.leaves_keeps | intro _ | split | extract_lets

theorem State.aerError_keeps {p : Nat} {f : Nat} {e : Nat} {advisory : Bool} (h : Keeps r s) :
    Keeps r (State.aerError s p f e advisory) := by
  delta State.aerError
  repeat' with_reducible first
    | assumption | apply State.emit_keeps | apply State.leaves_keeps | apply State.modPx_keeps
    | (apply Keeps.snd; assumption) | apply Keeps.ite | intro _ | split | extract_lets | apply Keeps.upd | rfl

theorem State.badReq_keeps {p : Nat} {f : Nat} {completes : Bool} (h : Keeps r s) :
    Keeps r (State.badReq s p f completes) := by
  delta State.badReq
  repeat' with_reducible first
    | assumption | apply State.aerError_keeps | apply State.count_keeps | intro _ | split | extract_lets

theorem State.badRead_keeps {p : Nat} {f : Nat} (h : Keeps r s) : Keeps r (State.badRead s p f) := by
  delta State.badRead
  repeat' with_reducible first
    | assumption | apply State.badReq_keeps | apply State.leaves_keeps | intro _ | split | extract_lets

end Sys2Proof.Machine
end

