-- ==== Sys2Proof/Laws/KeepsPlaneV.lean ====
section
/-! SUPPORT. The operations of Machine/PlaneV.lean leave the queue and the clock alone and keep the invariant. -/

namespace Sys2Proof.Machine

variable {r s : State}

theorem State.setClass_keeps {resp : Bool} {l : List Msg} (h : Keeps r s) : Keeps r (State.setClass s resp l) := by
  delta State.setClass
  repeat' with_reducible first
    | assumption | apply Keeps.ite | intro _ | split | extract_lets | apply Keeps.upd | rfl

theorem State.vHop_keeps {resp : Bool} {i : Nat} (h : Keeps r s) : Keeps r (State.vHop s resp i).2.2 := by
  delta State.vHop
  repeat' with_reducible first
    | assumption | apply State.setClass_keeps | (apply Keeps.snd; assumption) | (apply Keeps.trd; assumption)
    | apply Keeps.ite | intro _ | split | extract_lets | apply Keeps.upd | rfl

theorem State.vMove_keeps {resp : Bool} {i : Nat} {x3 : Nat} (h : Keeps r s) :
    Keeps r (State.vMove s resp i x3).2 := by
  induction x3 generalizing s i with
  | zero =>
    dsimp only [State.vMove]
    repeat' with_reducible first
      | assumption | apply State.vHop_keeps | apply Keeps.fold | apply Keeps.fold2 | apply Keeps.fold3
      | (apply Keeps.snd; assumption) | (apply Keeps.trd; assumption) | (apply KeepsOpt.of; assumption)
      | apply Keeps.ite | intro _ | split | extract_lets
  | succ n ih =>
    dsimp only [State.vMove]
    repeat' with_reducible first
      | assumption | apply ih | apply State.vHop_keeps | apply Keeps.fold | apply Keeps.fold2 | apply Keeps.fold3
      | (apply Keeps.snd; assumption) | (apply Keeps.trd; assumption) | (apply KeepsOpt.of; assumption)
      | apply Keeps.ite | intro _ | split | extract_lets

theorem State.vTravel_keeps {resp : Bool} {i : Nat} (h : Keeps r s) : Keeps r (State.vTravel s resp i).2 := by
  delta State.vTravel
  repeat' with_reducible first
    | assumption | apply State.vMove_keeps | exact KeepsOpt.none _ | apply KeepsOpt.some
    | (apply Keeps.snd; assumption) | (apply Keeps.trd; assumption) | apply Keeps.ite | intro _ | split | extract_lets

theorem State.sendV_keeps {m : Msg} (h : Keeps r s) : Keeps r (State.sendV s m) := by
  delta State.sendV
  repeat' with_reducible first
    | assumption | intro _ | split | extract_lets | apply Keeps.upd | rfl

theorem State.sendResp_keeps {m : Msg} (h : Keeps r s) : Keeps r (State.sendResp s m) := by
  delta State.sendResp
  repeat' with_reducible first
    | assumption | apply State.toHub_keeps | apply Keeps.ite | intro _ | split | extract_lets | apply Keeps.upd | rfl

theorem State.takeResp_keeps {i : Nat} (h : Keeps r s) : Keeps r (State.takeResp s i) := by
  delta State.takeResp
  repeat' with_reducible first
    | assumption | intro _ | split | extract_lets | apply Keeps.upd | rfl

theorem State.takeReq_keeps {i : Nat} (h : Keeps r s) : Keeps r (State.takeReq s i) := by
  delta State.takeReq
  repeat' with_reducible first
    | assumption | intro _ | split | extract_lets | apply Keeps.upd | rfl

end Sys2Proof.Machine
end

