-- ==== Sys2Proof/Laws/KeepsFabric.lean ====
section
/-! SUPPORT. The operations of Machine/Fabric.lean leave the queue and the clock alone and keep the invariant. -/

namespace Sys2Proof.Machine

variable {r s : State}

theorem State.ack_keeps {unit : Nat} {m : Msg} (h : Keeps r s) : Keeps r (State.ack s unit m) := by
  delta State.ack
  repeat' with_reducible first
    | assumption | apply State.sendResp_keeps | intro _ | split | extract_lets

theorem State.refuse_keeps {unit : Nat} {m : Msg} {reason : Nat} {error : Nat} (h : Keeps r s) :
    Keeps r (State.refuse s unit m reason error) := by
  delta State.refuse
  repeat' with_reducible first
    | assumption | apply State.sendResp_keeps | apply Keeps.ite | intro _ | split | extract_lets

theorem State.respond_keeps {unit : Nat} {m : Msg} {data : List Byte} {poison : Bool} (h : Keeps r s) :
    Keeps r (State.respond s unit m data poison) := by
  delta State.respond
  repeat' with_reducible first
    | assumption | apply State.sendResp_keeps | intro _ | split | extract_lets

theorem State.setSide_keeps {key : Nat} {x : Side} (h : Keeps r s) : Keeps r (State.setSide s key x) := by
  delta State.setSide
  repeat' with_reducible first
    | assumption | intro _ | split | extract_lets | apply Keeps.upd | rfl

theorem State.setCrossing_keeps {k : Nat} {p : Nat} {l : List Msg} (h : Keeps r s) :
    Keeps r (State.setCrossing s k p l) := by
  delta State.setCrossing
  repeat' with_reducible first
    | assumption | apply State.modDm_keeps | intro _ | split | extract_lets

theorem State.voidFill_keeps {k : Nat} {ch : Nat} {reads : Bool} (h : Keeps r s) :
    Keeps r (State.voidFill s k ch reads) := by
  delta State.voidFill
  repeat' with_reducible first
    | assumption | apply State.setSide_keeps | apply Keeps.fold | apply Keeps.fold2 | apply Keeps.fold3
    | apply KeepsOpt.getD | (apply Keeps.snd; assumption) | apply Keeps.ite | intro _ | split | extract_lets

theorem State.chanReads_keeps {k : Nat} {ch : Nat} (h : Keeps r s) : Keeps r (State.chanReads s k ch).2 := by
  delta State.chanReads
  repeat' with_reducible first
    | assumption | (apply Keeps.snd; assumption) | (apply Keeps.trd; assumption) | intro _ | split | extract_lets
    | apply Keeps.upd | rfl

theorem State.chanRelease_keeps {k : Nat} {ch : Nat} (h : Keeps r s) : Keeps r (State.chanRelease s k ch) := by
  delta State.chanRelease
  repeat' with_reducible first
    | assumption | apply State.sbRelease_keeps | (apply Keeps.snd; assumption) | apply Keeps.ite | intro _ | split
    | extract_lets

theorem State.dmaErr_keeps {k : Nat} {ch : Nat} {cause : Nat} {reason : Nat} {didx : Nat} {dev : Half} {addr : Nat} (h : Keeps r s) :
    Keeps r (State.dmaErr s k ch cause reason didx dev addr) := by
  delta State.dmaErr
  repeat' with_reducible first
    | assumption | apply State.setReg_keeps | intro _ | split | extract_lets

theorem State.dmaHalt_keeps {k : Nat} {ch : Nat} {cause : Nat} {reason : Nat} {didx : Nat} {dev : Half} {addr : Nat} (h : Keeps r s) :
    Keeps r (State.dmaHalt s k ch cause reason didx dev addr) := by
  delta State.dmaHalt
  repeat' with_reducible first
    | assumption | apply State.chanReads_keeps | apply State.chanRelease_keeps | apply State.dmaErr_keeps
    | apply State.modChan_keeps | apply State.raise_keeps | apply State.voidFill_keeps | (apply Keeps.snd; assumption)
    | apply Keeps.ite | intro _ | split | extract_lets

theorem State.recordStop_keeps {k : Nat} {ch : Nat} (h : Keeps r s) : Keeps r (State.recordStop s k ch) := by
  delta State.recordStop
  repeat' with_reducible first
    | assumption | apply State.setChan_keeps | apply State.setReg_keeps | intro _ | split | extract_lets

theorem State.poisonStop_keeps {k : Nat} {ch : Nat} {g : Nat} {v : Nat} (h : Keeps r s) :
    Keeps r (State.poisonStop s k ch g v) := by
  delta State.poisonStop
  repeat' with_reducible first
    | assumption | apply State.engineSpFault_keeps | apply State.modChan_keeps | apply State.modDm_keeps
    | apply State.recordStop_keeps | intro _ | split | extract_lets

theorem State.chanSettle_keeps {k : Nat} {ch : Nat} (h : Keeps r s) : Keeps r (State.chanSettle s k ch) := by
  delta State.chanSettle
  repeat' with_reducible first
    | assumption | apply State.chanRelease_keeps | apply State.dmaHalt_keeps | apply State.poisonStop_keeps
    | apply State.recordStop_keeps | (apply Keeps.snd; assumption) | apply Keeps.ite | intro _ | split | extract_lets

theorem State.issueBeats_keeps {k : Nat} {ch : Nat} {x3 : Nat} (h : Keeps r s) :
    Keeps r (State.issueBeats s k ch x3) := by
  induction x3 generalizing s with
  | zero =>
    dsimp only [State.issueBeats]
    repeat' with_reducible first
      | assumption | apply State.modChan_keeps | apply State.setCrossing_keeps | apply Keeps.fold | apply Keeps.fold2
      | apply Keeps.fold3 | (apply Keeps.snd; assumption) | (apply KeepsOpt.of; assumption) | apply Keeps.ite
      | intro _ | split | extract_lets
  | succ n ih =>
    dsimp only [State.issueBeats]
    repeat' with_reducible first
      | assumption | apply ih | apply State.modChan_keeps | apply State.setCrossing_keeps | apply Keeps.fold
      | apply Keeps.fold2 | apply Keeps.fold3 | (apply Keeps.snd; assumption) | (apply KeepsOpt.of; assumption)
      | apply Keeps.ite | intro _ | split | extract_lets

theorem State.chanIssue_keeps {k : Nat} {ch : Nat} (h : Keeps r s) : Keeps r (State.chanIssue s k ch) := by
  delta State.chanIssue
  repeat' with_reducible first
    | assumption | apply State.chanSettle_keeps | apply State.issueBeats_keeps | (apply Keeps.snd; assumption)
    | intro _ | split | extract_lets

theorem State.chanAck_keeps {m : Msg} (h : Keeps r s) : Keeps r (State.chanAck s m) := by
  delta State.chanAck
  repeat' with_reducible first
    | assumption | apply State.chanSettle_keeps | apply State.modChan_keeps | apply Keeps.ite | intro _ | split
    | extract_lets

theorem State.chanRefusal_keeps {m : Msg} (h : Keeps r s) : Keeps r (State.chanRefusal s m) := by
  delta State.chanRefusal
  repeat' with_reducible first
    | assumption | apply State.chanSettle_keeps | apply State.dmaHalt_keeps | apply State.setChan_keeps
    | (apply Keeps.snd; assumption) | apply Keeps.ite | intro _ | split | extract_lets

theorem State.streamAck_keeps {unit : Nat} {m : Msg} (h : Keeps r s) : Keeps r (State.streamAck s unit m) := by
  delta State.streamAck
  repeat' with_reducible first
    | assumption | apply State.sendResp_keeps | apply State.setChan_keeps | apply Keeps.ite | intro _ | split
    | extract_lets

theorem State.serveMemory_keeps {unit : Nat} {m : Msg} (h : Keeps r s) : KeepsOpt r (State.serveMemory s unit m) := by
  dsimp only [State.serveMemory]
  repeat' with_reducible first
    | assumption | apply State.ack_keeps | apply State.dramRead_keeps | apply State.dramWrite_keeps
    | apply State.refuse_keeps | apply State.respond_keeps | apply State.sramWrite_keeps | apply State.streamAck_keeps
    | exact KeepsOpt.none _ | apply KeepsOpt.some | (apply Keeps.snd; assumption) | apply Keeps.ite | intro _ | split
    | extract_lets

theorem State.endHostLoad_keeps {c : Nat} {d : Option (List Byte)} (h : Keeps r s) :
    Keeps r (State.endHostLoad s c d) := by
  delta State.endHostLoad
  repeat' with_reducible first
    | assumption | apply State.modCore_keeps | (apply CoreOk.same <;> first | assumption | rfl) | apply Keeps.ite
    | intro _ | split | extract_lets

theorem State.hostFails_keeps {p : Nat} {m : Msg} (h : Keeps r s) : Keeps r (State.hostFails s p m) := by
  delta State.hostFails
  repeat' with_reducible first
    | assumption | apply State.endHostLoad_keeps | apply State.refuse_keeps | apply Keeps.ite | intro _ | split
    | extract_lets

theorem State.hostAccept_keeps {a : Nat} {data : List Byte} (h : Keeps r s) :
    KeepsOpt r (State.hostAccept s a data) := by
  delta State.hostAccept
  repeat' with_reducible first
    | assumption | apply State.modPx_keeps | exact KeepsOpt.none _ | apply KeepsOpt.some | apply KeepsOpt.map
    | (apply Keeps.snd; assumption) | apply Keeps.ite | intro _ | split | extract_lets

theorem State.issueReads_keeps {p : Nat} {x2 : Nat} (h : Keeps r s) : Keeps r (State.issueReads s p x2) := by
  induction x2 generalizing s with
  | zero =>
    dsimp only [State.issueReads]
    repeat' with_reducible first
      | assumption | apply State.hostFails_keeps | apply State.leaves_keeps | apply State.setPx_keeps
      | apply Keeps.fold | apply Keeps.fold2 | apply Keeps.fold3 | (apply Keeps.snd; assumption)
      | (apply KeepsOpt.of; assumption) | apply Keeps.ite | intro _ | split | extract_lets
  | succ n ih =>
    dsimp only [State.issueReads]
    repeat' with_reducible first
      | assumption | apply ih | apply State.hostFails_keeps | apply State.leaves_keeps | apply State.setPx_keeps
      | apply Keeps.fold | apply Keeps.fold2 | apply Keeps.fold3 | (apply Keeps.snd; assumption)
      | (apply KeepsOpt.of; assumption) | apply Keeps.ite | intro _ | split | extract_lets

theorem State.portArrival_keeps {p : Nat} {m : Msg} (h : Keeps r s) : Keeps r (State.portArrival s p m) := by
  delta State.portArrival
  repeat' with_reducible first
    | assumption | apply State.issueReads_keeps | apply State.modPx_keeps | intro _ | split | extract_lets

theorem State.relayEnds_keeps {m : Msg} (h : Keeps r s) : Keeps r (State.relayEnds s m) := by
  delta State.relayEnds
  repeat' with_reducible first
    | assumption | apply State.modSlice_keeps | apply Keeps.ite | intro _ | split | extract_lets

theorem State.serveRequest_keeps {i : Nat} {m : Msg} (h : Keeps r s) : Keeps r (State.serveRequest s i m) := by
  delta State.serveRequest
  repeat' with_reducible first
    | assumption | apply State.modSp_keeps | apply State.portArrival_keeps | apply State.refuse_keeps
    | apply State.relayEnds_keeps | apply State.serveMemory_keeps | apply State.takeReq_keeps
    | apply State.toHub_keeps | apply KeepsOpt.getD | apply KeepsOpt.mapState | (apply Keeps.snd; assumption)
    | (apply KeepsOpt.of; assumption) | apply Keeps.ite | intro _ | split | extract_lets

theorem State.servicePacket_keeps {i : Nat} (h : Keeps r s) : Keeps r (State.servicePacket s i) := by
  delta State.servicePacket
  repeat' with_reducible first
    | assumption | apply State.serveRequest_keeps | apply State.vTravel_keeps | apply KeepsOpt.getD
    | (apply Keeps.snd; assumption) | apply Keeps.ite | intro _ | split | extract_lets

theorem execServicePacket_keeps {index : Nat} (h : Keeps r s) : KeepsOut r (execServicePacket index s) := by
  delta execServicePacket
  repeat' with_reducible first
    | assumption | apply State.servicePacket_keeps | apply KeepsOut.next | intro _ | split | extract_lets

theorem State.responseTravels_keeps {i : Nat} (h : Keeps r s) : Keeps r (State.responseTravels s i).2 := by
  delta State.responseTravels
  repeat' with_reducible first
    | assumption | apply State.takeResp_keeps | apply State.vTravel_keeps | (apply Keeps.snd; assumption)
    | (apply Keeps.trd; assumption) | intro _ | split | extract_lets

theorem State.channelResponse_keeps {i : Nat} {kind : MsgKind} {f : State → Msg → State} (h : Keeps r s) (hf : ∀ t m, Keeps r t → Keeps r (f t m)) :
    Keeps r (State.channelResponse s i kind f) := by
  delta State.channelResponse
  repeat' with_reducible first
    | assumption | apply hf | apply State.responseTravels_keeps | (apply Keeps.snd; assumption) | apply Keeps.ite
    | intro _ | split | extract_lets

theorem execAcknowledgement_keeps {index : Nat} (h : Keeps r s) : KeepsOut r (execAcknowledgement index s) := by
  delta execAcknowledgement
  repeat' with_reducible first
    | assumption | apply State.chanAck_keeps | apply State.channelResponse_keeps | apply KeepsOut.next | intro _
    | split | extract_lets

theorem execRefusal_keeps {index : Nat} (h : Keeps r s) : KeepsOut r (execRefusal index s) := by
  delta execRefusal
  repeat' with_reducible first
    | assumption | apply State.chanRefusal_keeps | apply State.channelResponse_keeps | apply KeepsOut.next | intro _
    | split | extract_lets

end Sys2Proof.Machine
end

