-- ==== Sys2Proof/Laws/KeepsDma.lean ====
section
/-! SUPPORT. The operations of Machine/Dma.lean leave the queue and the clock alone and keep the invariant. -/

namespace Sys2Proof.Machine

variable {r s : State}

theorem State.localPages_keeps {k : Nat} {ring : Nat} {kind : AccessKind} {pages : List Nat} (h : Keeps r s) :
    Keeps r (State.localPages s k ring kind pages).2 := by
  delta State.localPages
  repeat' with_reducible first
    | assumption | apply State.translate_keeps | apply Keeps.fold | apply Keeps.fold2 | apply Keeps.fold3
    | exact KeepsOpt.none _ | apply KeepsOpt.some | (apply Keeps.snd; assumption) | (apply Keeps.trd; assumption)
    | intro _ | split | extract_lets

theorem State.kvEntry_keeps {root : Nat} {p : Nat} (h : Keeps r s) : Keeps r (State.kvEntry s root p).2 := by
  delta State.kvEntry
  repeat' with_reducible first
    | assumption | apply State.dramRead_keeps | (apply Keeps.snd; assumption) | (apply Keeps.trd; assumption)
    | apply Keeps.ite | intro _ | split | extract_lets

theorem State.bindSlot_keeps {slot : Nat} (h : Keeps r s) : Keeps r (State.bindSlot s slot).2 := by
  delta State.bindSlot
  repeat' with_reducible first
    | assumption | apply State.dramRead_keeps | exact KeepsOpt.none _ | apply KeepsOpt.some
    | (apply Keeps.snd; assumption) | (apply Keeps.trd; assumption) | apply Keeps.ite | intro _ | split | extract_lets

theorem State.bindSide_keeps {k : Nat} {ring : Nat} {indirect : Bool} {dev : Nat} {kind : AccessKind} {spans : List (Nat × Nat)} (h : Keeps r s) :
    Keeps r (State.bindSide s k ring indirect dev kind spans).2 := by
  delta State.bindSide
  repeat' with_reducible first
    | assumption | apply State.bindSlot_keeps | apply State.localPages_keeps | exact KeepsOpt.none _
    | apply KeepsOpt.some | (apply Keeps.snd; assumption) | (apply Keeps.trd; assumption) | apply Keeps.ite | intro _
    | split | extract_lets

theorem State.sideAt_keeps {b : SideBind} {k : Nat} {isSource : Bool} {v : Nat} {seen : List (Nat × KvPage)} (h : Keeps r s) :
    Keeps r (State.sideAt s b k isSource v seen).2.2 := by
  delta State.sideAt
  repeat' with_reducible first
    | assumption | apply State.kvEntry_keeps | (apply Keeps.snd; assumption) | (apply Keeps.trd; assumption)
    | apply Keeps.ite | intro _ | split | extract_lets

theorem State.accGranule_keeps {k : Nat} {ch : Nat} {op : Nat} {g : Nat} {new : List (Nat × Byte)} (h : Keeps r s) :
    Keeps r (State.accGranule s k ch op g new) := by
  delta State.accGranule
  repeat' with_reducible first
    | assumption | apply State.setChan_keeps | apply State.spAccumulate_keeps | apply Keeps.fold | apply Keeps.fold2
    | apply Keeps.fold3 | apply KeepsOpt.map | (apply Keeps.snd; assumption) | apply Keeps.ite | intro _ | split
    | extract_lets

theorem State.ownWrite_keeps {k : Nat} {ch : Nat} {d : Desc} {o : Nat} {data : List Byte} (h : Keeps r s) :
    Keeps r (State.ownWrite s k ch d o data) := by
  delta State.ownWrite
  repeat' with_reducible first
    | assumption | apply State.accGranule_keeps | apply State.spStore_keeps | apply Keeps.fold | apply Keeps.fold2
    | apply Keeps.fold3 | apply KeepsOpt.map | (apply Keeps.snd; assumption) | apply Keeps.ite | intro _ | split
    | extract_lets

theorem State.nextTag_keeps {k : Nat} {ch : Nat} (h : Keeps r s) : Keeps r (State.nextTag s k ch).2 := by
  delta State.nextTag
  repeat' with_reducible first
    | assumption | apply State.setChan_keeps | (apply Keeps.snd; assumption) | (apply Keeps.trd; assumption) | intro _
    | split | extract_lets

theorem State.deliver_keeps {x : MoveCtx} {p : Place} {data : List Byte} (h : Keeps r s) :
    Keeps r (State.deliver s x p data) := by
  delta State.deliver
  repeat' with_reducible first
    | assumption | apply State.modChan_keeps | apply State.nextTag_keeps | apply State.ownWrite_keeps
    | apply State.sendV_keeps | apply State.setChan_keeps | (apply Keeps.snd; assumption) | apply Keeps.ite | intro _
    | split | extract_lets

theorem State.request_keeps {x : MoveCtx} {a : Nat} {dev : Half} {n : Nat} {dst : Place} (h : Keeps r s) :
    Keeps r (State.request s x a dev n dst) := by
  delta State.request
  repeat' with_reducible first
    | assumption | apply State.sendV_keeps | apply State.setChan_keeps | (apply Keeps.snd; assumption)
    | apply Keeps.ite | intro _ | split | extract_lets

theorem State.sourceNow_keeps {x : MoveCtx} {p : Piece} (h : Keeps r s) : Keeps r (State.sourceNow s x p).2 := by
  delta State.sourceNow
  repeat' with_reducible first
    | assumption | apply State.setFlag_keeps | apply State.spRead_keeps | exact KeepsOpt.none _ | apply KeepsOpt.some
    | (apply Keeps.snd; assumption) | (apply Keeps.trd; assumption) | intro _ | split | extract_lets

theorem State.noteDiscard_keeps {x : MoveCtx} {p : Piece} (h : Keeps r s) : Keeps r (State.noteDiscard s x p) := by
  delta State.noteDiscard
  repeat' with_reducible first
    | assumption | apply State.setFlag_keeps | (apply Keeps.snd; assumption) | intro _ | split | extract_lets

theorem State.place_keeps {x : MoveCtx} {p : Piece} {dst : Place} {data : List Byte} (h : Keeps r s) :
    Keeps r (State.place s x p dst data) := by
  delta State.place
  repeat' with_reducible first
    | assumption | apply State.deliver_keeps | apply State.setChan_keeps | (apply Keeps.snd; assumption)
    | apply Keeps.ite | intro _ | split | extract_lets

theorem State.movePiece_keeps {x : MoveCtx} {p : Piece} (h : Keeps r s) : Keeps r (State.movePiece s x p).2.2 := by
  delta State.movePiece
  repeat' with_reducible first
    | assumption | apply State.noteDiscard_keeps | apply State.place_keeps | apply State.request_keeps
    | apply State.sourceNow_keeps | (apply Keeps.snd; assumption) | (apply Keeps.trd; assumption) | intro _ | split
    | extract_lets

theorem State.pieceAt_keeps {x : MoveCtx} {prev : Option Piece} {c : Cut} {seen : List (Nat × KvPage)} (h : Keeps r s) :
    Keeps r (State.pieceAt s x prev c seen).2.2 := by
  delta State.pieceAt
  repeat' with_reducible first
    | assumption | apply State.sideAt_keeps | (apply Keeps.snd; assumption) | (apply Keeps.trd; assumption) | intro _
    | split | extract_lets

theorem State.movePieces_keeps {x : MoveCtx} {x2 : Run} {x3 : List Cut} {x4 : Option Piece} {x5 : Going} (h : Keeps r s) :
    Keeps r (State.movePieces s x x2 x3 x4 x5).2.2.2 := by
  induction x3 generalizing s x4 x5 with
  | nil =>
    dsimp only [State.movePieces]
    repeat' with_reducible first
      | assumption | apply State.movePiece_keeps | apply State.pieceAt_keeps | apply Keeps.fold | apply Keeps.fold2
      | apply Keeps.fold3 | (apply Keeps.snd; assumption) | (apply Keeps.trd; assumption)
      | (apply Keeps.fourth; assumption) | (apply KeepsOpt.of; assumption) | apply Keeps.ite | intro _ | split
      | extract_lets
  | cons a l ih =>
    dsimp only [State.movePieces]
    repeat' with_reducible first
      | assumption | apply ih | apply State.movePiece_keeps | apply State.pieceAt_keeps | apply Keeps.fold
      | apply Keeps.fold2 | apply Keeps.fold3 | (apply Keeps.snd; assumption) | (apply Keeps.trd; assumption)
      | (apply Keeps.fourth; assumption) | (apply KeepsOpt.of; assumption) | apply Keeps.ite | intro _ | split
      | extract_lets

theorem State.readPlace_keeps {k : Nat} {p : Place} {n : Nat} (h : Keeps r s) :
    Keeps r (State.readPlace s k p n).2.2 := by
  delta State.readPlace
  repeat' with_reducible first
    | assumption | apply State.arriveRead_keeps | apply State.dramRead_keeps | apply State.setFlag_keeps
    | apply State.spRead_keeps | exact KeepsOpt.none _ | apply KeepsOpt.some | (apply Keeps.snd; assumption)
    | (apply Keeps.trd; assumption) | apply Keeps.ite | intro _ | split | extract_lets

theorem State.writePlace_keeps {x : MoveCtx} {p : Place} {data : List Byte} (h : Keeps r s) :
    Keeps r (State.writePlace s x p data).2 := by
  delta State.writePlace
  repeat' with_reducible first
    | assumption | apply State.arriveWrite_keeps | apply State.deliver_keeps | apply State.dramWrite_keeps
    | apply State.modChan_keeps | apply State.modSp_keeps | apply State.ownWrite_keeps | apply State.sramWrite_keeps
    | (apply Keeps.snd; assumption) | (apply Keeps.trd; assumption) | apply Keeps.ite | intro _ | split | extract_lets

theorem State.readRun_keeps {x : MoveCtx} {x2 : List Cut} {x3 : Option Piece} {x4 : Going} (h : Keeps r s) :
    Keeps r (State.readRun s x x2 x3 x4).2.2.2 := by
  induction x2 generalizing s x3 x4 with
  | nil =>
    dsimp only [State.readRun]
    repeat' with_reducible first
      | assumption | apply State.place_keeps | apply State.readPlace_keeps | apply State.sideAt_keeps
      | apply Keeps.fold | apply Keeps.fold2 | apply Keeps.fold3 | exact KeepsOpt.none _ | apply KeepsOpt.some
      | (apply Keeps.snd; assumption) | (apply Keeps.trd; assumption) | (apply Keeps.fourth; assumption)
      | (apply KeepsOpt.of; assumption) | apply Keeps.ite | intro _ | split | extract_lets
  | cons a l ih =>
    dsimp only [State.readRun]
    repeat' with_reducible first
      | assumption | apply ih | apply State.place_keeps | apply State.readPlace_keeps | apply State.sideAt_keeps
      | apply Keeps.fold | apply Keeps.fold2 | apply Keeps.fold3 | exact KeepsOpt.none _ | apply KeepsOpt.some
      | (apply Keeps.snd; assumption) | (apply Keeps.trd; assumption) | (apply Keeps.fourth; assumption)
      | (apply KeepsOpt.of; assumption) | apply Keeps.ite | intro _ | split | extract_lets

theorem State.writeRun_keeps {x : MoveCtx} {x2 : Run} {x3 : List (Piece × Option (List Byte))} {x4 : Option Piece} {x5 : Going} (h : Keeps r s) :
    Keeps r (State.writeRun s x x2 x3 x4 x5).2.2.2 := by
  induction x3 generalizing s x4 x5 with
  | nil =>
    dsimp only [State.writeRun]
    repeat' with_reducible first
      | assumption | apply State.movePiece_keeps | apply State.noteDiscard_keeps | apply State.place_keeps
      | apply State.sideAt_keeps | apply State.writePlace_keeps | apply Keeps.fold | apply Keeps.fold2
      | apply Keeps.fold3 | (apply Keeps.snd; assumption) | (apply Keeps.trd; assumption)
      | (apply Keeps.fourth; assumption) | (apply KeepsOpt.of; assumption) | apply Keeps.ite | intro _ | split
      | extract_lets
  | cons a l ih =>
    dsimp only [State.writeRun]
    repeat' with_reducible first
      | assumption | apply ih | apply State.movePiece_keeps | apply State.noteDiscard_keeps | apply State.place_keeps
      | apply State.sideAt_keeps | apply State.writePlace_keeps | apply Keeps.fold | apply Keeps.fold2
      | apply Keeps.fold3 | (apply Keeps.snd; assumption) | (apply Keeps.trd; assumption)
      | (apply Keeps.fourth; assumption) | (apply KeepsOpt.of; assumption) | apply Keeps.ite | intro _ | split
      | extract_lets

theorem State.copyRun_keeps {x : MoveCtx} {x2 : Run} {cs : List Cut} {g : Going} (h : Keeps r s) :
    Keeps r (State.copyRun s x x2 cs g).2.2.2 := by
  unfold State.copyRun
  split
  · exact h
  · have h1 (g : Going) := State.readRun_keeps (x := x) (x2 := cs) (x3 := x.before x2) (x4 := g) h
    split
    · have ht := Keeps.fourth ‹_› (h1 _)
      extract_lets above
      split
      extract_lets faults
      clear_value faults
      split
      · exact ht
      · exact State.writeRun_keeps ht
    · exact Keeps.fourth ‹_› (h1 _)

theorem State.moveRuns_keeps {x : MoveCtx} {buffered : Bool} {first : Bool} {x4 : List (Run × List Cut)} {x5 : Going} (h : Keeps r s) :
    Keeps r (State.moveRuns s x buffered first x4 x5).2.2 := by
  induction x4 generalizing s first x5 with
  | nil =>
    dsimp only [State.moveRuns]
    repeat' with_reducible first
      | assumption | apply State.copyRun_keeps | apply State.movePieces_keeps | apply Keeps.fold | apply Keeps.fold2
      | apply Keeps.fold3 | (apply Keeps.snd; assumption) | (apply Keeps.trd; assumption)
      | (apply Keeps.fourth; assumption) | (apply KeepsOpt.of; assumption) | apply Keeps.ite | intro _ | split
      | extract_lets
  | cons a l ih =>
    dsimp only [State.moveRuns]
    repeat' with_reducible first
      | assumption | apply ih | apply State.copyRun_keeps | apply State.movePieces_keeps | apply Keeps.fold
      | apply Keeps.fold2 | apply Keeps.fold3 | (apply Keeps.snd; assumption) | (apply Keeps.trd; assumption)
      | (apply Keeps.fourth; assumption) | (apply KeepsOpt.of; assumption) | apply Keeps.ite | intro _ | split
      | extract_lets

theorem State.dgo_keeps {k : Nat} {ch : Nat} (h : Keeps r s) : Keeps r (State.dgo s k ch) := by
  delta State.dgo
  repeat' with_reducible first
    | assumption | apply State.dmaHalt_keeps | apply State.engineSpFault_keeps | apply State.modChan_keeps
    | apply State.modDm_keeps | apply State.pageIs_keeps | apply State.spRead_keeps | (apply Keeps.snd; assumption)
    | (apply Keeps.trd; assumption) | apply Keeps.ite | intro _ | split | extract_lets

theorem State.clearStop_keeps {k : Nat} {ch : Nat} (h : Keeps r s) : Keeps r (State.clearStop s k ch) := by
  delta State.clearStop
  repeat' with_reducible first
    | assumption | apply State.modChan_keeps | apply State.setReg_keeps | apply Keeps.ite | intro _ | split
    | extract_lets

theorem State.endMove_keeps {x : MoveCtx} {stop : MoveStop} {p : At} (h : Keeps r s) :
    Keeps r (State.endMove s x stop p) := by
  delta State.endMove
  repeat' with_reducible first
    | assumption | apply State.chanIssue_keeps | apply State.modChan_keeps | (apply Keeps.snd; assumption) | intro _
    | split | extract_lets

theorem State.descBind_keeps {k : Nat} {ring : Nat} {d : Desc} {runs : List Run} (h : Keeps r s) :
    Keeps r (State.descBind s k ring d runs).2 := by
  delta State.descBind
  repeat' with_reducible first
    | assumption | apply State.bindSide_keeps | exact KeepsOpt.none _ | apply KeepsOpt.some
    | (apply Keeps.snd; assumption) | (apply Keeps.trd; assumption) | apply Keeps.ite | intro _ | split | extract_lets

theorem State.descPlan_keeps {k : Nat} {ch : Nat} {q : EngineCmd} {w : List Half} (h : Keeps r s) :
    Keeps r (State.descPlan s k ch q w).2 := by
  delta State.descPlan
  repeat' with_reducible first
    | assumption | apply State.descBind_keeps | exact KeepsOpt.none _ | apply KeepsOpt.some
    | (apply Keeps.snd; assumption) | (apply Keeps.trd; assumption) | intro _ | split | extract_lets

theorem State.descMove_keeps {k : Nat} {ch : Nat} {q : EngineCmd} {w : List Half} {left : Option Nat} (h : Keeps r s) :
    KeepsOpt r (State.descMove s k ch q w left) := by
  delta State.descMove
  repeat' with_reducible first
    | assumption | apply State.clearStop_keeps | apply State.descPlan_keeps | apply State.endMove_keeps
    | apply State.modChan_keeps | apply State.moveRuns_keeps | apply State.sbAdd_keeps | exact KeepsOpt.none _
    | apply KeepsOpt.some | (apply Keeps.snd; assumption) | (apply Keeps.trd; assumption) | apply Keeps.ite | intro _
    | split | extract_lets

theorem State.descriptorStart_keeps {k : Nat} {ch : Nat} (h : Keeps r s) :
    Keeps r (State.descriptorStart s k ch) := by
  delta State.descriptorStart
  repeat' with_reducible first
    | assumption | apply State.clearStop_keeps | apply State.descMove_keeps | apply State.dmaHalt_keeps
    | apply KeepsOpt.getD | (apply Keeps.snd; assumption) | (apply KeepsOpt.of; assumption) | apply Keeps.ite
    | intro _ | split | extract_lets

theorem State.dmaPageFault_keeps {k : Nat} {ch : Nat} (h : Keeps r s) : Keeps r (State.dmaPageFault s k ch) := by
  delta State.dmaPageFault
  repeat' with_reducible first
    | assumption | apply State.dmaErr_keeps | apply State.modChan_keeps | apply State.modDm_keeps
    | apply State.raise_keeps | apply State.recordStop_keeps | (apply Keeps.snd; assumption) | apply Keeps.ite
    | intro _ | split | extract_lets

theorem State.dmResume_keeps {k : Nat} {ch : Nat} (h : Keeps r s) : Keeps r (State.dmResume s k ch) := by
  delta State.dmResume
  repeat' with_reducible first
    | assumption | apply State.clearStop_keeps | apply State.modChan_keeps | apply State.sbRelease_keeps
    | apply Keeps.ite | intro _ | split | extract_lets

theorem State.dmAbandon_keeps {k : Nat} {ch : Nat} (h : Keeps r s) : Keeps r (State.dmAbandon s k ch) := by
  delta State.dmAbandon
  repeat' with_reducible first
    | assumption | apply State.chanReads_keeps | apply State.clearStop_keeps | apply State.modChan_keeps
    | apply State.sbRelease_keeps | apply State.setChan_keeps | apply State.voidFill_keeps
    | (apply Keeps.snd; assumption) | apply Keeps.ite | intro _ | split | extract_lets

theorem State.remoteTimeout_keeps {k : Nat} {ch : Nat} (h : Keeps r s) : Keeps r (State.remoteTimeout s k ch) := by
  delta State.remoteTimeout
  repeat' with_reducible first
    | assumption | apply State.dmaHalt_keeps | (apply Keeps.snd; assumption) | apply Keeps.ite | intro _ | split
    | extract_lets

theorem State.chanHold_keeps {k ch : Nat} (h : Keeps r s) : Keeps r (State.chanHold s k ch) := by
  unfold State.chanHold
  extract_lets c
  split
  · exact h
  split
  · exact State.setChan_keeps h
  have h1 := State.drawNat_keeps h
  split
  rename_i n t e
  have ht := Keeps.snd e h1
  extract_lets began t1 c1
  have hb : KeepsOpt r began := by
    dsimp only [began]
    split
    · split
      · exact KeepsOpt.none r
      · exact State.descMove_keeps ht
    · exact KeepsOpt.none r
  have h2 : Keeps r t1 := KeepsOpt.getD hb ht
  split
  · exact h2
  · exact State.chanSettle_keeps (State.modChan_keeps h2)

theorem State.dmHold_keeps {k : Nat} {tsr : Addr} (h : Keeps r s) : Keeps r (State.dmHold s k tsr) := by
  delta State.dmHold
  repeat' with_reducible first
    | assumption | apply State.chanHold_keeps | apply State.modDm_keeps | intro _ | split | extract_lets

theorem State.dmUnhold_keeps {k : Nat} (h : Keeps r s) : Keeps r (State.dmUnhold s k) := by
  delta State.dmUnhold
  repeat' with_reducible first
    | assumption | apply State.modChan_keeps | apply State.modDm_keeps | intro _ | split | extract_lets

theorem State.landRead_keeps {k : Nat} {ch : Nat} {x3 : PendingRead} {data : List Byte} {poison : Bool} (h : Keeps r s) :
    Keeps r (State.landRead s k ch x3 data poison) := by
  delta State.landRead
  repeat' with_reducible first
    | assumption | apply State.deliver_keeps | apply State.dmaHalt_keeps | apply State.ownWrite_keeps
    | apply State.setChan_keeps | apply State.spPoison_keeps | (apply Keeps.snd; assumption) | apply Keeps.ite
    | intro _ | split | extract_lets

theorem State.landReady_keeps {k : Nat} {ch : Nat} (h : Keeps r s) : Keeps r (State.landReady s k ch) := by
  delta State.landReady
  repeat' with_reducible first
    | assumption | apply State.chanSettle_keeps | apply State.landRead_keeps | apply Keeps.fold | apply Keeps.fold2
    | apply Keeps.fold3 | (apply Keeps.snd; assumption) | apply Keeps.ite | intro _ | split | extract_lets

theorem State.readComes_keeps {k : Nat} {ch : Nat} {x3 : PendingRead} {data : List Byte} {poison : Bool} (h : Keeps r s) :
    Keeps r (State.readComes s k ch x3 data poison) := by
  delta State.readComes
  repeat' with_reducible first
    | assumption | apply State.landReady_keeps | apply State.modChan_keeps | (apply Keeps.snd; assumption)
    | apply Keeps.ite | intro _ | split | extract_lets

theorem execDgo_keeps {k : CcId} {ch : ChanId} (h : Keeps r s) : KeepsOut r (execDgo k ch s) := by
  delta execDgo
  repeat' with_reducible first
    | assumption | apply State.dgo_keeps | apply KeepsOut.next | intro _ | split | extract_lets

theorem execDescriptorStart_keeps {k : CcId} {ch : ChanId} (h : Keeps r s) :
    KeepsOut r (execDescriptorStart k ch s) := by
  delta execDescriptorStart
  repeat' with_reducible first
    | assumption | apply State.descriptorStart_keeps | apply KeepsOut.next | intro _ | split | extract_lets

theorem execDmaPageFault_keeps {k : CcId} {ch : ChanId} (h : Keeps r s) : KeepsOut r (execDmaPageFault k ch s) := by
  delta execDmaPageFault
  repeat' with_reducible first
    | assumption | apply State.dmaPageFault_keeps | apply KeepsOut.next | intro _ | split | extract_lets

theorem State.chainComplete_keeps {k : Nat} {ch : Nat} {signal : State → Nat → Half → Bool → Nat → State} (h : Keeps r s) (hf : ∀ t a b c d, Keeps r t → Keeps r (signal t a b c d)) :
    Keeps r (State.chainComplete s k ch signal) := by
  delta State.chainComplete
  repeat' with_reducible first
    | assumption | apply hf | apply State.clearStop_keeps | apply State.modChan_keeps | (apply Keeps.snd; assumption)
    | apply Keeps.ite | intro _ | split | extract_lets

theorem execRemoteAckTimeout_keeps {k : CcId} {ch : ChanId} (h : Keeps r s) :
    KeepsOut r (execRemoteAckTimeout k ch s) := by
  delta execRemoteAckTimeout
  repeat' with_reducible first
    | assumption | apply State.remoteTimeout_keeps | apply KeepsOut.next | intro _ | split | extract_lets

end Sys2Proof.Machine
end

