-- ==== Sys2Proof/Laws/KeepsMesh.lean ====
section
/-! SUPPORT. The operations of Machine/Mesh.lean leave the queue and the clock alone and keep the invariant. -/

namespace Sys2Proof.Machine

variable {r s : State}

theorem State.crossLink_keeps {x1 : Nat} {p : Nat} {port : Nat} (h : Keeps r s) :
    Keeps r (State.crossLink s x1 p port) := by
  delta State.crossLink
  repeat' with_reducible first
    | assumption | apply State.modSlice_keeps | apply State.modSp_keeps | apply State.setSide_keeps
    | (apply Keeps.snd; assumption) | apply Keeps.ite | intro _ | split | extract_lets

theorem State.pushOut_keeps {x1 : Nat} {p : Nat} {port : Nat} {m : Msg} (h : Keeps r s) :
    Keeps r (State.pushOut s x1 p port m) := by
  delta State.pushOut
  repeat' with_reducible first
    | assumption | apply State.crossLink_keeps | apply State.setSide_keeps | intro _ | split | extract_lets

theorem State.outputBeat_keeps {x1 : Nat} {p : Nat} {port : Nat} (h : Keeps r s) :
    Keeps r (State.outputBeat s x1 p port) := by
  delta State.outputBeat
  repeat' with_reducible first
    | assumption | apply State.pushOut_keeps | apply State.setSide_keeps | (apply Keeps.snd; assumption)
    | apply Keeps.ite | intro _ | split | extract_lets

theorem State.countFork_keeps {m : Msg} {n : Nat} (h : Keeps r s) : Keeps r (State.countFork s m n) := by
  delta State.countFork
  repeat' with_reducible first
    | assumption | apply State.modChan_keeps | apply Keeps.ite | intro _ | split | extract_lets

theorem State.latchIn_keeps {key : Nat} {x : Side} {e : Nat} {m : Msg} (h : Keeps r s) :
    Keeps r (State.latchIn s key x e m) := by
  delta State.latchIn
  repeat' with_reducible first
    | assumption | apply State.countFork_keeps | apply State.setSide_keeps | intro _ | split | extract_lets

theorem State.ingressMiss_keeps {x1 : Nat} {p : Nat} {ch : Nat} {m : Msg} (h : Keeps r s) :
    Keeps r (State.ingressMiss s x1 p ch m) := by
  delta State.ingressMiss
  repeat' with_reducible first
    | assumption | apply State.dmaHalt_keeps | apply State.modChan_keeps | apply State.setCrossing_keeps
    | (apply Keeps.snd; assumption) | apply Keeps.ite | intro _ | split | extract_lets

theorem State.ingress_keeps {x1 : Nat} {p : Nat} {x : Side} {e : Nat} (h : Keeps r s) :
    Keeps r (State.ingress s x1 p x e) := by
  delta State.ingress
  repeat' with_reducible first
    | assumption | apply State.chanIssue_keeps | apply State.count_keeps | apply State.ingressMiss_keeps
    | apply State.latchIn_keeps | apply State.setCrossing_keeps | (apply Keeps.snd; assumption) | apply Keeps.ite
    | intro _ | split | extract_lets

theorem State.ingressNext_keeps {x1 : Nat} {p : Nat} (h : Keeps r s) : Keeps r (State.ingressNext s x1 p) := by
  delta State.ingressNext
  repeat' with_reducible first
    | assumption | apply State.chanIssue_keeps | apply State.ingress_keeps | (apply Keeps.snd; assumption)
    | apply Keeps.ite | intro _ | split | extract_lets

theorem State.pullIn_keeps {x1 : Nat} {p : Nat} {port : Nat} {x : Side} {e : Nat} (h : Keeps r s) :
    Keeps r (State.pullIn s x1 p port x e) := by
  delta State.pullIn
  repeat' with_reducible first
    | assumption | apply State.ingressNext_keeps | apply State.latchIn_keeps | apply State.setSide_keeps
    | apply State.setSlice_keeps | (apply Keeps.snd; assumption) | apply Keeps.ite | intro _ | split | extract_lets

theorem State.inputBeat_keeps {x1 : Nat} {p : Nat} {port : Nat} (h : Keeps r s) :
    Keeps r (State.inputBeat s x1 p port) := by
  delta State.inputBeat
  repeat' with_reducible first
    | assumption | apply State.pullIn_keeps | apply State.setSide_keeps | (apply Keeps.snd; assumption)
    | apply Keeps.ite | intro _ | split | extract_lets

theorem execOutputBeat_keeps {router : CcId} {plane : Fin 3} {port : Fin 6} (h : Keeps r s) :
    KeepsOut r (execOutputBeat router plane port s) := by
  delta execOutputBeat
  repeat' with_reducible first
    | assumption | apply State.outputBeat_keeps | apply KeepsOut.next | intro _ | split | extract_lets

theorem execInputBeat_keeps {router : CcId} {plane : Fin 3} {port : Fin 6} (h : Keeps r s) :
    KeepsOut r (execInputBeat router plane port s) := by
  delta execInputBeat
  repeat' with_reducible first
    | assumption | apply State.inputBeat_keeps | apply KeepsOut.next | intro _ | split | extract_lets

theorem State.merges_keeps {sl : Nat} {p : Nat} {u : Nat} {window : Nat} (h : Keeps r s) :
    Keeps r (State.merges s sl p u window).2 := by
  delta State.merges
  repeat' with_reducible first
    | assumption | (apply Keeps.snd; assumption) | (apply Keeps.trd; assumption) | apply Keeps.ite | intro _ | split
    | extract_lets | apply Keeps.upd | rfl

theorem State.holdUnit_keeps {sl : Nat} {p : Nat} {u : Nat} (h : Keeps r s) : Keeps r (State.holdUnit s sl p u) := by
  delta State.holdUnit
  repeat' with_reducible first
    | assumption | apply State.modSlice_keeps | intro _ | split | extract_lets

theorem State.streamUnit_keeps {sl : Nat} {p : Nat} {window : Nat} {a : Nat} (h : Keeps r s) :
    Keeps r (State.streamUnit s sl p window a).2.2 := by
  delta State.streamUnit
  repeat' with_reducible first
    | assumption | apply State.dramRead_keeps | apply State.holdUnit_keeps | apply State.merges_keeps
    | (apply Keeps.snd; assumption) | (apply Keeps.trd; assumption) | apply Keeps.ite | intro _ | split | extract_lets

theorem State.streamRead_keeps {sl : Nat} {p : Nat} {window : Nat} {x4 : Nat} {x5 : Nat} (h : Keeps r s) :
    Keeps r (State.streamRead s sl p window x4 x5).2.2 := by
  induction x5 generalizing s x4 with
  | zero =>
    dsimp only [State.streamRead]
    repeat' with_reducible first
      | assumption | apply State.streamUnit_keeps | apply Keeps.fold | apply Keeps.fold2 | apply Keeps.fold3
      | (apply Keeps.snd; assumption) | (apply Keeps.trd; assumption) | (apply KeepsOpt.of; assumption)
      | apply Keeps.ite | intro _ | split | extract_lets
  | succ n ih =>
    dsimp only [State.streamRead]
    repeat' with_reducible first
      | assumption | apply ih | apply State.streamUnit_keeps | apply Keeps.fold | apply Keeps.fold2
      | apply Keeps.fold3 | (apply Keeps.snd; assumption) | (apply Keeps.trd; assumption)
      | (apply KeepsOpt.of; assumption) | apply Keeps.ite | intro _ | split | extract_lets

theorem State.beatRead_keeps {sl : Nat} {p : Nat} {window : Nat} {m : Msg} (h : Keeps r s) :
    Keeps r (State.beatRead s sl p window m).2.2 := by
  delta State.beatRead
  repeat' with_reducible first
    | assumption | apply State.dramRead_keeps | apply State.streamRead_keeps | (apply Keeps.snd; assumption)
    | (apply Keeps.trd; assumption) | apply Keeps.ite | intro _ | split | extract_lets

theorem State.serveBeat_keeps {sl : Nat} {p : Nat} {window : Nat} {m : Msg} (h : Keeps r s) :
    KeepsOpt r (State.serveBeat s sl p window m) := by
  unfold State.serveBeat
  extract_lets outq answer here
  have ha : ∀ t x, Keeps r t → KeepsOpt r (outq t x) := fun t x ht => KeepsOpt.some (State.modSlice_keeps ht)
  clear_value outq
  repeat' with_reducible first
    | assumption | apply ha | apply State.beatRead_keeps | apply State.dramWrite_keeps | apply State.modSlice_keeps
    | apply State.sendV_keeps | apply State.setSlice_keeps | apply State.streamAck_keeps | exact KeepsOpt.none _
    | apply KeepsOpt.some | (apply Keeps.snd; assumption) | (apply Keeps.trd; assumption) | apply Keeps.ite | intro _
    | split | extract_lets

theorem State.streamBeatServe_keeps {sl : Nat} (h : Keeps r s) : Keeps r (State.streamBeatServe s sl) := by
  delta State.streamBeatServe
  repeat' with_reducible first
    | assumption | apply State.crossLink_keeps | apply State.serveBeat_keeps | apply State.setSlice_keeps
    | apply KeepsOpt.getD | (apply Keeps.snd; assumption) | (apply KeepsOpt.of; assumption) | apply Keeps.ite
    | intro _ | split | extract_lets

theorem State.markPhase_keeps {sl : Nat} (h : Keeps r s) : KeepsOpt r (State.markPhase s sl) := by
  delta State.markPhase
  repeat' with_reducible first
    | assumption | apply State.setSlice_keeps | exact KeepsOpt.none _ | apply KeepsOpt.some
    | (apply Keeps.snd; assumption) | apply Keeps.ite | intro _ | split | extract_lets

theorem execStreamBeatServe_keeps {slice : SliceId} (h : Keeps r s) : KeepsOut r (execStreamBeatServe slice s) := by
  delta execStreamBeatServe
  repeat' with_reducible first
    | assumption | apply State.streamBeatServe_keeps | apply KeepsOut.next | intro _ | split | extract_lets

theorem State.logStall_keeps {rec : Nat} (h : Keeps r s) : Keeps r (State.logStall s rec) := by
  delta State.logStall
  repeat' with_reducible first
    | assumption | apply State.deviceEvent_keeps | apply State.setFlag_keeps | apply Keeps.ite | intro _ | split
    | extract_lets | apply Keeps.upd | rfl

theorem State.stall_keeps {w : StallSite} (h : Keeps r s) : Keeps r (State.stall s w) := by
  delta State.stall
  repeat' with_reducible first
    | assumption | apply State.logStall_keeps | apply State.modSlice_keeps | apply State.setSide_keeps
    | (apply Keeps.snd; assumption) | apply Keeps.ite | intro _ | split | extract_lets

theorem State.popStall_keeps  (h : Keeps r s) : Keeps r (State.popStall s) := by
  delta State.popStall
  repeat' with_reducible first
    | assumption | intro _ | split | extract_lets | apply Keeps.upd | rfl

theorem execStall_keeps {what : StallSite} (h : Keeps r s) : KeepsOut r (execStall what s) := by
  delta execStall
  repeat' with_reducible first
    | assumption | apply State.stall_keeps | apply KeepsOut.next | apply Keeps.ite | intro _ | split | extract_lets

end Sys2Proof.Machine
end

