-- ==== Sys2Proof/Laws/KeepsMatrix.lean ====
section
/-! SUPPORT. The operations of Machine/Matrix.lean leave the queue and the clock alone and keep the invariant. -/

namespace Sys2Proof.Machine

variable {r s : State}

/-- What a look at the head of a queue keeps. -/
def KeepsMxHead (r : State) : MxHead → Prop
  | .wait => True
  | .refused t => Keeps r t
  | .go _ _ _ t => Keeps r t

theorem KeepsMxHead.wait (r : State) : KeepsMxHead r .wait := trivial
theorem KeepsMxHead.refused {r t : State} (h : Keeps r t) : KeepsMxHead r (.refused t) := h
theorem KeepsMxHead.go {r t : State} {c : EngineCmd} {pt : List (Nat × PageIs)} {o : Option Rect} (h : Keeps r t) : KeepsMxHead r (.go c pt o t) := h
theorem KeepsMxHead.of_refused {r t : State} {i : MxHead} (e : i = .refused t) (h : KeepsMxHead r i) : Keeps r t := by
  subst e; exact h
theorem KeepsMxHead.of_go {r t : State} {i : MxHead} {c : EngineCmd} {pt : List (Nat × PageIs)} {o : Option Rect} (e : i = .go c pt o t)
    (h : KeepsMxHead r i) : Keeps r t := by subst e; exact h

theorem State.mxFault_keeps {k : Nat} {cause : Nat} {pfCause : Nat} {done : Nat} {v : Nat} (h : Keeps r s) :
    Keeps r (State.mxFault s k cause pfCause done v) := by
  delta State.mxFault
  repeat' with_reducible first
    | assumption | apply State.modMx_keeps | apply State.raise_keeps | apply State.setReg_keeps
    | (apply Keeps.snd; assumption) | apply Keeps.ite | intro _ | split | extract_lets

theorem State.mxPoison_keeps {k : Nat} {g : Nat} {v : Nat} (h : Keeps r s) : Keeps r (State.mxPoison s k g v) := by
  delta State.mxPoison
  repeat' with_reducible first
    | assumption | apply State.engineSpFault_keeps | apply State.modMx_keeps | apply Keeps.ite | intro _ | split
    | extract_lets

theorem State.mxMet_keeps {k : Nat} {done : Nat} {x3 : Met} (h : Keeps r s) :
    KeepsIssue r (State.mxMet s k done x3) := by
  delta State.mxMet
  repeat' with_reducible first
    | assumption | apply State.mxFault_keeps | apply State.mxPoison_keeps | (apply Keeps.snd; assumption)
    | exact KeepsIssue.wait _ | apply KeepsIssue.done | apply KeepsIssue.fault | intro _ | split | extract_lets

theorem State.mxBegun_keeps {k : Nat} (h : Keeps r s) : Keeps r (State.mxBegun s k) := by
  delta State.mxBegun
  repeat' with_reducible first
    | assumption | apply State.modMx_keeps | (apply Keeps.snd; assumption) | apply Keeps.ite | intro _ | split
    | extract_lets

theorem State.mxPop_keeps {k : Nat} (h : Keeps r s) : Keeps r (State.mxPop s k) := by
  delta State.mxPop
  repeat' with_reducible first
    | assumption | apply State.modMx_keeps | apply Keeps.ite | intro _ | split | extract_lets

theorem State.loadRows_keeps {k : Nat} {n : Nat} {pt : List (Nat × PageIs)} {ps : List (Nat × Nat)} (h : Keeps r s) :
    Keeps r (State.loadRows s k n pt ps).2.2 := by
  delta State.loadRows
  repeat' with_reducible first
    | assumption | apply State.modMx_keeps | apply State.mxBegun_keeps | apply State.readSpan_keeps | apply Keeps.fold
    | apply Keeps.fold2 | apply Keeps.fold3 | (apply Keeps.snd; assumption) | (apply Keeps.trd; assumption)
    | apply Keeps.ite | intro _ | split | extract_lets

theorem State.storeRows_keeps {k : Nat} {pt : List (Nat × PageIs)} {ps : List (Nat × Nat)} {row : Nat → List Byte} (h : Keeps r s) :
    Keeps r (State.storeRows s k pt ps row).2.2 := by
  delta State.storeRows
  repeat' with_reducible first
    | assumption | apply State.mxBegun_keeps | apply State.writeSpan_keeps | apply Keeps.fold | apply Keeps.fold2
    | apply Keeps.fold3 | (apply Keeps.snd; assumption) | (apply Keeps.trd; assumption) | apply Keeps.ite | intro _
    | split | extract_lets

theorem State.readColumns_keeps {k : Nat} {pt : List (Nat × PageIs)} {ps : List (Nat × Nat)} (h : Keeps r s) :
    Keeps r (State.readColumns s k pt ps).2.2 := by
  delta State.readColumns
  repeat' with_reducible first
    | assumption | apply State.readSpan_keeps | apply Keeps.fold | apply Keeps.fold2 | apply Keeps.fold3
    | (apply Keeps.snd; assumption) | (apply Keeps.trd; assumption) | intro _ | split | extract_lets

theorem State.loadColumns_keeps {k : Nat} {n : Nat} {es : Nat} {rows : Nat} {pt : List (Nat × PageIs)} {ps : List (Nat × Nat)} (h : Keeps r s) :
    Keeps r (State.loadColumns s k n es rows pt ps).2.2 := by
  delta State.loadColumns
  repeat' with_reducible first
    | assumption | apply State.modMx_keeps | apply State.mxBegun_keeps | apply State.readColumns_keeps
    | apply Keeps.fold | apply Keeps.fold2 | apply Keeps.fold3 | (apply Keeps.snd; assumption)
    | (apply Keeps.trd; assumption) | apply Keeps.ite | intro _ | split | extract_lets

theorem State.storeColumns_keeps {k : Nat} {n : Nat} {es : Nat} {rows : Nat} {pt : List (Nat × PageIs)} {ps : List (Nat × Nat)} (h : Keeps r s) :
    Keeps r (State.storeColumns s k n es rows pt ps).2.2 := by
  delta State.storeColumns
  repeat' with_reducible first
    | assumption | apply State.mxBegun_keeps | apply State.writeSpan_keeps | apply Keeps.fold | apply Keeps.fold2
    | apply Keeps.fold3 | (apply Keeps.snd; assumption) | (apply Keeps.trd; assumption) | apply Keeps.ite | intro _
    | split | extract_lets

theorem State.mmaGroups_keeps {k : Nat} {f : MmaFields} {fa : Fmt} {fb : Fmt} {pt : List (Nat × PageIs)} {ps : List (Nat × Nat)} {n : Nat} {cells : SMap Byte} (h : Keeps r s) :
    Keeps r (State.mmaGroups s k f fa fb pt ps n cells).2.2.2.2 := by
  delta State.mmaGroups
  repeat' with_reducible first
    | assumption | apply State.readSpan_keeps | apply Keeps.fold | apply Keeps.fold2 | apply Keeps.fold3
    | apply Keeps.fold5 | (apply Keeps.snd; assumption) | (apply Keeps.trd; assumption) | apply Keeps.ite | intro _
    | split | extract_lets

theorem State.mxSat_keeps {k : Nat} {sat : Bool} (h : Keeps r s) : Keeps r (State.mxSat s k sat) := by
  delta State.mxSat
  repeat' with_reducible first
    | assumption | apply State.setFlag_keeps | apply Keeps.ite | intro _ | split | extract_lets

theorem State.mxUnload_keeps {k : Nat} {cn : Nat} (h : Keeps r s) : Keeps r (State.mxUnload s k cn) := by
  delta State.mxUnload
  repeat' with_reducible first
    | assumption | apply State.modMx_keeps | apply Keeps.ite | intro _ | split | extract_lets

theorem State.mxMma_keeps {k : Nat} {c : EngineCmd} {pt : List (Nat × PageIs)} {rect : Option Rect} {check : ResidueCheck} (h : Keeps r s) :
    KeepsIssue r (State.mxMma s k c pt rect check) := by
  delta State.mxMma
  repeat' with_reducible first
    | assumption | apply State.count_keeps | apply State.drawNat_keeps | apply State.mmaGroups_keeps
    | apply State.modMx_keeps | apply State.mxFault_keeps | apply State.mxMet_keeps | apply State.mxPop_keeps
    | apply State.mxSat_keeps | apply State.mxUnload_keeps | apply State.sbAdd_keeps | (apply Keeps.snd; assumption)
    | (apply Keeps.fifth; assumption) | exact KeepsIssue.wait _ | apply KeepsIssue.done | apply KeepsIssue.fault
    | (apply KeepsIssue.of_done; assumption) | (apply KeepsIssue.of_fault; assumption) | apply Keeps.ite | intro _
    | split | extract_lets

theorem State.mxWriteBack_keeps {k : Nat} (h : Keeps r s) : Keeps r (State.mxWriteBack s k) := by
  delta State.mxWriteBack
  repeat' with_reducible first
    | assumption | apply State.modMx_keeps | apply State.sbRelease_keeps | (apply Keeps.snd; assumption)
    | apply Keeps.ite | intro _ | split | extract_lets

theorem State.mxWriteBacks_keeps {k : Nat} (h : Keeps r s) : Keeps r (State.mxWriteBacks s k) := by
  delta State.mxWriteBacks
  repeat' with_reducible first
    | assumption | apply State.mxWriteBack_keeps | apply Keeps.fold | apply Keeps.fold2 | apply Keeps.fold3
    | apply Keeps.ite | intro _ | split | extract_lets

theorem State.mxTransfer_keeps {k : Nat} {c : EngineCmd} {pt : List (Nat × PageIs)} {rows : Nat} (h : Keeps r s) :
    Keeps r (State.mxTransfer s k c pt rows).2.2 := by
  delta State.mxTransfer
  repeat' with_reducible first
    | assumption | apply State.loadColumns_keeps | apply State.loadRows_keeps | apply State.modMx_keeps
    | apply State.mxSat_keeps | apply State.setMx_keeps | apply State.storeColumns_keeps | apply State.storeRows_keeps
    | (apply Keeps.snd; assumption) | (apply Keeps.trd; assumption) | apply Keeps.ite | intro _ | split | extract_lets

theorem State.mxRun_keeps {k : Nat} {c : EngineCmd} {pt : List (Nat × PageIs)} {rect : Option Rect} {check : ResidueCheck} (h : Keeps r s) :
    KeepsIssue r (State.mxRun s k c pt rect check) := by
  dsimp only [State.mxRun]
  repeat' with_reducible first
    | assumption | apply State.mxMet_keeps | apply State.mxMma_keeps | apply State.mxPop_keeps
    | apply State.mxTransfer_keeps | apply State.setMx_keeps | (apply Keeps.snd; assumption)
    | (apply Keeps.trd; assumption) | exact KeepsIssue.wait _ | apply KeepsIssue.done | apply KeepsIssue.fault
    | (apply KeepsIssue.of_done; assumption) | (apply KeepsIssue.of_fault; assumption) | intro _ | split
    | extract_lets

theorem State.mxLook_keeps {k : Nat} (h : Keeps r s) : KeepsMxHead r (State.mxLook s k) := by
  delta State.mxLook
  repeat' with_reducible first
    | assumption | apply State.mxFault_keeps | apply State.pageTable_keeps | (apply Keeps.snd; assumption)
    | exact KeepsMxHead.wait _ | apply KeepsMxHead.refused | apply KeepsMxHead.go | apply Keeps.ite | intro _ | split
    | extract_lets

theorem State.mxTry_keeps {k : Nat} {check : ResidueCheck} (h : Keeps r s) :
    KeepsIssue r (State.mxTry s k check) := by
  delta State.mxTry
  repeat' with_reducible first
    | assumption | apply State.mxLook_keeps | apply State.mxRun_keeps | (apply Keeps.snd; assumption)
    | exact KeepsIssue.wait _ | apply KeepsIssue.done | apply KeepsIssue.fault
    | (apply KeepsIssue.of_done; assumption) | (apply KeepsIssue.of_fault; assumption)
    | (apply KeepsMxHead.of_refused; assumption) | (apply KeepsMxHead.of_go; assumption) | intro _ | split
    | extract_lets

theorem State.mxBehind_keeps {k : Nat} {c : EngineCmd} {rect : Option Rect} (h : Keeps r s) :
    Keeps r (State.mxBehind s k c rect) := by
  delta State.mxBehind
  repeat' with_reducible first
    | assumption | apply State.mxPop_keeps | apply State.sbAdd_keeps | apply Keeps.ite | intro _ | split
    | extract_lets

theorem State.mxStopTransfer_keeps {k : Nat} (h : Keeps r s) : Keeps r (State.mxStopTransfer s k).2 := by
  delta State.mxStopTransfer
  repeat' with_reducible first
    | assumption | apply State.drawNat_keeps | apply State.mxBegun_keeps | apply State.mxLook_keeps
    | apply State.mxTransfer_keeps | (apply Keeps.snd; assumption) | (apply Keeps.trd; assumption)
    | (apply KeepsMxHead.of_refused; assumption) | (apply KeepsMxHead.of_go; assumption) | apply Keeps.ite | intro _
    | split | extract_lets

theorem State.mxStopMma_keeps {k : Nat} (h : Keeps r s) : Keeps r (State.mxStopMma s k).2 := by
  delta State.mxStopMma
  repeat' with_reducible first
    | assumption | apply State.drawNat_keeps | apply State.mmaGroups_keeps | apply State.mxLook_keeps
    | apply State.mxSat_keeps | apply State.mxUnload_keeps | (apply Keeps.snd; assumption)
    | (apply Keeps.trd; assumption) | (apply Keeps.fifth; assumption) | (apply KeepsMxHead.of_refused; assumption)
    | (apply KeepsMxHead.of_go; assumption) | intro _ | split | extract_lets

theorem State.mxStopHead_keeps {k : Nat} {c : EngineCmd} (h : Keeps r s) : Keeps r (State.mxStopHead s k c).2 := by
  delta State.mxStopHead
  repeat' with_reducible first
    | assumption | apply State.mxStopMma_keeps | apply State.mxStopTransfer_keeps | (apply Keeps.snd; assumption)
    | (apply Keeps.trd; assumption) | apply Keeps.ite | intro _ | split | extract_lets

theorem State.mxStopBehind_keeps {k : Nat} {d : EngineCmd} (h : Keeps r s) : Keeps r (State.mxStopBehind s k d) := by
  delta State.mxStopBehind
  repeat' with_reducible first
    | assumption | apply State.modMx_keeps | apply State.mxPop_keeps | apply State.mxStopHead_keeps
    | (apply Keeps.snd; assumption) | apply Keeps.ite | intro _ | split | extract_lets

theorem State.mxStop_keeps {k : Nat} (h : Keeps r s) : Keeps r (State.mxStop s k) := by
  delta State.mxStop
  repeat' with_reducible first
    | assumption | apply State.mxStopBehind_keeps | apply State.mxStopHead_keeps | (apply Keeps.snd; assumption)
    | intro _ | split | extract_lets

theorem State.mxHold_keeps {k : Nat} {tsr : Addr} (h : Keeps r s) : Keeps r (State.mxHold s k tsr) := by
  delta State.mxHold
  repeat' with_reducible first
    | assumption | apply State.modMx_keeps | apply State.mxStop_keeps | apply Keeps.ite | intro _ | split
    | extract_lets

theorem State.mxIssue_keeps {k : Nat} {op : Nat} {check : ResidueCheck} (h : Keeps r s) :
    Keeps r (State.mxIssue s k op check) := by
  delta State.mxIssue
  repeat' with_reducible first
    | assumption | apply Issue.state_keeps | apply State.mxTry_keeps | (apply KeepsIssue.of_done; assumption)
    | (apply KeepsIssue.of_fault; assumption) | apply Keeps.ite | intro _ | split | extract_lets

theorem State.mxAbandonOne_keeps {k : Nat} {c : EngineCmd} (h : Keeps r s) : Keeps r (State.mxAbandonOne s k c) := by
  delta State.mxAbandonOne
  repeat' with_reducible first
    | assumption | apply State.drawBytes_keeps | apply State.modMx_keeps | apply State.pageIs_keeps
    | apply State.spStore_keeps | apply Keeps.fold | apply Keeps.fold2 | apply Keeps.fold3
    | (apply Keeps.snd; assumption) | apply Keeps.ite | intro _ | split | extract_lets

theorem State.mxAbandon_keeps {k : Nat} (h : Keeps r s) : Keeps r (State.mxAbandon s k) := by
  delta State.mxAbandon
  repeat' with_reducible first
    | assumption | apply State.modMx_keeps | apply State.mxAbandonOne_keeps | apply Keeps.fold | apply Keeps.fold2
    | apply Keeps.fold3 | apply Keeps.ite | intro _ | split | extract_lets

theorem State.declareImage_keeps {k : Nat} {owner : SbOwner} {j : SaveJob} (h : Keeps r s) :
    Keeps r (State.declareImage s k owner j) := by
  delta State.declareImage
  repeat' with_reducible first
    | assumption | apply State.sbAdd_keeps | apply Keeps.ite | intro _ | split | extract_lets

theorem State.mxSaveStart_keeps {k : Nat} (h : Keeps r s) : Keeps r (State.mxSaveStart s k) := by
  delta State.mxSaveStart
  repeat' with_reducible first
    | assumption | apply State.declareImage_keeps | apply State.mxWriteBacks_keeps | apply State.setFlag_keeps
    | apply State.setMx_keeps | apply Keeps.ite | intro _ | split | extract_lets

theorem State.mxRestoreStart_keeps {k : Nat} (h : Keeps r s) : Keeps r (State.mxRestoreStart s k) := by
  delta State.mxRestoreStart
  repeat' with_reducible first
    | assumption | apply State.declareImage_keeps | apply State.modMx_keeps | apply State.mxPoison_keeps
    | apply State.mxWriteBacks_keeps | apply State.setFlag_keeps | apply State.spRead_keeps
    | (apply Keeps.snd; assumption) | (apply Keeps.trd; assumption) | apply Keeps.ite | intro _ | split | extract_lets

theorem State.restoreQueue_keeps {n : Nat} {image : List Byte} (h : Keeps r s) :
    Keeps r (State.restoreQueue s n image).2 := by
  delta State.restoreQueue
  repeat' with_reducible first
    | assumption | apply State.drawNat_keeps | apply Keeps.fold | apply Keeps.fold2 | apply Keeps.fold3
    | (apply Keeps.snd; assumption) | (apply Keeps.trd; assumption) | intro _ | split | extract_lets

theorem State.mxRestoreEnd_keeps {k : Nat} {j : SaveJob} (h : Keeps r s) : Keeps r (State.mxRestoreEnd s k j) := by
  delta State.mxRestoreEnd
  repeat' with_reducible first
    | assumption | apply State.modMx_keeps | apply State.mxPoison_keeps | apply State.restoreQueue_keeps
    | apply State.setFlag_keeps | apply State.spRead_keeps | apply Keeps.fold | apply Keeps.fold2 | apply Keeps.fold3
    | (apply Keeps.snd; assumption) | (apply Keeps.trd; assumption) | apply Keeps.ite | intro _ | split | extract_lets

theorem State.mxSaveEnd_keeps {k : Nat} (h : Keeps r s) : Keeps r (State.mxSaveEnd s k) := by
  delta State.mxSaveEnd
  repeat' with_reducible first
    | assumption | apply State.declareImage_keeps | apply State.modMx_keeps | apply State.mxRestoreEnd_keeps
    | apply State.sbRelease_keeps | apply State.spStore_keeps | (apply Keeps.snd; assumption) | apply Keeps.ite
    | intro _ | split | extract_lets

theorem execTcfg_keeps {k : CcId} (h : Keeps r s) : KeepsOut r (execTcfg k s) := by
  delta execTcfg
  repeat' with_reducible first
    | assumption | apply State.mxIssue_keeps | apply KeepsOut.next | intro _ | split | extract_lets

theorem execTldR_keeps {k : CcId} (h : Keeps r s) : KeepsOut r (execTldR k s) := by
  delta execTldR
  repeat' with_reducible first
    | assumption | apply State.mxIssue_keeps | apply KeepsOut.next | intro _ | split | extract_lets

theorem execTldC_keeps {k : CcId} (h : Keeps r s) : KeepsOut r (execTldC k s) := by
  delta execTldC
  repeat' with_reducible first
    | assumption | apply State.mxIssue_keeps | apply KeepsOut.next | intro _ | split | extract_lets

theorem execTstR_keeps {k : CcId} (h : Keeps r s) : KeepsOut r (execTstR k s) := by
  delta execTstR
  repeat' with_reducible first
    | assumption | apply State.mxIssue_keeps | apply KeepsOut.next | intro _ | split | extract_lets

theorem execTstC_keeps {k : CcId} (h : Keeps r s) : KeepsOut r (execTstC k s) := by
  delta execTstC
  repeat' with_reducible first
    | assumption | apply State.mxIssue_keeps | apply KeepsOut.next | intro _ | split | extract_lets

theorem execMmaT_keeps {k : CcId} {residue : ResidueCheck} (h : Keeps r s) : KeepsOut r (execMmaT k residue s) := by
  delta execMmaT
  repeat' with_reducible first
    | assumption | apply State.mxIssue_keeps | apply KeepsOut.next | intro _ | split | extract_lets

theorem execMmaS_keeps {k : CcId} {residue : ResidueCheck} (h : Keeps r s) : KeepsOut r (execMmaS k residue s) := by
  delta execMmaS
  repeat' with_reducible first
    | assumption | apply State.mxIssue_keeps | apply KeepsOut.next | intro _ | split | extract_lets

theorem execAzero_keeps {k : CcId} (h : Keeps r s) : KeepsOut r (execAzero k s) := by
  delta execAzero
  repeat' with_reducible first
    | assumption | apply State.mxIssue_keeps | apply KeepsOut.next | intro _ | split | extract_lets

theorem execAmovC_keeps {k : CcId} (h : Keeps r s) : KeepsOut r (execAmovC k s) := by
  delta execAmovC
  repeat' with_reducible first
    | assumption | apply State.mxIssue_keeps | apply KeepsOut.next | intro _ | split | extract_lets

theorem execAmovL_keeps {k : CcId} (h : Keeps r s) : KeepsOut r (execAmovL k s) := by
  delta execAmovL
  repeat' with_reducible first
    | assumption | apply State.mxIssue_keeps | apply KeepsOut.next | intro _ | split | extract_lets

theorem execAmovS_keeps {k : CcId} (h : Keeps r s) : KeepsOut r (execAmovS k s) := by
  delta execAmovS
  repeat' with_reducible first
    | assumption | apply State.mxIssue_keeps | apply KeepsOut.next | intro _ | split | extract_lets

theorem execAcvtS_keeps {k : CcId} (h : Keeps r s) : KeepsOut r (execAcvtS k s) := by
  delta execAcvtS
  repeat' with_reducible first
    | assumption | apply State.mxIssue_keeps | apply KeepsOut.next | intro _ | split | extract_lets

theorem execAcvtT_keeps {k : CcId} (h : Keeps r s) : KeepsOut r (execAcvtT k s) := by
  delta execAcvtT
  repeat' with_reducible first
    | assumption | apply State.mxIssue_keeps | apply KeepsOut.next | intro _ | split | extract_lets

theorem execMmaWriteBack_keeps {k : CcId} (h : Keeps r s) : KeepsOut r (execMmaWriteBack k s) := by
  delta execMmaWriteBack
  repeat' with_reducible first
    | assumption | apply State.mxWriteBack_keeps | apply KeepsOut.next | apply Keeps.ite | intro _ | split
    | extract_lets

theorem execMatrixFault_keeps {k : CcId} (h : Keeps r s) : KeepsOut r (execMatrixFault k s) := by
  delta execMatrixFault
  repeat' with_reducible first
    | assumption | apply State.mxTry_keeps | apply KeepsOut.next | (apply Keeps.snd; assumption)
    | (apply KeepsIssue.of_done; assumption) | (apply KeepsIssue.of_fault; assumption) | intro _ | split
    | extract_lets

end Sys2Proof.Machine
end

