-- ==== Sys2Proof/Laws/KeepsAccess.lean ====
section
/-! SUPPORT. The operations of Machine/Access.lean leave the queue and the clock alone and keep the invariant. -/

namespace Sys2Proof.Machine

variable {r s : State}

theorem State.regCommand_keeps {rq : Requester} {blk : Nat} {off : Nat} {v : Nat} {f : State → State} (h : Keeps r s) (hf : ∀ t, Keeps r t → Keeps r (f t)) :
    Keeps r (State.regCommand s rq blk off v f) := by
  delta State.regCommand
  repeat' with_reducible first
    | assumption | apply hf | apply State.emit_keeps | apply Keeps.ite | intro _ | split | extract_lets

end Sys2Proof.Machine
end

