-- ==== Sys2Proof/Laws/KeepsLinks.lean ====
section
/-! SUPPORT. The operations of Machine/Links.lean leave the queue and the clock alone and keep the invariant. -/

namespace Sys2Proof.Machine

variable {r s : State}

theorem State.linkPush_keeps {k : Nat} {key : Nat} {m : Msg} (h : Keeps r s) :
    Keeps r (State.linkPush s k key m) := by
  delta State.linkPush
  repeat' with_reducible first
    | assumption | apply State.modLink_keeps | (apply Keeps.snd; assumption) | intro _ | split | extract_lets

theorem State.linkSync_keeps {k : Nat} {kind : MsgKind} {bar : Nat} {lost : Bool} (h : Keeps r s) :
    Keeps r (State.linkSync s k kind bar lost) := by
  delta State.linkSync
  repeat' with_reducible first
    | assumption | apply State.linkPush_keeps | apply Keeps.ite | intro _ | split | extract_lets

theorem State.portSay_keeps {p : Nat} {kind : Nat} {number : Nat} {data : List Byte} (h : Keeps r s) :
    Keeps r (State.portSay s p kind number data) := by
  delta State.portSay
  repeat' with_reducible first
    | assumption | apply State.linkPush_keeps | intro _ | split | extract_lets

end Sys2Proof.Machine
end

