-- ==== Sys2Proof/Laws/KeepsSync.lean ====
section
/-! SUPPORT. The operations of Machine/Sync.lean leave the queue and the clock alone and keep the invariant. -/

namespace Sys2Proof.Machine

variable {r s : State}

theorem State.syncFault_keeps {c : Nat} {cause : Nat} (h : Keeps r s) : Keeps r (State.syncFault s c cause) := by
  delta State.syncFault
  repeat' with_reducible first
    | assumption | apply State.raise_keeps | intro _ | split | extract_lets

theorem State.sendSig_keeps {src : Nat} {t : SigTarget} {amount : Nat} {lost : Bool} (h : Keeps r s) :
    Keeps r (State.sendSig s src t amount lost) := by
  delta State.sendSig
  repeat' with_reducible first
    | assumption | intro _ | split | extract_lets | apply Keeps.upd | rfl

theorem State.signal_keeps {c : Nat} {syncctx : Half} {glb : Bool} {ident : Nat} {amount : Nat} (h : Keeps r s) :
    Keeps r (State.signal s c syncctx glb ident amount) := by
  delta State.signal
  repeat' with_reducible first
    | assumption | apply State.sendSig_keeps | apply State.syncFault_keeps | (apply Keeps.snd; assumption) | intro _
    | split | extract_lets

/-- Fields are below the size of their width. -/
theorem bits_lt (x hi lo : Nat) : bits x hi lo < 2 ^ (hi + 1 - lo) := Nat.mod_lt _ (Nat.two_pow_pos _)

/-- Waits that complete only take from the count. -/
theorem completed_le {f : Nat × List WaitReg × List WakeMsg → WaitReg → Nat × List WaitReg × List WakeMsg}
    (hf : ∀ a w, (f a w).1 ≤ a.1) (l : List WaitReg) (a : Nat × List WaitReg × List WakeMsg) :
    (l.foldl f a).1 ≤ a.1 := by
  induction l generalizing a with
  | nil => exact Nat.le_refl _
  | cons w l ih => exact Nat.le_trans (ih _) (hf a w)

theorem State.examine_keeps {p : Nat} (h : Keeps r s) : Keeps r (State.examine s p) := by
  unfold State.examine
  extract_lets x status
  split
  rename_i count keep wakes e
  refine Keeps.upd (State.setCtr_keeps h fun hc => ?_) rfl
  have := completed_le (fun a w => ?_) x.waits (x.count, [], []) (f := fun acc w =>
      if !w.frozen && decide (w.amount ≤ acc.1) then
        (acc.1 - w.amount, acc.2.1, acc.2.2 ++ [⟨w.who, status, p⟩])
      else (acc.1, acc.2.1 ++ [w], acc.2.2))
  · rw [e] at this
    exact Nat.le_trans this hc
  · split
    · exact Nat.sub_le _ _
    · exact Nat.le_refl _

theorem State.addCount_keeps {p : Nat} {n : Nat} {lost : Bool} (h : Keeps r s) :
    Keeps r (State.addCount s p n lost) := by
  delta State.addCount
  repeat' with_reducible first
    | assumption | apply State.examine_keeps | apply State.setCtr_keeps | apply State.syncFault_keeps
    | apply Keeps.ite | intro _ | split | extract_lets | exact Nat.min_le_right _ _

theorem State.setCount_keeps {p : Nat} {n : Nat} (h : Keeps r s) (hn : n ≤ maxCount) :
    Keeps r (State.setCount s p n) := by
  delta State.setCount
  repeat' with_reducible first
    | assumption | exact hn | apply State.examine_keeps | apply State.setCtr_keeps | intro _ | split | extract_lets

theorem State.takeSig_keeps {i : Nat} (h : Keeps r s) : Keeps r (State.takeSig s i) := by
  delta State.takeSig
  repeat' with_reducible first
    | assumption | intro _ | split | extract_lets | apply Keeps.upd | rfl

theorem State.registerWait_keeps {who : Nat} {p : Nat} {amount : Nat} {tag : Option Nat} (h : Keeps r s) :
    Keeps r (State.registerWait s who p amount tag) := by
  delta State.registerWait
  repeat' with_reducible first
    | assumption | apply State.examine_keeps | apply State.setCtr_keeps | (apply Keeps.snd; assumption)
    | apply Keeps.ite | intro _ | split | extract_lets | apply Keeps.upd | rfl

theorem State.sendWait_keeps {who : Nat} {p : Nat} {amount : Nat} {tag : Option Nat} (h : Keeps r s) :
    Keeps r (State.sendWait s who p amount tag) := by
  delta State.sendWait
  repeat' with_reducible first
    | assumption | apply State.registerWait_keeps | apply Keeps.ite | intro _ | split | extract_lets | apply Keeps.upd
    | rfl

theorem State.dueWaits_keeps {who : Nat} {node : Nat} (h : Keeps r s) : Keeps r (State.dueWaits s who node) := by
  delta State.dueWaits
  repeat' with_reducible first
    | assumption | apply State.registerWait_keeps | apply Keeps.fold | apply Keeps.fold2 | apply Keeps.fold3
    | apply Keeps.ite | intro _ | split | extract_lets | apply Keeps.upd | rfl

theorem State.counterSignal_keeps {i : Nat} (h : Keeps r s) : Keeps r (State.counterSignal s i) := by
  delta State.counterSignal
  repeat' with_reducible first
    | assumption | apply State.addCount_keeps | apply State.dueWaits_keeps | apply State.takeSig_keeps
    | (apply Keeps.snd; assumption) | apply Keeps.ite | intro _ | split | extract_lets

theorem State.withdraw_keeps {who : Nat} {p : Nat} (h : Keeps r s) : Keeps r (State.withdraw s who p) := by
  delta State.withdraw
  repeat' with_reducible first
    | assumption | apply State.setCtr_keeps | intro _ | split | extract_lets

theorem State.waitComplete_keeps {i : Nat} (h : Keeps r s) : Keeps r (State.waitComplete s i) := by
  delta State.waitComplete
  repeat' with_reducible first
    | assumption | apply State.modCore_keeps | (apply Keeps.snd; assumption)
    | (apply CoreOk.same <;> first | assumption | rfl) | apply Keeps.ite | intro _ | split | extract_lets
    | apply Keeps.upd | rfl

theorem State.sendNotice_keeps {ctx : Nat} {x : CtxRec} {st : CtxState} (h : Keeps r s) :
    Keeps r (State.sendNotice s ctx x st) := by
  delta State.sendNotice
  repeat' with_reducible first
    | assumption | intro _ | split | extract_lets | apply Keeps.upd | rfl

theorem State.applyNotice_keeps {n : Notice} (h : Keeps r s) : Keeps r (State.applyNotice s n) := by
  delta State.applyNotice
  repeat' with_reducible first
    | assumption | apply State.examine_keeps | apply State.setCtr_keeps | apply Keeps.fold | apply Keeps.fold2
    | apply Keeps.fold3 | apply Keeps.ite | intro _ | split | extract_lets | apply Keeps.upd | rfl

theorem State.contextNotice_keeps {node : Nat} {ctx : Nat} (h : Keeps r s) :
    Keeps r (State.contextNotice s node ctx) := by
  delta State.contextNotice
  repeat' with_reducible first
    | assumption | apply State.applyNotice_keeps | (apply Keeps.snd; assumption) | intro _ | split | extract_lets
    | apply Keeps.upd | rfl

theorem State.localArrival_keeps {src : Nat} {bn : Nat} {amount : Nat} (h : Keeps r s) :
    Keeps r (State.localArrival s src bn amount) := by
  delta State.localArrival
  repeat' with_reducible first
    | assumption | apply State.setBar_keeps | apply State.syncFault_keeps | (apply Keeps.snd; assumption)
    | apply Keeps.ite | intro _ | split | extract_lets | apply Keeps.upd | rfl

theorem State.localNodeArrival_keeps {i : Nat} (h : Keeps r s) : Keeps r (State.localNodeArrival s i) := by
  delta State.localNodeArrival
  repeat' with_reducible first
    | assumption | apply State.dueWaits_keeps | apply State.localArrival_keeps | apply State.takeSig_keeps
    | (apply Keeps.snd; assumption) | apply Keeps.ite | intro _ | split | extract_lets

theorem State.releaseRound_keeps {bn : Nat} {lost : Bool} (h : Keeps r s) :
    Keeps r (State.releaseRound s bn lost) := by
  delta State.releaseRound
  repeat' with_reducible first
    | assumption | apply State.linkSync_keeps | apply State.sendSig_keeps | apply Keeps.fold | apply Keeps.fold2
    | apply Keeps.fold3 | intro _ | split | extract_lets

theorem State.oneRound_keeps {bn : Nat} (h : Keeps r s) : KeepsOpt r (State.oneRound s bn) := by
  delta State.oneRound
  repeat' with_reducible first
    | assumption | apply State.count_keeps | apply State.linkSync_keeps | apply State.releaseRound_keeps
    | apply State.setBar_keeps | apply Keeps.fold | apply Keeps.fold2 | apply Keeps.fold3 | exact KeepsOpt.none _
    | apply KeepsOpt.some | (apply Keeps.snd; assumption) | apply Keeps.ite | intro _ | split | extract_lets

theorem State.rounds_keeps {bn : Nat} {x2 : Nat} (h : Keeps r s) : Keeps r (State.rounds bn x2 s) := by
  induction x2 generalizing s with
  | zero =>
    dsimp only [State.rounds]
    repeat' with_reducible first
      | assumption | apply State.oneRound_keeps | apply Keeps.fold | apply Keeps.fold2 | apply Keeps.fold3
      | (apply Keeps.snd; assumption) | (apply KeepsOpt.of; assumption) | apply Keeps.ite | intro _ | split
      | extract_lets
  | succ n ih =>
    dsimp only [State.rounds]
    repeat' with_reducible first
      | assumption | apply ih | apply State.oneRound_keeps | apply Keeps.fold | apply Keeps.fold2 | apply Keeps.fold3
      | (apply Keeps.snd; assumption) | (apply KeepsOpt.of; assumption) | apply Keeps.ite | intro _ | split
      | extract_lets

theorem State.tryRound_keeps {bn : Nat} (h : Keeps r s) : Keeps r (State.tryRound s bn) := by
  delta State.tryRound
  repeat' with_reducible first
    | assumption | apply State.rounds_keeps | intro _ | split | extract_lets

theorem State.dieNodeArrival_keeps {i : Nat} (h : Keeps r s) : Keeps r (State.dieNodeArrival s i) := by
  delta State.dieNodeArrival
  repeat' with_reducible first
    | assumption | apply State.setBar_keeps | apply State.syncFault_keeps | apply State.tryRound_keeps
    | (apply Keeps.snd; assumption) | apply Keeps.ite | intro _ | split | extract_lets | apply Keeps.upd | rfl

theorem State.childArrival_keeps {link : Nat} {bn : Nat} {lost : Bool} (h : Keeps r s) :
    Keeps r (State.childArrival s link bn lost) := by
  delta State.childArrival
  repeat' with_reducible first
    | assumption | apply State.setBar_keeps | apply State.tryRound_keeps | apply Keeps.ite | intro _ | split
    | extract_lets

theorem State.parentRelease_keeps {bn : Nat} {lost : Bool} (h : Keeps r s) :
    Keeps r (State.parentRelease s bn lost) := by
  delta State.parentRelease
  repeat' with_reducible first
    | assumption | apply State.count_keeps | apply State.releaseRound_keeps | apply State.setBar_keeps
    | (apply Keeps.snd; assumption) | apply Keeps.ite | intro _ | split | extract_lets

theorem State.barriersLose_keeps {link : Nat} (h : Keeps r s) : Keeps r (State.barriersLose s link) := by
  delta State.barriersLose
  repeat' with_reducible first
    | assumption | apply State.count_keeps | apply State.releaseRound_keeps | apply State.setBar_keeps
    | apply State.tryRound_keeps | apply Keeps.fold | apply Keeps.fold2 | apply Keeps.fold3 | apply Keeps.ite
    | intro _ | split | extract_lets

theorem State.buildTrees_keeps  (h : Keeps r s) : Keeps r (State.buildTrees s) := by
  delta State.buildTrees
  repeat' with_reducible first
    | assumption | apply State.setBar_keeps | apply State.tryRound_keeps | apply Keeps.fold | apply Keeps.fold2
    | apply Keeps.fold3 | (apply Keeps.snd; assumption) | apply Keeps.ite | intro _ | split | extract_lets

theorem State.handSetting_keeps {v : Nat} (h : Keeps r s) : Keeps r (State.handSetting s v) := by
  delta State.handSetting
  repeat' with_reducible first
    | assumption | apply State.setCount_keeps | intro _ | split | extract_lets
    | exact Nat.le_of_lt_succ (bits_lt _ 23 0)

theorem State.translationWrite_keeps {v : Nat} (h : Keeps r s) : Keeps r (State.translationWrite s v) := by
  delta State.translationWrite
  repeat' with_reducible first
    | assumption | apply Keeps.ite | intro _ | split | extract_lets | apply Keeps.upd | rfl

theorem execBarrierArrival_keeps {link : LinkId} {bar : BarrierId} {lost : Bool} (h : Keeps r s) :
    KeepsOut r (execBarrierArrival link bar lost s) := by
  delta execBarrierArrival
  repeat' with_reducible first
    | assumption | apply State.childArrival_keeps | apply KeepsOut.next | intro _ | split | extract_lets

theorem execBarrierRelease_keeps {bar : BarrierId} {lost : Bool} (h : Keeps r s) :
    KeepsOut r (execBarrierRelease bar lost s) := by
  delta execBarrierRelease
  repeat' with_reducible first
    | assumption | apply State.parentRelease_keeps | apply KeepsOut.next | intro _ | split | extract_lets

theorem execHandSetting_keeps {rq : Requester} {value : BitVec 32} (h : Keeps r s) :
    KeepsOut r (execHandSetting rq value s) := by
  delta execHandSetting
  repeat' with_reducible first
    | assumption | apply State.handSetting_keeps | apply State.regCommand_keeps | apply KeepsOut.next | intro _
    | split | extract_lets

theorem execTranslationWrite_keeps {rq : Requester} {value : BitVec 32} (h : Keeps r s) :
    KeepsOut r (execTranslationWrite rq value s) := by
  delta execTranslationWrite
  repeat' with_reducible first
    | assumption | apply State.regCommand_keeps | apply State.translationWrite_keeps | apply KeepsOut.next
    | apply Keeps.ite | intro _ | split | extract_lets

theorem execCounterSignal_keeps {index : Nat} (h : Keeps r s) : KeepsOut r (execCounterSignal index s) := by
  delta execCounterSignal
  repeat' with_reducible first
    | assumption | apply State.counterSignal_keeps | apply KeepsOut.next | intro _ | split | extract_lets

theorem execWaitComplete_keeps {index : Nat} (h : Keeps r s) : KeepsOut r (execWaitComplete index s) := by
  delta execWaitComplete
  repeat' with_reducible first
    | assumption | apply State.waitComplete_keeps | apply KeepsOut.next | intro _ | split | extract_lets

theorem execContextNotice_keeps {node : ClusterId} {ctx : CtxId} (h : Keeps r s) :
    KeepsOut r (execContextNotice node ctx s) := by
  delta execContextNotice
  repeat' with_reducible first
    | assumption | apply State.contextNotice_keeps | apply KeepsOut.next | intro _ | split | extract_lets

theorem execLocalNodeArrival_keeps {index : Nat} (h : Keeps r s) : KeepsOut r (execLocalNodeArrival index s) := by
  delta execLocalNodeArrival
  repeat' with_reducible first
    | assumption | apply State.localNodeArrival_keeps | apply KeepsOut.next | intro _ | split | extract_lets

theorem execDieNodeArrival_keeps {index : Nat} (h : Keeps r s) : KeepsOut r (execDieNodeArrival index s) := by
  delta execDieNodeArrival
  repeat' with_reducible first
    | assumption | apply State.dieNodeArrival_keeps | apply KeepsOut.next | intro _ | split | extract_lets

end Sys2Proof.Machine
end

