-- ==== Sys2Proof/Laws/KeepsVector.lean ====
section
/-! SUPPORT. The operations of Machine/Vector.lean leave the queue and the clock alone and keep the invariant. -/

namespace Sys2Proof.Machine

variable {r s : State}

/-- What a look at the head of a queue keeps. -/
def KeepsVxHead (r : State) : VxHead → Prop
  | .wait => True
  | .refused t => Keeps r t
  | .go _ _ _ t => Keeps r t

theorem KeepsVxHead.wait (r : State) : KeepsVxHead r .wait := trivial
theorem KeepsVxHead.refused {r t : State} (h : Keeps r t) : KeepsVxHead r (.refused t) := h
theorem KeepsVxHead.go {r t : State} {c : EngineCmd} {rd wr : List (Nat × PageIs)} (h : Keeps r t) : KeepsVxHead r (.go c rd wr t) := h
theorem KeepsVxHead.of_refused {r t : State} {i : VxHead} (e : i = .refused t) (h : KeepsVxHead r i) : Keeps r t := by
  subst e; exact h
theorem KeepsVxHead.of_go {r t : State} {i : VxHead} {c : EngineCmd} {rd wr : List (Nat × PageIs)} (e : i = .go c rd wr t)
    (h : KeepsVxHead r i) : Keeps r t := by subst e; exact h

theorem State.vxFault_keeps {k : Nat} {cause : Nat} {pfCause : Nat} {done : Nat} {v : Nat} (h : Keeps r s) :
    Keeps r (State.vxFault s k cause pfCause done v) := by
  delta State.vxFault
  repeat' with_reducible first
    | assumption | apply State.modVx_keeps | apply State.raise_keeps | apply State.setReg_keeps
    | (apply Keeps.snd; assumption) | apply Keeps.ite | intro _ | split | extract_lets

theorem State.vxPoison_keeps {k : Nat} {g : Nat} {v : Nat} (h : Keeps r s) : Keeps r (State.vxPoison s k g v) := by
  delta State.vxPoison
  repeat' with_reducible first
    | assumption | apply State.engineSpFault_keeps | apply State.modVx_keeps | intro _ | split | extract_lets

theorem State.vxPop_keeps {k : Nat} (h : Keeps r s) : Keeps r (State.vxPop s k) := by
  delta State.vxPop
  repeat' with_reducible first
    | assumption | apply State.modVx_keeps | (apply Keeps.snd; assumption) | apply Keeps.ite | intro _ | split
    | extract_lets

theorem State.vxSat_keeps {k : Nat} {sat : Bool} (h : Keeps r s) : Keeps r (State.vxSat s k sat) := by
  delta State.vxSat
  repeat' with_reducible first
    | assumption | apply State.setFlag_keeps | apply Keeps.ite | intro _ | split | extract_lets

theorem State.vxChunkRun_keeps {k : Nat} {c : EngineCmd} {rd : List (Nat × PageIs)} {wr : List (Nat × PageIs)} {n : Nat} (h : Keeps r s) :
    Keeps r (State.vxChunkRun s k c rd wr n).2 := by
  delta State.vxChunkRun
  repeat' with_reducible first
    | assumption | apply State.modVx_keeps | apply State.readSpan_keeps | apply State.writeWhole_keeps
    | (apply Keeps.snd; assumption) | (apply Keeps.trd; assumption) | apply Keeps.ite | intro _ | split | extract_lets

theorem State.vxRunChunks_keeps {k : Nat} {c : EngineCmd} {rd : List (Nat × PageIs)} {wr : List (Nat × PageIs)} {first : Nat} {n : Nat} (h : Keeps r s) :
    Keeps r (State.vxRunChunks s k c rd wr first n).2.2 := by
  delta State.vxRunChunks
  repeat' with_reducible first
    | assumption | apply State.vxChunkRun_keeps | apply Keeps.fold | apply Keeps.fold2 | apply Keeps.fold3
    | (apply Keeps.snd; assumption) | (apply Keeps.trd; assumption) | intro _ | split | extract_lets

theorem State.vxRun_keeps {k : Nat} {c : EngineCmd} {rd : List (Nat × PageIs)} {wr : List (Nat × PageIs)} (h : Keeps r s) :
    KeepsIssue r (State.vxRun s k c rd wr) := by
  delta State.vxRun
  repeat' with_reducible first
    | assumption | apply State.modVx_keeps | apply State.vxFault_keeps | apply State.vxPoison_keeps
    | apply State.vxPop_keeps | apply State.vxRunChunks_keeps | apply State.vxSat_keeps
    | (apply Keeps.snd; assumption) | (apply Keeps.trd; assumption) | exact KeepsIssue.wait _ | apply KeepsIssue.done
    | apply KeepsIssue.fault | apply Keeps.ite | intro _ | split | extract_lets

theorem State.vxPages_keeps {k : Nat} {c : EngineCmd} (h : Keeps r s) : Keeps r (State.vxPages s k c).2 := by
  delta State.vxPages
  repeat' with_reducible first
    | assumption | apply State.pageTable_keeps | exact KeepsOpt.none _ | apply KeepsOpt.some
    | (apply Keeps.snd; assumption) | (apply Keeps.trd; assumption) | apply Keeps.ite | intro _ | split | extract_lets

theorem State.vxLook_keeps {k : Nat} (h : Keeps r s) : KeepsVxHead r (State.vxLook s k) := by
  delta State.vxLook
  repeat' with_reducible first
    | assumption | apply State.vxFault_keeps | apply State.vxPages_keeps | (apply Keeps.snd; assumption)
    | exact KeepsVxHead.wait _ | apply KeepsVxHead.refused | apply KeepsVxHead.go | apply Keeps.ite | intro _ | split
    | extract_lets

theorem State.vxTry_keeps {k : Nat} (h : Keeps r s) : KeepsIssue r (State.vxTry s k) := by
  delta State.vxTry
  repeat' with_reducible first
    | assumption | apply State.vxLook_keeps | apply State.vxRun_keeps | (apply Keeps.snd; assumption)
    | exact KeepsIssue.wait _ | apply KeepsIssue.done | apply KeepsIssue.fault
    | (apply KeepsIssue.of_done; assumption) | (apply KeepsIssue.of_fault; assumption)
    | (apply KeepsVxHead.of_refused; assumption) | (apply KeepsVxHead.of_go; assumption) | intro _ | split
    | extract_lets

theorem State.vxStop_keeps {k : Nat} (h : Keeps r s) : Keeps r (State.vxStop s k) := by
  delta State.vxStop
  repeat' with_reducible first
    | assumption | apply State.drawNat_keeps | apply State.modVx_keeps | apply State.vxLook_keeps
    | apply State.vxRunChunks_keeps | (apply Keeps.snd; assumption) | (apply Keeps.trd; assumption)
    | (apply KeepsVxHead.of_refused; assumption) | (apply KeepsVxHead.of_go; assumption) | apply Keeps.ite | intro _
    | split | extract_lets

theorem State.vxHold_keeps {k : Nat} {tsr : Addr} (h : Keeps r s) : Keeps r (State.vxHold s k tsr) := by
  delta State.vxHold
  repeat' with_reducible first
    | assumption | apply State.modVx_keeps | apply State.vxStop_keeps | apply Keeps.ite | intro _ | split
    | extract_lets

theorem State.vxIssue_keeps {k : Nat} {op : Nat} {p : EngineCmd → Bool} (h : Keeps r s) :
    Keeps r (State.vxIssue s k op p) := by
  delta State.vxIssue
  repeat' with_reducible first
    | assumption | apply Issue.state_keeps | apply State.vxTry_keeps | (apply Keeps.snd; assumption)
    | (apply KeepsIssue.of_done; assumption) | (apply KeepsIssue.of_fault; assumption) | apply Keeps.ite | intro _
    | split | extract_lets

theorem State.vopIssue_keeps {k : Nat} {func : Nat} (h : Keeps r s) : Keeps r (State.vopIssue s k func) := by
  delta State.vopIssue
  repeat' with_reducible first
    | assumption | apply State.vxIssue_keeps | intro _ | split | extract_lets

theorem State.vxAbandon_keeps {k : Nat} (h : Keeps r s) : Keeps r (State.vxAbandon s k) := by
  delta State.vxAbandon
  repeat' with_reducible first
    | assumption | apply State.modVx_keeps | apply Keeps.ite | intro _ | split | extract_lets

theorem State.vxSaveStart_keeps {k : Nat} (h : Keeps r s) : Keeps r (State.vxSaveStart s k) := by
  delta State.vxSaveStart
  repeat' with_reducible first
    | assumption | apply State.declareImage_keeps | apply State.setFlag_keeps | apply State.setVx_keeps
    | apply Keeps.ite | intro _ | split | extract_lets

theorem State.vxRestoreStart_keeps {k : Nat} (h : Keeps r s) : Keeps r (State.vxRestoreStart s k) := by
  delta State.vxRestoreStart
  repeat' with_reducible first
    | assumption | apply State.declareImage_keeps | apply State.setFlag_keeps | apply State.setVx_keeps
    | apply State.spRead_keeps | apply State.vxPoison_keeps | (apply Keeps.snd; assumption)
    | (apply Keeps.trd; assumption) | apply Keeps.ite | intro _ | split | extract_lets

theorem State.vxRestoreEnd_keeps {k : Nat} {j : SaveJob} (h : Keeps r s) : Keeps r (State.vxRestoreEnd s k j) := by
  delta State.vxRestoreEnd
  repeat' with_reducible first
    | assumption | apply State.modVx_keeps | apply State.restoreQueue_keeps | apply State.setFlag_keeps
    | apply State.spRead_keeps | apply State.vxPoison_keeps | apply Keeps.fold | apply Keeps.fold2 | apply Keeps.fold3
    | (apply Keeps.snd; assumption) | (apply Keeps.trd; assumption) | apply Keeps.ite | intro _ | split | extract_lets

theorem State.vxSaveEnd_keeps {k : Nat} (h : Keeps r s) : Keeps r (State.vxSaveEnd s k) := by
  delta State.vxSaveEnd
  repeat' with_reducible first
    | assumption | apply State.declareImage_keeps | apply State.modVx_keeps | apply State.sbRelease_keeps
    | apply State.spStore_keeps | apply State.vxRestoreEnd_keeps | (apply Keeps.snd; assumption) | apply Keeps.ite
    | intro _ | split | extract_lets

theorem execVopAdd_keeps {k : CcId} (h : Keeps r s) : KeepsOut r (execVopAdd k s) := by
  delta execVopAdd
  repeat' with_reducible first
    | assumption | apply State.vopIssue_keeps | apply KeepsOut.next | intro _ | split | extract_lets

theorem execVopSub_keeps {k : CcId} (h : Keeps r s) : KeepsOut r (execVopSub k s) := by
  delta execVopSub
  repeat' with_reducible first
    | assumption | apply State.vopIssue_keeps | apply KeepsOut.next | intro _ | split | extract_lets

theorem execVopMul_keeps {k : CcId} (h : Keeps r s) : KeepsOut r (execVopMul k s) := by
  delta execVopMul
  repeat' with_reducible first
    | assumption | apply State.vopIssue_keeps | apply KeepsOut.next | intro _ | split | extract_lets

theorem execVopFma_keeps {k : CcId} (h : Keeps r s) : KeepsOut r (execVopFma k s) := by
  delta execVopFma
  repeat' with_reducible first
    | assumption | apply State.vopIssue_keeps | apply KeepsOut.next | intro _ | split | extract_lets

theorem execVopMin_keeps {k : CcId} (h : Keeps r s) : KeepsOut r (execVopMin k s) := by
  delta execVopMin
  repeat' with_reducible first
    | assumption | apply State.vopIssue_keeps | apply KeepsOut.next | intro _ | split | extract_lets

theorem execVopMax_keeps {k : CcId} (h : Keeps r s) : KeepsOut r (execVopMax k s) := by
  delta execVopMax
  repeat' with_reducible first
    | assumption | apply State.vopIssue_keeps | apply KeepsOut.next | intro _ | split | extract_lets

theorem execVopAbs_keeps {k : CcId} (h : Keeps r s) : KeepsOut r (execVopAbs k s) := by
  delta execVopAbs
  repeat' with_reducible first
    | assumption | apply State.vopIssue_keeps | apply KeepsOut.next | intro _ | split | extract_lets

theorem execVopNeg_keeps {k : CcId} (h : Keeps r s) : KeepsOut r (execVopNeg k s) := by
  delta execVopNeg
  repeat' with_reducible first
    | assumption | apply State.vopIssue_keeps | apply KeepsOut.next | intro _ | split | extract_lets

theorem execCpsgn_keeps {k : CcId} (h : Keeps r s) : KeepsOut r (execCpsgn k s) := by
  delta execCpsgn
  repeat' with_reducible first
    | assumption | apply State.vopIssue_keeps | apply KeepsOut.next | intro _ | split | extract_lets

theorem execCmpeq_keeps {k : CcId} (h : Keeps r s) : KeepsOut r (execCmpeq k s) := by
  delta execCmpeq
  repeat' with_reducible first
    | assumption | apply State.vopIssue_keeps | apply KeepsOut.next | intro _ | split | extract_lets

theorem execCmplt_keeps {k : CcId} (h : Keeps r s) : KeepsOut r (execCmplt k s) := by
  delta execCmplt
  repeat' with_reducible first
    | assumption | apply State.vopIssue_keeps | apply KeepsOut.next | intro _ | split | extract_lets

theorem execCmple_keeps {k : CcId} (h : Keeps r s) : KeepsOut r (execCmple k s) := by
  delta execCmple
  repeat' with_reducible first
    | assumption | apply State.vopIssue_keeps | apply KeepsOut.next | intro _ | split | extract_lets

theorem execCmpun_keeps {k : CcId} (h : Keeps r s) : KeepsOut r (execCmpun k s) := by
  delta execCmpun
  repeat' with_reducible first
    | assumption | apply State.vopIssue_keeps | apply KeepsOut.next | intro _ | split | extract_lets

theorem execSel_keeps {k : CcId} (h : Keeps r s) : KeepsOut r (execSel k s) := by
  delta execSel
  repeat' with_reducible first
    | assumption | apply State.vopIssue_keeps | apply KeepsOut.next | intro _ | split | extract_lets

theorem execVopMov_keeps {k : CcId} (h : Keeps r s) : KeepsOut r (execVopMov k s) := by
  delta execVopMov
  repeat' with_reducible first
    | assumption | apply State.vopIssue_keeps | apply KeepsOut.next | intro _ | split | extract_lets

theorem execVopAnd_keeps {k : CcId} (h : Keeps r s) : KeepsOut r (execVopAnd k s) := by
  delta execVopAnd
  repeat' with_reducible first
    | assumption | apply State.vopIssue_keeps | apply KeepsOut.next | intro _ | split | extract_lets

theorem execVopOr_keeps {k : CcId} (h : Keeps r s) : KeepsOut r (execVopOr k s) := by
  delta execVopOr
  repeat' with_reducible first
    | assumption | apply State.vopIssue_keeps | apply KeepsOut.next | intro _ | split | extract_lets

theorem execVopXor_keeps {k : CcId} (h : Keeps r s) : KeepsOut r (execVopXor k s) := by
  delta execVopXor
  repeat' with_reducible first
    | assumption | apply State.vopIssue_keeps | apply KeepsOut.next | intro _ | split | extract_lets

theorem execVopShl_keeps {k : CcId} (h : Keeps r s) : KeepsOut r (execVopShl k s) := by
  delta execVopShl
  repeat' with_reducible first
    | assumption | apply State.vopIssue_keeps | apply KeepsOut.next | intro _ | split | extract_lets

theorem execVopShr_keeps {k : CcId} (h : Keeps r s) : KeepsOut r (execVopShr k s) := by
  delta execVopShr
  repeat' with_reducible first
    | assumption | apply State.vopIssue_keeps | apply KeepsOut.next | intro _ | split | extract_lets

theorem execVcvt_keeps {k : CcId} (h : Keeps r s) : KeepsOut r (execVcvt k s) := by
  delta execVcvt
  repeat' with_reducible first
    | assumption | apply State.vxIssue_keeps | apply KeepsOut.next | intro _ | split | extract_lets

theorem execExp2_keeps {k : CcId} (h : Keeps r s) : KeepsOut r (execExp2 k s) := by
  delta execExp2
  repeat' with_reducible first
    | assumption | apply State.vxIssue_keeps | apply KeepsOut.next | intro _ | split | extract_lets

theorem execLog2_keeps {k : CcId} (h : Keeps r s) : KeepsOut r (execLog2 k s) := by
  delta execLog2
  repeat' with_reducible first
    | assumption | apply State.vxIssue_keeps | apply KeepsOut.next | intro _ | split | extract_lets

theorem execRcp_keeps {k : CcId} (h : Keeps r s) : KeepsOut r (execRcp k s) := by
  delta execRcp
  repeat' with_reducible first
    | assumption | apply State.vxIssue_keeps | apply KeepsOut.next | intro _ | split | extract_lets

theorem execRsqrt_keeps {k : CcId} (h : Keeps r s) : KeepsOut r (execRsqrt k s) := by
  delta execRsqrt
  repeat' with_reducible first
    | assumption | apply State.vxIssue_keeps | apply KeepsOut.next | intro _ | split | extract_lets

theorem execVredSum_keeps {k : CcId} (h : Keeps r s) : KeepsOut r (execVredSum k s) := by
  delta execVredSum
  repeat' with_reducible first
    | assumption | apply State.vxIssue_keeps | apply KeepsOut.next | intro _ | split | extract_lets

theorem execVredMax_keeps {k : CcId} (h : Keeps r s) : KeepsOut r (execVredMax k s) := by
  delta execVredMax
  repeat' with_reducible first
    | assumption | apply State.vxIssue_keeps | apply KeepsOut.next | intro _ | split | extract_lets

theorem execVredMin_keeps {k : CcId} (h : Keeps r s) : KeepsOut r (execVredMin k s) := by
  delta execVredMin
  repeat' with_reducible first
    | assumption | apply State.vxIssue_keeps | apply KeepsOut.next | intro _ | split | extract_lets

theorem execArgmax_keeps {k : CcId} (h : Keeps r s) : KeepsOut r (execArgmax k s) := by
  delta execArgmax
  repeat' with_reducible first
    | assumption | apply State.vxIssue_keeps | apply KeepsOut.next | intro _ | split | extract_lets

theorem execVbc_keeps {k : CcId} (h : Keeps r s) : KeepsOut r (execVbc k s) := by
  delta execVbc
  repeat' with_reducible first
    | assumption | apply State.vxIssue_keeps | apply KeepsOut.next | intro _ | split | extract_lets

theorem execVld_keeps {k : CcId} (h : Keeps r s) : KeepsOut r (execVld k s) := by
  delta execVld
  repeat' with_reducible first
    | assumption | apply State.vxIssue_keeps | apply KeepsOut.next | intro _ | split | extract_lets

theorem execVst_keeps {k : CcId} (h : Keeps r s) : KeepsOut r (execVst k s) := by
  delta execVst
  repeat' with_reducible first
    | assumption | apply State.vxIssue_keeps | apply KeepsOut.next | intro _ | split | extract_lets

theorem execVstrm_keeps {k : CcId} (h : Keeps r s) : KeepsOut r (execVstrm k s) := by
  delta execVstrm
  repeat' with_reducible first
    | assumption | apply State.vxIssue_keeps | apply KeepsOut.next | intro _ | split | extract_lets

theorem execVtopkS_keeps {k : CcId} (h : Keeps r s) : KeepsOut r (execVtopkS k s) := by
  delta execVtopkS
  repeat' with_reducible first
    | assumption | apply State.vxIssue_keeps | apply KeepsOut.next | intro _ | split | extract_lets

theorem execVectorFault_keeps {k : CcId} (h : Keeps r s) : KeepsOut r (execVectorFault k s) := by
  delta execVectorFault
  repeat' with_reducible first
    | assumption | apply State.vxTry_keeps | apply KeepsOut.next | (apply Keeps.snd; assumption)
    | (apply KeepsIssue.of_done; assumption) | (apply KeepsIssue.of_fault; assumption) | intro _ | split
    | extract_lets

theorem execSaveRestoreComplete_keeps {k : CcId} {engine : SaveEngine} (h : Keeps r s) :
    KeepsOut r (execSaveRestoreComplete k engine s) := by
  delta execSaveRestoreComplete
  repeat' with_reducible first
    | assumption | apply State.mxSaveEnd_keeps | apply State.vxSaveEnd_keeps | apply KeepsOut.next
    | (apply Keeps.snd; assumption) | intro _ | split | extract_lets

end Sys2Proof.Machine
end

