-- ==== Sys2Proof/Laws/KeepsArrivals.lean ====
section
/-! SUPPORT. The operations of Machine/Arrivals.lean leave the queue and the clock alone and keep the invariant. -/

namespace Sys2Proof.Machine

variable {r s : State}

theorem State.endSentStore_keeps {c : Nat} {cause : Nat} (h : Keeps r s) :
    Keeps r (State.endSentStore s c cause) := by
  delta State.endSentStore
  repeat' with_reducible first
    | assumption | apply State.modCore_keeps | (apply CoreOk.same <;> first | assumption | rfl) | apply Keeps.ite
    | intro _ | split | extract_lets | exact CoreOk.mapStores ‹_› _

theorem State.endFrameWrite_keeps {c : Nat} {cause : Nat} (h : Keeps r s) :
    Keeps r (State.endFrameWrite s c cause) := by
  delta State.endFrameWrite
  repeat' with_reducible first
    | assumption | apply State.modCore_keeps | apply KeepsOpt.map | (apply CoreOk.same <;> first | assumption | rfl)
    | apply Keeps.ite | intro _ | split | extract_lets

theorem State.writeDone_keeps {k : Nat} {plane : Nat} {m : Msg} (h : Keeps r s) :
    Keeps r (State.writeDone s k plane m) := by
  delta State.writeDone
  repeat' with_reducible first
    | assumption | apply State.ack_keeps | apply State.endFrameWrite_keeps | apply State.endSentStore_keeps
    | apply State.streamAck_keeps | apply Keeps.ite | intro _ | split | extract_lets

theorem State.writeRefused_keeps {k : Nat} {m : Msg} {reason : Nat} (h : Keeps r s) :
    Keeps r (State.writeRefused s k m reason) := by
  delta State.writeRefused
  repeat' with_reducible first
    | assumption | apply State.endFrameWrite_keeps | apply State.endSentStore_keeps | apply State.refuse_keeps
    | apply Keeps.ite | intro _ | split | extract_lets

theorem State.exitPop_keeps {k : Nat} {plane : Nat} (h : Keeps r s) : Keeps r (State.exitPop s k plane) := by
  delta State.exitPop
  repeat' with_reducible first
    | assumption | apply State.modSp_keeps | intro _ | split | extract_lets

theorem State.exitRefill_keeps {k : Nat} {plane : Nat} (h : Keeps r s) : Keeps r (State.exitRefill s k plane) := by
  delta State.exitRefill
  repeat' with_reducible first
    | assumption | apply State.crossLink_keeps | apply Keeps.ite | intro _ | split | extract_lets

theorem State.meetApertures_keeps {k : Nat} {plane : Nat} {m : Msg} {answered : Bool} (h : Keeps r s) :
    Keeps r (State.meetApertures s k plane m answered) := by
  delta State.meetApertures
  repeat' with_reducible first
    | assumption | apply State.arriveWrite_keeps | apply State.modSp_keeps | apply State.writeDone_keeps
    | apply State.writeRefused_keeps | (apply Keeps.snd; assumption) | apply Keeps.ite | intro _ | split
    | extract_lets

theorem State.apertureWrite_keeps {k : Nat} {plane : Nat} (h : Keeps r s) :
    Keeps r (State.apertureWrite s k plane) := by
  delta State.apertureWrite
  repeat' with_reducible first
    | assumption | apply State.exitPop_keeps | apply State.exitRefill_keeps | apply State.meetApertures_keeps
    | (apply Keeps.snd; assumption) | apply Keeps.ite | intro _ | split | extract_lets

theorem State.remoteRead_keeps {k : Nat} {plane : Nat} (h : Keeps r s) : Keeps r (State.remoteRead s k plane) := by
  delta State.remoteRead
  repeat' with_reducible first
    | assumption | apply State.arriveRead_keeps | apply State.exitPop_keeps | apply State.exitRefill_keeps
    | apply State.refuse_keeps | apply State.respond_keeps | (apply Keeps.snd; assumption)
    | (apply Keeps.trd; assumption) | apply Keeps.ite | intro _ | split | extract_lets

theorem State.responseLands_keeps {m : Msg} (h : Keeps r s) : Keeps r (State.responseLands s m) := by
  delta State.responseLands
  repeat' with_reducible first
    | assumption | apply State.readComes_keeps | (apply Keeps.snd; assumption) | intro _ | split | extract_lets

theorem State.readResponse_keeps {src : ResponseSource} (h : Keeps r s) : Keeps r (State.readResponse s src) := by
  delta State.readResponse
  repeat' with_reducible first
    | assumption | apply State.exitPop_keeps | apply State.exitRefill_keeps | apply State.meetApertures_keeps
    | apply State.modSlice_keeps | apply State.responseLands_keeps | apply State.responseTravels_keeps
    | (apply Keeps.snd; assumption) | apply Keeps.ite | intro _ | split | extract_lets

theorem State.heldDone_keeps {k : Nat} {l : List HeldWrite} (h : Keeps r s) : Keeps r (State.heldDone s k l) := by
  delta State.heldDone
  repeat' with_reducible first
    | assumption | apply State.writeDone_keeps | apply Keeps.fold | apply Keeps.fold2 | apply Keeps.fold3
    | apply Keeps.ite | intro _ | split | extract_lets

theorem State.slotRelease_keeps {k : Nat} (h : Keeps r s) : Keeps r (State.slotRelease s k) := by
  delta State.slotRelease
  repeat' with_reducible first
    | assumption | apply State.applyRelease_keeps | apply State.heldDone_keeps | apply State.modSp_keeps
    | (apply Keeps.snd; assumption) | apply Keeps.ite | intro _ | split | extract_lets

theorem State.eccWriteBack_keeps {k : Nat} (h : Keeps r s) : Keeps r (State.eccWriteBack s k) := by
  delta State.eccWriteBack
  repeat' with_reducible first
    | assumption | apply State.modSp_keeps | apply State.setCode_keeps | (apply Keeps.snd; assumption)
    | apply Keeps.ite | intro _ | split | extract_lets

theorem State.refuseHeld_keeps {k : Nat} {n : Nat} (h : Keeps r s) : Keeps r (State.refuseHeld s k n) := by
  delta State.refuseHeld
  repeat' with_reducible first
    | assumption | apply State.modSp_keeps | apply State.noteRefused_keeps | apply State.writeRefused_keeps
    | apply Keeps.fold | apply Keeps.fold2 | apply Keeps.fold3 | apply Keeps.ite | intro _ | split | extract_lets

theorem State.apCtrlWrite_keeps {k : Nat} {n : Nat} {v : Nat} (h : Keeps r s) :
    Keeps r (State.apCtrlWrite s k n v) := by
  delta State.apCtrlWrite
  repeat' with_reducible first
    | assumption | apply State.refuseHeld_keeps | apply State.writeApCtrl_keeps | apply Keeps.ite | intro _ | split
    | extract_lets

theorem State.apertureClosed_keeps {k : Nat} {n : Nat} (h : Keeps r s) : Keeps r (State.apertureClosed s k n) := by
  delta State.apertureClosed
  repeat' with_reducible first
    | assumption | apply State.setAp_keeps | (apply Keeps.snd; assumption) | apply Keeps.ite | intro _ | split
    | extract_lets

theorem State.heldTimeout_keeps {k : Nat} {ap : Nat} {slot : Nat} (h : Keeps r s) :
    Keeps r (State.heldTimeout s k ap slot) := by
  delta State.heldTimeout
  repeat' with_reducible first
    | assumption | apply State.modSp_keeps | apply State.noteRefused_keeps | apply State.raise_keeps
    | apply State.spFault_keeps | apply State.writeRefused_keeps | (apply Keeps.snd; assumption) | apply Keeps.ite
    | intro _ | split | extract_lets

theorem State.slotTimeout_keeps {k : Nat} {w : SlotWaiter} (h : Keeps r s) : Keeps r (State.slotTimeout s k w) := by
  delta State.slotTimeout
  repeat' with_reducible first
    | assumption | apply State.engineSpFault_keeps | apply State.modDm_keeps | apply State.modMx_keeps
    | apply State.modVx_keeps | apply State.recordStop_keeps | (apply Keeps.snd; assumption) | apply Keeps.ite
    | intro _ | split | extract_lets

theorem execApertureWrite_keeps {k : CcId} {plane : Fin 4} (h : Keeps r s) :
    KeepsOut r (execApertureWrite k plane s) := by
  delta execApertureWrite
  repeat' with_reducible first
    | assumption | apply State.apertureWrite_keeps | apply KeepsOut.next | apply Keeps.ite | intro _ | split
    | extract_lets

theorem execRemoteRead_keeps {k : CcId} {plane : Fin 4} (h : Keeps r s) : KeepsOut r (execRemoteRead k plane s) := by
  delta execRemoteRead
  repeat' with_reducible first
    | assumption | apply State.remoteRead_keeps | apply KeepsOut.next | intro _ | split | extract_lets

theorem execEccWriteBack_keeps {k : CcId} (h : Keeps r s) : KeepsOut r (execEccWriteBack k s) := by
  delta execEccWriteBack
  repeat' with_reducible first
    | assumption | apply State.eccWriteBack_keeps | apply KeepsOut.next | apply Keeps.ite | intro _ | split
    | extract_lets

theorem execApertureClosed_keeps {k : CcId} {ap : Fin 16} (h : Keeps r s) :
    KeepsOut r (execApertureClosed k ap s) := by
  delta execApertureClosed
  repeat' with_reducible first
    | assumption | apply State.apertureClosed_keeps | apply KeepsOut.next | intro _ | split | extract_lets

theorem execSlotReleaseEffect_keeps {k : CcId} (h : Keeps r s) : KeepsOut r (execSlotReleaseEffect k s) := by
  delta execSlotReleaseEffect
  repeat' with_reducible first
    | assumption | apply State.slotRelease_keeps | apply KeepsOut.next | intro _ | split | extract_lets

theorem execSlotWaitTimeout_keeps {k : CcId} {waiter : SlotWaiter} (h : Keeps r s) :
    KeepsOut r (execSlotWaitTimeout k waiter s) := by
  delta execSlotWaitTimeout
  repeat' with_reducible first
    | assumption | apply State.slotTimeout_keeps | apply KeepsOut.next | apply Keeps.ite | intro _ | split
    | extract_lets

theorem execHeldWriteTimeout_keeps {k : CcId} {ap : Fin 16} {slot : BitVec 8} (h : Keeps r s) :
    KeepsOut r (execHeldWriteTimeout k ap slot s) := by
  delta execHeldWriteTimeout
  repeat' with_reducible first
    | assumption | apply State.heldTimeout_keeps | apply KeepsOut.next | intro _ | split | extract_lets

theorem execReadResponse_keeps {src : ResponseSource} (h : Keeps r s) : KeepsOut r (execReadResponse src s) := by
  delta execReadResponse
  repeat' with_reducible first
    | assumption | apply State.readResponse_keeps | apply KeepsOut.next | intro _ | split | extract_lets

theorem execChainComplete_keeps {k : CcId} {ch : ChanId} (h : Keeps r s) : KeepsOut r (execChainComplete k ch s) := by
  delta execChainComplete
  repeat' with_reducible first
    | assumption | apply State.chainComplete_keeps | apply State.signal_keeps | apply KeepsOut.next | intro _ | split
    | extract_lets

end Sys2Proof.Machine
end

