-- ==== Sys2Proof/Laws/KeepsCaches.lean ====
section
/-! SUPPORT. The operations of Machine/Caches.lean leave the queue and the clock alone and keep the invariant. -/

namespace Sys2Proof.Machine

variable {r s : State}

theorem State.setCache_keeps {n : CacheName} {x : Cache} (h : Keeps r s) : Keeps r (State.setCache s n x) := by
  delta State.setCache
  repeat' with_reducible first
    | assumption | apply State.modCore_keeps | (apply Keeps.snd; assumption)
    | (apply CoreOk.same <;> first | assumption | rfl) | apply Keeps.ite | intro _ | split | extract_lets
    | apply Keeps.upd | rfl

theorem State.setLines_keeps {n : CacheName} {set : Nat} {l : List CacheLine} (h : Keeps r s) :
    Keeps r (State.setLines s n set l) := by
  delta State.setLines
  repeat' with_reducible first
    | assumption | apply State.setCache_keeps | intro _ | split | extract_lets

theorem State.parityError_keeps {x1 : CacheName} (h : Keeps r s) : Keeps r (State.parityError s x1) := by
  delta State.parityError
  repeat' with_reducible first
    | assumption | apply State.count_keeps | (apply Keeps.snd; assumption) | intro _ | split | extract_lets

theorem State.sweep_keeps {n : CacheName} {c : Nat} {bound : Nat} (h : Keeps r s) :
    Keeps r (State.sweep s n c bound) := by
  delta State.sweep
  repeat' with_reducible first
    | assumption | apply State.parityError_keeps | apply State.setCache_keeps | apply Keeps.fold | apply Keeps.fold2
    | apply Keeps.fold3 | (apply Keeps.snd; assumption) | intro _ | split | extract_lets

theorem State.rangeReaches_keeps {n : CacheName} {set : Nat} (h : Keeps r s) :
    Keeps r (State.rangeReaches s n set) := by
  delta State.rangeReaches
  repeat' with_reducible first
    | assumption | apply State.drawNat_keeps | apply State.sweep_keeps | apply Keeps.fold | apply Keeps.fold2
    | apply Keeps.fold3 | (apply Keeps.snd; assumption) | apply Keeps.ite | intro _ | split | extract_lets

theorem State.lookup_keeps {n : CacheName} {line : Nat} {o : Nat} {len : Nat} (h : Keeps r s) :
    Keeps r (State.lookup s n line o len).2 := by
  delta State.lookup
  repeat' with_reducible first
    | assumption | apply State.parityError_keeps | apply State.rangeReaches_keeps | apply State.setLines_keeps
    | exact KeepsOpt.none _ | apply KeepsOpt.some | (apply Keeps.snd; assumption) | (apply Keeps.trd; assumption)
    | apply Keeps.ite | intro _ | split | extract_lets

theorem State.storeTo_keeps {n : CacheName} {a : Nat} {bytes : List Byte} (h : Keeps r s) :
    Keeps r (State.storeTo s n a bytes) := by
  delta State.storeTo
  repeat' with_reducible first
    | assumption | apply State.parityError_keeps | apply State.rangeReaches_keeps | apply State.setCache_keeps
    | apply State.setLines_keeps | (apply Keeps.snd; assumption) | apply Keeps.ite | intro _ | split | extract_lets

theorem State.allocate_keeps {n : CacheName} {line : Nat} {data : List Byte} (h : Keeps r s) :
    Keeps r (State.allocate s n line data) := by
  delta State.allocate
  repeat' with_reducible first
    | assumption | apply State.setLines_keeps | apply Keeps.ite | intro _ | split | extract_lets

theorem State.dropLine_keeps {n : CacheName} {line : Nat} (h : Keeps r s) : Keeps r (State.dropLine s n line) := by
  delta State.dropLine
  repeat' with_reducible first
    | assumption | apply State.setCache_keeps | apply State.setLines_keeps | apply Keeps.ite | intro _ | split
    | extract_lets

theorem State.homeRead_keeps {c : Nat} {a : Nat} {n : Nat} (h : Keeps r s) : Keeps r (State.homeRead s c a n).2 := by
  delta State.homeRead
  repeat' with_reducible first
    | assumption | apply State.memRead_keeps | apply State.spRead_keeps | (apply Keeps.snd; assumption)
    | (apply Keeps.trd; assumption) | apply Keeps.ite | intro _ | split | extract_lets

theorem State.l2Miss_keeps {c : CoreId} {line : Nat} (h : Keeps r s) : Keeps r (State.l2Miss s c line).2 := by
  delta State.l2Miss
  repeat' with_reducible first
    | assumption | apply State.homeRead_keeps | (apply Keeps.snd; assumption) | (apply Keeps.trd; assumption)
    | apply Keeps.ite | intro _ | split | extract_lets | apply Keeps.upd | rfl

theorem State.lineSource_keeps {c : CoreId} {line : Nat} (h : Keeps r s) : Keeps r (State.lineSource s c line).2 := by
  delta State.lineSource
  repeat' with_reducible first
    | assumption | apply State.homeRead_keeps | apply State.l2Miss_keeps | apply State.lookup_keeps
    | (apply Keeps.snd; assumption) | (apply Keeps.trd; assumption) | apply Keeps.ite | intro _ | split | extract_lets

theorem State.countMiss_keeps {x1 : CacheName} (h : Keeps r s) : Keeps r (State.countMiss s x1) := by
  delta State.countMiss
  repeat' with_reducible first
    | assumption | apply State.count_keeps | (apply Keeps.snd; assumption) | intro _ | split | extract_lets

theorem State.missLine_keeps {c : CoreId} {n : CacheName} {line : Nat} (h : Keeps r s) :
    Keeps r (State.missLine s c n line).2 := by
  delta State.missLine
  repeat' with_reducible first
    | assumption | apply State.countMiss_keeps | apply State.lineSource_keeps | apply State.setCache_keeps
    | (apply Keeps.snd; assumption) | (apply Keeps.trd; assumption) | apply Keeps.ite | intro _ | split | extract_lets

theorem State.cachedRead_keeps {c : CoreId} {n : CacheName} {a : Nat} {len : Nat} (h : Keeps r s) :
    Keeps r (State.cachedRead s c n a len).2 := by
  delta State.cachedRead
  repeat' with_reducible first
    | assumption | apply State.homeRead_keeps | apply State.lookup_keeps | apply State.missLine_keeps
    | (apply Keeps.snd; assumption) | (apply Keeps.trd; assumption) | apply Keeps.ite | intro _ | split | extract_lets

theorem State.lineFill_keeps {n : CacheName} {line : Nat} (h : Keeps r s) : Keeps r (State.lineFill s n line) := by
  delta State.lineFill
  repeat' with_reducible first
    | assumption | apply State.allocate_keeps | apply State.setCache_keeps | (apply Keeps.snd; assumption)
    | apply Keeps.ite | intro _ | split | extract_lets

theorem State.enableBit_keeps {en : Field} {clean : Field} {refuse : Field} {u : Nat} {on : Bool} (h : Keeps r s) :
    Keeps r (State.enableBit s en clean refuse u on) := by
  delta State.enableBit
  repeat' with_reducible first
    | assumption | apply State.setFlag_keeps | apply Keeps.ite | intro _ | split | extract_lets

theorem State.writeCfCtrl_keeps {c : Nat} {v : Nat} (h : Keeps r s) : Keeps r (State.writeCfCtrl s c v) := by
  delta State.writeCfCtrl
  repeat' with_reducible first
    | assumption | apply State.enableBit_keeps | intro _ | split | extract_lets

theorem State.writeL2Ctrl_keeps {v : Nat} (h : Keeps r s) : Keeps r (State.writeL2Ctrl s v) := by
  delta State.writeL2Ctrl
  repeat' with_reducible first
    | assumption | apply State.enableBit_keeps | intro _ | split | extract_lets

theorem State.rangeStart_keeps {c : CoreId} {v : Nat} (h : Keeps r s) : Keeps r (State.rangeStart s c v) := by
  delta State.rangeStart
  repeat' with_reducible first
    | assumption | apply State.modCore_keeps | apply State.setCache_keeps | apply State.setFlag_keeps
    | apply Keeps.fold | apply Keeps.fold2 | apply Keeps.fold3 | (apply Keeps.snd; assumption)
    | (apply CoreOk.same <;> first | assumption | rfl) | apply Keeps.ite | intro _ | split | extract_lets

theorem State.setClean_keeps {x1 : CacheName} (h : Keeps r s) : Keeps r (State.setClean s x1) := by
  delta State.setClean
  repeat' with_reducible first
    | assumption | apply State.setFlag_keeps | (apply Keeps.snd; assumption) | intro _ | split | extract_lets

theorem State.l2Passed_keeps {c : Nat} (h : Keeps r s) : Keeps r (State.l2Passed s c) := by
  delta State.l2Passed
  repeat' with_reducible first
    | assumption | apply State.modCore_keeps | apply Keeps.fold | apply Keeps.fold2 | apply Keeps.fold3
    | apply KeepsOpt.map | (apply CoreOk.same <;> first | assumption | rfl) | apply Keeps.ite | intro _ | split
    | extract_lets

theorem State.rangeComplete_keeps {c : CoreId} (h : Keeps r s) : Keeps r (State.rangeComplete s c) := by
  delta State.rangeComplete
  repeat' with_reducible first
    | assumption | apply State.l2Passed_keeps | apply State.modCore_keeps | apply State.setClean_keeps
    | apply State.sweep_keeps | apply Keeps.fold | apply Keeps.fold2 | apply Keeps.fold3
    | (apply Keeps.snd; assumption) | (apply CoreOk.same <;> first | assumption | rfl) | apply Keeps.ite | intro _
    | split | extract_lets

theorem execLineFill_keeps {cache : CacheName} {line : Nat} (h : Keeps r s) :
    KeepsOut r (execLineFill cache line s) := by
  delta execLineFill
  repeat' with_reducible first
    | assumption | apply State.lineFill_keeps | apply KeepsOut.next | intro _ | split | extract_lets

theorem execCacheEnable_keeps {rq : Requester} {target : CacheTarget} {value : BitVec 32} (h : Keeps r s) :
    KeepsOut r (execCacheEnable rq target value s) := by
  delta execCacheEnable
  repeat' with_reducible first
    | assumption | apply State.regCommand_keeps | apply State.writeCfCtrl_keeps | apply State.writeL2Ctrl_keeps
    | apply KeepsOut.next | (apply Keeps.snd; assumption) | apply Keeps.ite | intro _ | split | extract_lets

theorem execRangeOperation_keeps {rq : Requester} {c : CoreId} {value : BitVec 32} (h : Keeps r s) :
    KeepsOut r (execRangeOperation rq c value s) := by
  delta execRangeOperation
  repeat' with_reducible first
    | assumption | apply State.rangeStart_keeps | apply State.regCommand_keeps | apply KeepsOut.next | intro _ | split
    | extract_lets

theorem execRangeComplete_keeps {c : CoreId} (h : Keeps r s) : KeepsOut r (execRangeComplete c s) := by
  delta execRangeComplete
  repeat' with_reducible first
    | assumption | apply State.rangeComplete_keeps | apply KeepsOut.next | intro _ | split | extract_lets

end Sys2Proof.Machine
end

