-- ==== Sys2Proof/Laws/KeepsContexts.lean ====
section
/-! SUPPORT. The operations of Machine/Contexts.lean leave the queue and the clock alone and keep the invariant. -/

namespace Sys2Proof.Machine

variable {r s : State}

theorem State.cmdErr_keeps {n : Nat} (h : Keeps r s) : Keeps r (State.cmdErr s n) := by
  delta State.cmdErr
  repeat' with_reducible first
    | assumption | apply State.count_keeps | intro _ | split | extract_lets

theorem State.recordWrite_keeps {ctx : Nat} {n : Nat} {lo : Bool} {hi : Bool} {v : Nat} (h : Keeps r s) :
    Keeps r (State.recordWrite s ctx n lo hi v) := by
  delta State.recordWrite
  repeat' with_reducible first
    | assumption | apply State.cmdErr_keeps | apply State.setRec_keeps | apply Keeps.fold | apply Keeps.fold2
    | apply Keeps.fold3 | (apply Keeps.snd; assumption) | apply Keeps.ite | intro _ | split | extract_lets

theorem State.moveRec_keeps {ctx : Nat} {x : CtxRec} (h : Keeps r s) : Keeps r (State.moveRec s ctx x) := by
  delta State.moveRec
  repeat' with_reducible first
    | assumption | apply State.sendNotice_keeps | apply State.setRec_keeps | apply Keeps.ite | intro _ | split
    | extract_lets

theorem State.checkReady_keeps {ctx : Nat} (h : Keeps r s) : Keeps r (State.checkReady s ctx) := by
  delta State.checkReady
  repeat' with_reducible first
    | assumption | apply State.setRec_keeps | apply Keeps.ite | intro _ | split | extract_lets

theorem State.inDoorbell_keeps {ctx : Nat} {tail : Nat} (h : Keeps r s) : Keeps r (State.inDoorbell s ctx tail) := by
  delta State.inDoorbell
  repeat' with_reducible first
    | assumption | apply State.checkReady_keeps | apply State.count_keeps | apply State.setRec_keeps | apply Keeps.ite
    | intro _ | split | extract_lets

theorem State.outDoorbell_keeps {ctx : Nat} {head : Nat} (h : Keeps r s) :
    Keeps r (State.outDoorbell s ctx head) := by
  delta State.outDoorbell
  repeat' with_reducible first
    | assumption | apply State.checkReady_keeps | apply State.count_keeps | apply State.setRec_keeps | apply Keeps.ite
    | intro _ | split | extract_lets

theorem State.ctxOpen_keeps {portB : Bool} {func : Nat} {ctx : Nat} (h : Keeps r s) :
    Keeps r (State.ctxOpen s portB func ctx) := by
  delta State.ctxOpen
  repeat' with_reducible first
    | assumption | apply State.cmdErr_keeps | apply State.setRec_keeps | apply Keeps.ite | intro _ | split
    | extract_lets

theorem State.ctxPark_keeps {ctx : Nat} (h : Keeps r s) : Keeps r (State.ctxPark s ctx) := by
  delta State.ctxPark
  repeat' with_reducible first
    | assumption | apply State.cmdErr_keeps | apply State.moveRec_keeps | apply State.setRec_keeps
    | (apply Keeps.snd; assumption) | apply Keeps.ite | intro _ | split | extract_lets

theorem State.ctxResume_keeps {ctx : Nat} (h : Keeps r s) : Keeps r (State.ctxResume s ctx) := by
  delta State.ctxResume
  repeat' with_reducible first
    | assumption | apply State.cmdErr_keeps | apply State.moveRec_keeps | apply Keeps.ite | intro _ | split
    | extract_lets

theorem State.ctxDrop_keeps {ctx : Nat} (h : Keeps r s) : Keeps r (State.ctxDrop s ctx) := by
  delta State.ctxDrop
  repeat' with_reducible first
    | assumption | apply State.cmdErr_keeps | apply State.moveRec_keeps | apply State.setRec_keeps
    | (apply Keeps.snd; assumption) | intro _ | split | extract_lets

theorem State.giveCtx_keeps {portB : Bool} {func : Nat} {ctx : Nat} (h : Keeps r s) :
    Keeps r (State.giveCtx s portB func ctx) := by
  delta State.giveCtx
  repeat' with_reducible first
    | assumption | apply State.modRec_keeps | intro _ | split | extract_lets

theorem State.ctxClaim_keeps {portB : Bool} {func : Nat} {ctx : Nat} (h : Keeps r s) :
    Keeps r (State.ctxClaim s portB func ctx) := by
  delta State.ctxClaim
  repeat' with_reducible first
    | assumption | apply State.cmdErr_keeps | apply State.giveCtx_keeps | apply Keeps.ite | intro _ | split
    | extract_lets

theorem State.ctxAssign_keeps {portB : Bool} {func : Nat} {ctx : Nat} (h : Keeps r s) :
    Keeps r (State.ctxAssign s portB func ctx) := by
  delta State.ctxAssign
  repeat' with_reducible first
    | assumption | apply State.cmdErr_keeps | apply State.giveCtx_keeps | apply Keeps.ite | intro _ | split
    | extract_lets

theorem State.ctxCommand_keeps {code : Nat} {portB : Bool} {func : Nat} {frame : Bool} {ctx : Nat} (h : Keeps r s) :
    Keeps r (State.ctxCommand s code portB func frame ctx) := by
  delta State.ctxCommand
  repeat' with_reducible first
    | assumption | apply State.cmdErr_keeps | apply State.ctxAssign_keeps | apply State.ctxClaim_keeps
    | apply State.ctxDrop_keeps | apply State.ctxOpen_keeps | apply State.ctxPark_keeps | apply State.ctxResume_keeps
    | (apply Keeps.snd; assumption) | apply Keeps.ite | intro _ | split | extract_lets

theorem State.cxEffect_keeps {x1 : CtxReq} (h : Keeps r s) : Keeps r (State.cxEffect s x1) := by
  delta State.cxEffect
  repeat' with_reducible first
    | assumption | apply State.ctxCommand_keeps | apply State.inDoorbell_keeps | apply State.outDoorbell_keeps
    | apply State.recordWrite_keeps | (apply Keeps.snd; assumption) | apply Keeps.ite | intro _ | split | extract_lets

theorem State.cxReach_keeps {x1 : CtxReq} (h : Keeps r s) : Keeps r (State.cxReach s x1) := by
  delta State.cxReach
  repeat' with_reducible first
    | assumption | apply State.cxEffect_keeps | apply Keeps.ite | intro _ | split | extract_lets | apply Keeps.upd
    | rfl

theorem State.cxReadError_keeps {kind : Nat} {slot : Nat} {ctx : Nat} (h : Keeps r s) :
    Keeps r (State.cxReadError s kind slot ctx) := by
  delta State.cxReadError
  repeat' with_reducible first
    | assumption | apply State.count_keeps | apply State.deviceEvent_keeps | apply State.setReg_keeps | intro _
    | split | extract_lets

theorem State.closeRecord_keeps {ctx : Nat} (h : Keeps r s) : Keeps r (State.closeRecord s ctx) := by
  delta State.closeRecord
  repeat' with_reducible first
    | assumption | apply State.moveRec_keeps | apply State.setRec_keeps | apply Keeps.ite | intro _ | split
    | extract_lets

theorem State.closeSlot_keeps {slot : Nat} {ctx : Nat} (h : Keeps r s) : Keeps r (State.closeSlot s slot ctx).2 := by
  delta State.closeSlot
  repeat' with_reducible first
    | assumption | apply State.closeRecord_keeps | apply State.count_keeps | apply State.cxReadError_keeps
    | apply State.dramRead_keeps | apply State.dramWrite_keeps | apply State.setRec_keeps
    | (apply Keeps.snd; assumption) | (apply Keeps.trd; assumption) | apply Keeps.ite | intro _ | split | extract_lets

theorem State.cxLate_keeps  (h : Keeps r s) : Keeps r (State.cxLate s) := by
  delta State.cxLate
  repeat' with_reducible first
    | assumption | apply State.cxEffect_keeps | apply Keeps.fold | apply Keeps.fold2 | apply Keeps.fold3 | intro _
    | split | extract_lets | apply Keeps.upd | rfl

theorem State.closeStep_keeps  (h : Keeps r s) : Keeps r (State.closeStep s) := by
  delta State.closeStep
  repeat' with_reducible first
    | assumption | apply State.closeSlot_keeps | apply State.cxLate_keeps | apply State.raiseVector_keeps
    | apply Keeps.fold | apply Keeps.fold2 | apply Keeps.fold3 | (apply Keeps.snd; assumption) | apply Keeps.ite
    | intro _ | split | extract_lets | apply Keeps.upd | rfl

theorem State.gatherTimeout_keeps  (h : Keeps r s) : Keeps r (State.gatherTimeout s) := by
  delta State.gatherTimeout
  repeat' with_reducible first
    | assumption | apply Keeps.ite | intro _ | split | extract_lets | apply Keeps.upd | rfl

theorem State.readInputs_keeps {l : List (Nat × Nat)} (h : Keeps r s) : Keeps r (State.readInputs s l).2.2 := by
  delta State.readInputs
  repeat' with_reducible first
    | assumption | apply State.cxReadError_keeps | apply State.dramRead_keeps | apply State.moveRec_keeps
    | apply State.setRec_keeps | apply Keeps.fold | apply Keeps.fold2 | apply Keeps.fold3
    | (apply Keeps.snd; assumption) | (apply Keeps.trd; assumption) | apply Keeps.ite | intro _ | split | extract_lets

theorem State.compose_keeps  (h : Keeps r s) : Keeps r (State.compose s) := by
  delta State.compose
  repeat' with_reducible first
    | assumption | apply State.dramWrite_keeps | apply State.readInputs_keeps | apply Keeps.fold | apply Keeps.fold2
    | apply Keeps.fold3 | (apply Keeps.snd; assumption) | (apply Keeps.trd; assumption) | apply Keeps.ite | intro _
    | split | extract_lets | apply Keeps.upd | rfl

theorem State.sendParts_keeps {m : SentMap} (h : Keeps r s) : Keeps r (State.sendParts s m) := by
  delta State.sendParts
  repeat' with_reducible first
    | assumption | apply State.toHub_keeps | apply Keeps.fold | apply Keeps.fold2 | apply Keeps.fold3
    | (apply Keeps.snd; assumption) | intro _ | split | extract_lets

theorem State.forwardMap_keeps {step : Nat} {map : List Byte} (h : Keeps r s) :
    Keeps r (State.forwardMap s step map) := by
  delta State.forwardMap
  repeat' with_reducible first
    | assumption | apply State.sendParts_keeps | apply Keeps.fold | apply Keeps.fold2 | apply Keeps.fold3
    | apply Keeps.ite | intro _ | split | extract_lets | apply Keeps.upd | rfl

theorem State.mapCredit_keeps {dev : Half} {step : Nat} (h : Keeps r s) : Keeps r (State.mapCredit s dev step) := by
  delta State.mapCredit
  repeat' with_reducible first
    | assumption | apply State.sendParts_keeps | (apply Keeps.snd; assumption) | apply Keeps.ite | intro _ | split
    | extract_lets | apply Keeps.upd | rfl

theorem State.resendMap_keeps {m : SentMap} (h : Keeps r s) : Keeps r (State.resendMap s m) := by
  delta State.resendMap
  repeat' with_reducible first
    | assumption | apply State.count_keeps | apply State.deviceEvent_keeps | apply State.sendParts_keeps | intro _
    | split | extract_lets

theorem State.mapResend_keeps {dev : Half} (h : Keeps r s) : Keeps r (State.mapResend s dev) := by
  delta State.mapResend
  repeat' with_reducible first
    | assumption | apply State.resendMap_keeps | apply Keeps.fold | apply Keeps.fold2 | apply Keeps.fold3 | intro _
    | split | extract_lets

theorem State.resendAll_keeps  (h : Keeps r s) : Keeps r (State.resendAll s) := by
  delta State.resendAll
  repeat' with_reducible first
    | assumption | apply State.resendMap_keeps | apply Keeps.fold | apply Keeps.fold2 | apply Keeps.fold3 | intro _
    | split | extract_lets

theorem State.sendCredit_keeps {dev : Half} {step : Nat} (h : Keeps r s) : Keeps r (State.sendCredit s dev step) := by
  delta State.sendCredit
  repeat' with_reducible first
    | assumption | apply State.toHub_keeps | intro _ | split | extract_lets

theorem State.slotMapPart_keeps {dev : Half} {step : Nat} {part : Nat} {data : List Byte} (h : Keeps r s) :
    Keeps r (State.slotMapPart s dev step part data) := by
  delta State.slotMapPart
  repeat' with_reducible first
    | assumption | apply State.sendCredit_keeps | apply State.toHub_keeps | (apply Keeps.snd; assumption)
    | apply Keeps.ite | intro _ | split | extract_lets | apply Keeps.upd | rfl

theorem State.signalRelease_keeps  (h : Keeps r s) : Keeps r (State.signalRelease s) := by
  delta State.signalRelease
  repeat' with_reducible first
    | assumption | apply State.sendSig_keeps | apply State.sendWait_keeps | (apply Keeps.snd; assumption) | intro _
    | split | extract_lets

theorem State.release_keeps  (h : Keeps r s) : Keeps r (State.release s) := by
  delta State.release
  repeat' with_reducible first
    | assumption | apply State.cxLate_keeps | apply State.forwardMap_keeps | apply State.setReg_keeps
    | apply State.signalRelease_keeps | apply Keeps.ite | intro _ | split | extract_lets | apply Keeps.upd | rfl

theorem State.followEntry_keeps {slot : Nat} {e : List Byte} (h : Keeps r s) :
    Keeps r (State.followEntry s slot e).2 := by
  delta State.followEntry
  repeat' with_reducible first
    | assumption | apply State.count_keeps | apply State.setRec_keeps | (apply Keeps.snd; assumption)
    | (apply Keeps.trd; assumption) | apply Keeps.ite | intro _ | split | extract_lets

theorem State.followerRelease_keeps  (h : Keeps r s) : Keeps r (State.followerRelease s) := by
  delta State.followerRelease
  repeat' with_reducible first
    | assumption | apply State.dramWrite_keeps | apply State.followEntry_keeps | apply State.forwardMap_keeps
    | apply State.sendCredit_keeps | apply State.setReg_keeps | apply State.signalRelease_keeps | apply Keeps.fold
    | apply Keeps.fold2 | apply Keeps.fold3 | (apply Keeps.snd; assumption) | apply Keeps.ite | intro _ | split
    | extract_lets | apply Keeps.upd | rfl

theorem execCloseStep_keeps  (h : Keeps r s) : KeepsOut r (execCloseStep s) := by
  delta execCloseStep
  repeat' with_reducible first
    | assumption | apply State.closeStep_keeps | apply KeepsOut.next | intro _ | split | extract_lets

theorem execGatherTimeout_keeps  (h : Keeps r s) : KeepsOut r (execGatherTimeout s) := by
  delta execGatherTimeout
  repeat' with_reducible first
    | assumption | apply State.gatherTimeout_keeps | apply KeepsOut.next | intro _ | split | extract_lets

theorem execCompose_keeps  (h : Keeps r s) : KeepsOut r (execCompose s) := by
  delta execCompose
  repeat' with_reducible first
    | assumption | apply State.compose_keeps | apply KeepsOut.next | intro _ | split | extract_lets

theorem execRelease_keeps  (h : Keeps r s) : KeepsOut r (execRelease s) := by
  delta execRelease
  repeat' with_reducible first
    | assumption | apply State.release_keeps | apply KeepsOut.next | intro _ | split | extract_lets

theorem execFollowerRelease_keeps  (h : Keeps r s) : KeepsOut r (execFollowerRelease s) := by
  delta execFollowerRelease
  repeat' with_reducible first
    | assumption | apply State.followerRelease_keeps | apply KeepsOut.next | intro _ | split | extract_lets

theorem execSlotMapPart_keeps {sender : BitVec 16} {stepNo : BitVec 32} {part : Fin 32} {data : List Byte} (h : Keeps r s) :
    KeepsOut r (execSlotMapPart sender stepNo part data s) := by
  delta execSlotMapPart
  repeat' with_reducible first
    | assumption | apply State.slotMapPart_keeps | apply KeepsOut.next | intro _ | split | extract_lets

theorem execMapCredit_keeps {sender : BitVec 16} {stepNo : BitVec 32} (h : Keeps r s) :
    KeepsOut r (execMapCredit sender stepNo s) := by
  delta execMapCredit
  repeat' with_reducible first
    | assumption | apply State.mapCredit_keeps | apply KeepsOut.next | intro _ | split | extract_lets

theorem execMapResend_keeps {receiver : BitVec 16} (h : Keeps r s) : KeepsOut r (execMapResend receiver s) := by
  delta execMapResend
  repeat' with_reducible first
    | assumption | apply State.mapResend_keeps | apply KeepsOut.next | intro _ | split | extract_lets

end Sys2Proof.Machine
end

