-- ==== Sys2Proof/Laws/KeepsIdentity.lean ====
section
/-! SUPPORT. The operations of Machine/Identity.lean leave the queue and the clock alone and keep the invariant. -/

namespace Sys2Proof.Machine

variable {r s : State}

theorem State.modDd_keeps {f : DeviceData → DeviceData} (h : Keeps r s) : Keeps r (State.modDd s f) := by
  delta State.modDd
  repeat' with_reducible first
    | assumption | apply Keeps.ite | intro _ | split | extract_lets | apply Keeps.upd | rfl

theorem State.writeRpt_keeps {b : List Byte} (h : Keeps r s) : Keeps r (State.writeRpt s b) := by
  delta State.writeRpt
  repeat' with_reducible first
    | assumption | apply putBytes_wf | apply Keeps.ite | intro _ | split | extract_lets | apply Keeps.upd | rfl

end Sys2Proof.Machine
end

