-- ==== Sys2Proof/Laws/KeepsOptical.lean ====
section
/-! SUPPORT. The operations of Machine/Optical.lean leave the queue and the clock alone and keep the invariant. -/

namespace Sys2Proof.Machine

variable {r s : State}

theorem State.olEvent_keeps {f : Field} (h : Keeps r s) : Keeps r (State.olEvent s f) := by
  delta State.olEvent
  repeat' with_reducible first
    | assumption | apply State.deviceEvent_keeps | apply State.setFlag_keeps | intro _ | split | extract_lets

theorem State.olPortEvent_keeps {p : Nat} {f : Field} (h : Keeps r s) : Keeps r (State.olPortEvent s p f) := by
  delta State.olPortEvent
  repeat' with_reducible first
    | assumption | apply State.olEvent_keeps | apply State.setFld_keeps | intro _ | split | extract_lets

theorem State.portDown_keeps {p : Nat} {down : Nat} {att : Nat} {retrain : Bool} (h : Keeps r s) :
    Keeps r (State.portDown s p down att retrain) := by
  delta State.portDown
  repeat' with_reducible first
    | assumption | apply State.modLink_keeps | apply State.olPortEvent_keeps | apply State.setPort_keeps
    | (apply Keeps.snd; assumption) | apply Keeps.ite | intro _ | split | extract_lets

theorem State.attFail_keeps {p : Nat} {cause : Nat} (h : Keeps r s) : Keeps r (State.attFail s p cause) := by
  delta State.attFail
  repeat' with_reducible first
    | assumption | apply State.olPortEvent_keeps | apply State.portDown_keeps | intro _ | split | extract_lets

theorem State.leaveService_keeps {p : Nat} {c : DownCause} (h : Keeps r s) : Keeps r (State.leaveService s p c) := by
  delta State.leaveService
  repeat' with_reducible first
    | assumption | apply State.attFail_keeps | apply State.portDown_keeps | (apply Keeps.snd; assumption)
    | apply Keeps.ite | intro _ | split | extract_lets

theorem State.retrain_keeps {p : Nat} (h : Keeps r s) : Keeps r (State.retrain s p) := by
  delta State.retrain
  repeat' with_reducible first
    | assumption | apply State.portDown_keeps | apply State.setPort_keeps | (apply Keeps.snd; assumption)
    | apply Keeps.ite | intro _ | split | extract_lets

theorem State.debugPorts_keeps  (h : Keeps r s) : Keeps r (State.debugPorts s) := by
  delta State.debugPorts
  repeat' with_reducible first
    | assumption | apply State.portDown_keeps | apply Keeps.fold | apply Keeps.fold2 | apply Keeps.fold3
    | apply Keeps.ite | intro _ | split | extract_lets

theorem State.narrow_keeps {p : Nat} {bad : Nat} (h : Keeps r s) : Keeps r (State.narrow s p bad) := by
  delta State.narrow
  repeat' with_reducible first
    | assumption | apply State.portDown_keeps | apply State.setPort_keeps | (apply Keeps.snd; assumption)
    | apply Keeps.ite | intro _ | split | extract_lets | apply Keeps.upd | rfl

theorem State.controlArrives_keeps {p : Nat} {payload : List Byte} (h : Keeps r s) :
    Keeps r (State.controlArrives s p payload) := by
  delta State.controlArrives
  repeat' with_reducible first
    | assumption | apply State.setPort_keeps | (apply Keeps.snd; assumption) | apply Keeps.ite | intro _ | split
    | extract_lets

theorem State.widthChange_keeps {p : Nat} (h : Keeps r s) : Keeps r (State.widthChange s p) := by
  delta State.widthChange
  repeat' with_reducible first
    | assumption | apply State.olPortEvent_keeps | apply State.setPort_keeps | apply KeepsOpt.getD
    | (apply Keeps.snd; assumption) | apply Keeps.ite | intro _ | split | extract_lets

theorem State.laserFailover_keeps {k : Nat} (h : Keeps r s) : Keeps r (State.laserFailover s k) := by
  delta State.laserFailover
  repeat' with_reducible first
    | assumption | apply State.narrow_keeps | apply Keeps.fold | apply Keeps.fold2 | apply Keeps.fold3
    | apply Keeps.ite | intro _ | split | extract_lets | apply Keeps.upd | rfl

theorem State.switchEpoch_keeps  (h : Keeps r s) : Keeps r (State.switchEpoch s) := by
  delta State.switchEpoch
  repeat' with_reducible first
    | assumption | apply State.buildTrees_keeps | apply State.modLink_keeps | apply State.modPort_keeps
    | apply State.olEvent_keeps | apply State.portSay_keeps | apply State.resendAll_keeps | apply Keeps.fold
    | apply Keeps.fold2 | apply Keeps.fold3 | apply Keeps.ite | intro _ | split | extract_lets | apply Keeps.upd | rfl

theorem State.epochWrite_keeps {v : Nat} (h : Keeps r s) : Keeps r (State.epochWrite s v) := by
  delta State.epochWrite
  repeat' with_reducible first
    | assumption | apply State.switchEpoch_keeps | apply Keeps.ite | intro _ | split | extract_lets | apply Keeps.upd
    | rfl

theorem State.epochNotice_keeps {p : Nat} {e : Nat} (h : Keeps r s) : Keeps r (State.epochNotice s p e) := by
  delta State.epochNotice
  repeat' with_reducible first
    | assumption | apply State.modPort_keeps | apply State.olEvent_keeps | apply State.switchEpoch_keeps
    | apply Keeps.ite | intro _ | split | extract_lets

theorem State.adoptEpoch_keeps {p : Nat} (h : Keeps r s) : Keeps r (State.adoptEpoch s p) := by
  delta State.adoptEpoch
  repeat' with_reducible first
    | assumption | (apply Keeps.snd; assumption) | apply Keeps.ite | intro _ | split | extract_lets | apply Keeps.upd
    | rfl

theorem State.epochReport_keeps {p : Nat} {e : Nat} (h : Keeps r s) : Keeps r (State.epochReport s p e) := by
  delta State.epochReport
  repeat' with_reducible first
    | assumption | apply State.adoptEpoch_keeps | apply State.modPort_keeps | apply Keeps.ite | intro _ | split
    | extract_lets

theorem State.routeWrite_keeps {v : Nat} (h : Keeps r s) : Keeps r (State.routeWrite s v) := by
  delta State.routeWrite
  repeat' with_reducible first
    | assumption | apply Keeps.ite | intro _ | split | extract_lets | apply Keeps.upd | rfl

theorem State.drainEnd_keeps  (h : Keeps r s) : Keeps r (State.drainEnd s) := by
  delta State.drainEnd
  repeat' with_reducible first
    | assumption | (apply Keeps.snd; assumption) | apply Keeps.ite | intro _ | split | extract_lets | apply Keeps.upd
    | rfl

theorem State.answerNonce_keeps {p : Nat} {nonce : List Byte} (h : Keeps r s) :
    Keeps r (State.answerNonce s p nonce) := by
  delta State.answerNonce
  repeat' with_reducible first
    | assumption | apply State.portSay_keeps | apply State.writeRpt_keeps | apply Keeps.fold | apply Keeps.fold2
    | apply Keeps.fold3 | apply Keeps.ite | intro _ | split | extract_lets

theorem State.startAttest_keeps {p : Nat} (h : Keeps r s) : Keeps r (State.startAttest s p) := by
  delta State.startAttest
  repeat' with_reducible first
    | assumption | apply State.answerNonce_keeps | apply State.drawBytes_keeps | apply State.portSay_keeps
    | apply State.setPort_keeps | (apply Keeps.snd; assumption) | apply Keeps.ite | intro _ | split | extract_lets

theorem State.nonceArrives_keeps {p : Nat} {nonce : List Byte} (h : Keeps r s) :
    Keeps r (State.nonceArrives s p nonce) := by
  delta State.nonceArrives
  repeat' with_reducible first
    | assumption | apply State.answerNonce_keeps | apply State.modPort_keeps | apply Keeps.ite | intro _ | split
    | extract_lets

theorem State.attCause_keeps {p : Nat} {b : List Byte} (h : Keeps r s) : Keeps r (State.attCause s p b).2 := by
  delta State.attCause
  repeat' with_reducible first
    | assumption | apply KeepsOpt.getD | apply KeepsOpt.map | (apply Keeps.snd; assumption)
    | (apply Keeps.trd; assumption) | apply Keeps.ite | intro _ | split | extract_lets | apply Keeps.upd | rfl

theorem State.reportPart_keeps {p : Nat} {part : Nat} {data : List Byte} (h : Keeps r s) :
    Keeps r (State.reportPart s p part data) := by
  delta State.reportPart
  repeat' with_reducible first
    | assumption | apply State.adoptEpoch_keeps | apply State.attCause_keeps | apply State.attFail_keeps
    | apply State.portSay_keeps | apply State.setPort_keeps | (apply Keeps.snd; assumption) | apply Keeps.ite
    | intro _ | split | extract_lets

theorem State.verdict_keeps {p : Nat} {ok : Bool} (h : Keeps r s) : Keeps r (State.verdict s p ok) := by
  delta State.verdict
  repeat' with_reducible first
    | assumption | apply State.attFail_keeps | apply State.modPort_keeps | apply Keeps.ite | intro _ | split
    | extract_lets

theorem State.notReady_keeps {p : Nat} (h : Keeps r s) : Keeps r (State.notReady s p) := by
  delta State.notReady
  repeat' with_reducible first
    | assumption | apply State.modPort_keeps | apply Keeps.ite | intro _ | split | extract_lets

theorem State.notReadyNotice_keeps {p : Nat} (h : Keeps r s) : Keeps r (State.notReadyNotice s p) := by
  delta State.notReadyNotice
  repeat' with_reducible first
    | assumption | apply State.portSay_keeps | apply Keeps.ite | intro _ | split | extract_lets

theorem State.attestationTimeout_keeps {p : Nat} (h : Keeps r s) : Keeps r (State.attestationTimeout s p) := by
  delta State.attestationTimeout
  repeat' with_reducible first
    | assumption | apply State.attFail_keeps | apply Keeps.ite | intro _ | split | extract_lets

theorem State.portTraining_keeps {p : Nat} {st : TrainStage} (h : Keeps r s) :
    Keeps r (State.portTraining s p st) := by
  delta State.portTraining
  repeat' with_reducible first
    | assumption | apply State.olPortEvent_keeps | apply State.portDown_keeps | apply State.portSay_keeps
    | apply State.setPort_keeps | apply State.startAttest_keeps | apply KeepsOpt.getD | (apply Keeps.snd; assumption)
    | apply Keeps.ite | intro _ | split | extract_lets

theorem State.heartbeat_keeps {x1 : Nat} (h : Keeps r s) : Keeps r (State.heartbeat s x1) := by
  delta State.heartbeat
  repeat' with_reducible first
    | assumption | intro _ | split | extract_lets

theorem State.routeRefuse_keeps {m : Msg} {reason : Nat} (h : Keeps r s) :
    Keeps r (State.routeRefuse s m reason) := by
  delta State.routeRefuse
  repeat' with_reducible first
    | assumption | apply State.sendResp_keeps | intro _ | split | extract_lets

theorem State.hubDrop_keeps {m : Msg} {reason : Nat} {f : Field} (h : Keeps r s) :
    Keeps r (State.hubDrop s m reason f) := by
  delta State.hubDrop
  repeat' with_reducible first
    | assumption | apply State.count_keeps | apply State.routeRefuse_keeps | apply Keeps.ite | intro _ | split
    | extract_lets

theorem State.hubDeliver_keeps {m : Msg} (h : Keeps r s) : Keeps r (State.hubDeliver s m) := by
  delta State.hubDeliver
  repeat' with_reducible first
    | assumption | apply State.mapCredit_keeps | apply State.routeRefuse_keeps | apply State.sendV_keeps
    | apply State.slotMapPart_keeps | (apply Keeps.snd; assumption) | intro _ | split | extract_lets | apply Keeps.upd
    | rfl

theorem State.hubLookup_keeps {i : Nat} (h : Keeps r s) : Keeps r (State.hubLookup s i) := by
  delta State.hubLookup
  repeat' with_reducible first
    | assumption | apply State.count_keeps | apply State.hubDeliver_keeps | apply State.hubDrop_keeps
    | apply State.linkPush_keeps | (apply Keeps.snd; assumption) | apply Keeps.ite | intro _ | split | extract_lets
    | apply Keeps.upd | rfl

theorem State.linkLost_keeps {k : Nat} (h : Keeps r s) : Keeps r (State.linkLost s k) := by
  delta State.linkLost
  repeat' with_reducible first
    | assumption | apply State.barriersLose_keeps | apply State.hubDrop_keeps | apply State.olEvent_keeps
    | apply State.setFld_keeps | apply State.setLink_keeps | apply Keeps.fold | apply Keeps.fold2 | apply Keeps.fold3
    | (apply Keeps.snd; assumption) | apply Keeps.ite | intro _ | split | extract_lets

theorem State.flitHead_keeps {p : Nat} (h : Keeps r s) : Keeps r (State.flitHead s p).2 := by
  delta State.flitHead
  repeat' with_reducible first
    | assumption | apply State.setLink_keeps | (apply Keeps.snd; assumption) | (apply Keeps.trd; assumption) | intro _
    | split | extract_lets

theorem State.emitFlit_keeps {p : Nat} {bs : List Byte} (h : Keeps r s) : Keeps r (State.emitFlit s p bs) := by
  delta State.emitFlit
  repeat' with_reducible first
    | assumption | apply State.emit_keeps | apply State.setPort_keeps | apply State.widthChange_keeps
    | apply Keeps.ite | intro _ | split | extract_lets

theorem State.sendData_keeps {p : Nat} {f : Flit} (h : Keeps r s) : Keeps r (State.sendData s p f) := by
  delta State.sendData
  repeat' with_reducible first
    | assumption | apply State.emitFlit_keeps | apply State.flitHead_keeps | (apply Keeps.snd; assumption) | intro _
    | split | extract_lets

theorem State.flitSend_keeps {p : Nat} {c : FlitChoice} (h : Keeps r s) : Keeps r (State.flitSend s p c) := by
  delta State.flitSend
  repeat' with_reducible first
    | assumption | apply State.drawBytes_keeps | apply State.emitFlit_keeps | apply State.flitHead_keeps
    | apply State.sendData_keeps | apply State.setLink_keeps | (apply Keeps.snd; assumption) | apply Keeps.ite
    | intro _ | split | extract_lets

theorem State.manage_keeps {p : Nat} {m : Msg} (h : Keeps r s) : Keeps r (State.manage s p m) := by
  delta State.manage
  repeat' with_reducible first
    | assumption | apply State.epochNotice_keeps | apply State.epochReport_keeps | apply State.heartbeat_keeps
    | apply State.nonceArrives_keeps | apply State.notReady_keeps | apply State.reportPart_keeps
    | apply State.verdict_keeps | (apply Keeps.snd; assumption) | intro _ | split | extract_lets

theorem State.linkDeliver_keeps {p : Nat} {vc : Nat} {m : Msg} (h : Keeps r s) :
    Keeps r (State.linkDeliver s p vc m) := by
  delta State.linkDeliver
  repeat' with_reducible first
    | assumption | apply State.childArrival_keeps | apply State.manage_keeps | apply State.parentRelease_keeps
    | (apply Keeps.snd; assumption) | apply Keeps.ite | intro _ | split | extract_lets | apply Keeps.upd | rfl

theorem State.flitArrives_keeps {p : Nat} {bs : List Byte} (h : Keeps r s) : Keeps r (State.flitArrives s p bs) := by
  delta State.flitArrives
  repeat' with_reducible first
    | assumption | apply State.controlArrives_keeps | apply State.linkDeliver_keeps | apply State.modLink_keeps
    | apply State.setLink_keeps | apply Keeps.fold | apply Keeps.fold2 | apply Keeps.fold3
    | (apply Keeps.snd; assumption) | apply Keeps.ite | intro _ | split | extract_lets

theorem State.flitReceive_keeps {p : Nat} {words : List (List Nat)} {i : Nat} (h : Keeps r s) :
    Keeps r (State.flitReceive s p words i) := by
  delta State.flitReceive
  repeat' with_reducible first
    | assumption | apply State.count_keeps | apply State.flitArrives_keeps | apply State.modLink_keeps
    | (apply Keeps.snd; assumption) | apply Keeps.ite | intro _ | split | extract_lets

theorem execFlitSend_keeps {port : PortId} {what : FlitChoice} (h : Keeps r s) :
    KeepsOut r (execFlitSend port what s) := by
  delta execFlitSend
  repeat' with_reducible first
    | assumption | apply State.flitSend_keeps | apply KeepsOut.next | intro _ | split | extract_lets

theorem execFlitReceive_keeps {port : PortId} {words : List (List Nat)} {index : Fin 20} (h : Keeps r s) :
    KeepsOut r (execFlitReceive port words index s) := by
  delta execFlitReceive
  repeat' with_reducible first
    | assumption | apply State.flitReceive_keeps | apply KeepsOut.next | intro _ | split | extract_lets

theorem execLaserFailover_keeps {wave : Fin 8} (h : Keeps r s) : KeepsOut r (execLaserFailover wave s) := by
  delta execLaserFailover
  repeat' with_reducible first
    | assumption | apply State.laserFailover_keeps | apply KeepsOut.next | intro _ | split | extract_lets

theorem execNarrow_keeps {port : PortId} {bad : BitVec 8} (h : Keeps r s) : KeepsOut r (execNarrow port bad s) := by
  delta execNarrow
  repeat' with_reducible first
    | assumption | apply State.narrow_keeps | apply KeepsOut.next | intro _ | split | extract_lets

theorem execWidthChange_keeps {port : PortId} (h : Keeps r s) : KeepsOut r (execWidthChange port s) := by
  delta execWidthChange
  repeat' with_reducible first
    | assumption | apply State.widthChange_keeps | apply KeepsOut.next | intro _ | split | extract_lets

theorem execLeaveService_keeps {port : PortId} {cause : DownCause} (h : Keeps r s) :
    KeepsOut r (execLeaveService port cause s) := by
  delta execLeaveService
  repeat' with_reducible first
    | assumption | apply State.leaveService_keeps | apply KeepsOut.next | intro _ | split | extract_lets

theorem execRetrain_keeps {rq : Requester} {port : PortId} (h : Keeps r s) : KeepsOut r (execRetrain rq port s) := by
  delta execRetrain
  repeat' with_reducible first
    | assumption | apply State.regCommand_keeps | apply State.retrain_keeps | apply KeepsOut.next | intro _ | split
    | extract_lets

theorem execPortTraining_keeps {port : PortId} {stage : TrainStage} (h : Keeps r s) :
    KeepsOut r (execPortTraining port stage s) := by
  delta execPortTraining
  repeat' with_reducible first
    | assumption | apply State.portTraining_keeps | apply KeepsOut.next | intro _ | split | extract_lets

theorem execLinkLost_keeps {link : LinkId} (h : Keeps r s) : KeepsOut r (execLinkLost link s) := by
  delta execLinkLost
  repeat' with_reducible first
    | assumption | apply State.linkLost_keeps | apply KeepsOut.next | intro _ | split | extract_lets

theorem execHubLookup_keeps {index : Nat} (h : Keeps r s) : KeepsOut r (execHubLookup index s) := by
  delta execHubLookup
  repeat' with_reducible first
    | assumption | apply State.hubLookup_keeps | apply KeepsOut.next | intro _ | split | extract_lets

theorem execHeartbeat_keeps {port : PortId} (h : Keeps r s) : KeepsOut r (execHeartbeat port s) := by
  delta execHeartbeat
  repeat' with_reducible first
    | assumption | apply State.heartbeat_keeps | apply KeepsOut.next | intro _ | split | extract_lets

theorem execNonce_keeps {port : PortId} {value : List Byte} (h : Keeps r s) :
    KeepsOut r (execNonce port value s) := by
  delta execNonce
  repeat' with_reducible first
    | assumption | apply State.nonceArrives_keeps | apply KeepsOut.next | intro _ | split | extract_lets

theorem execReportPart_keeps {port : PortId} {part : Fin 74} {data : List Byte} (h : Keeps r s) :
    KeepsOut r (execReportPart port part data s) := by
  delta execReportPart
  repeat' with_reducible first
    | assumption | apply State.reportPart_keeps | apply KeepsOut.next | intro _ | split | extract_lets

theorem execVerdict_keeps {port : PortId} {accepted : Bool} (h : Keeps r s) :
    KeepsOut r (execVerdict port accepted s) := by
  delta execVerdict
  repeat' with_reducible first
    | assumption | apply State.verdict_keeps | apply KeepsOut.next | intro _ | split | extract_lets

theorem execNotReady_keeps {port : PortId} (h : Keeps r s) : KeepsOut r (execNotReady port s) := by
  delta execNotReady
  repeat' with_reducible first
    | assumption | apply State.notReady_keeps | apply KeepsOut.next | intro _ | split | extract_lets

theorem execNotReadyNotice_keeps {port : PortId} (h : Keeps r s) : KeepsOut r (execNotReadyNotice port s) := by
  delta execNotReadyNotice
  repeat' with_reducible first
    | assumption | apply State.notReadyNotice_keeps | apply KeepsOut.next | intro _ | split | extract_lets

theorem execAttestationTimeout_keeps {port : PortId} (h : Keeps r s) :
    KeepsOut r (execAttestationTimeout port s) := by
  delta execAttestationTimeout
  repeat' with_reducible first
    | assumption | apply State.attestationTimeout_keeps | apply KeepsOut.next | intro _ | split | extract_lets

theorem execEpochReport_keeps {port : PortId} {epoch : BitVec 16} (h : Keeps r s) :
    KeepsOut r (execEpochReport port epoch s) := by
  delta execEpochReport
  repeat' with_reducible first
    | assumption | apply State.epochReport_keeps | apply KeepsOut.next | intro _ | split | extract_lets

theorem execEpochNotice_keeps {port : PortId} {epoch : BitVec 16} (h : Keeps r s) :
    KeepsOut r (execEpochNotice port epoch s) := by
  delta execEpochNotice
  repeat' with_reducible first
    | assumption | apply State.epochNotice_keeps | apply KeepsOut.next | intro _ | split | extract_lets

theorem execArm_keeps {rq : Requester} (h : Keeps r s) : KeepsOut r (execArm rq s) := by
  delta execArm
  repeat' with_reducible first
    | assumption | apply State.epochWrite_keeps | apply State.regCommand_keeps | apply KeepsOut.next | apply Keeps.ite
    | intro _ | split | extract_lets

theorem execGo_keeps {rq : Requester} (h : Keeps r s) : KeepsOut r (execGo rq s) := by
  delta execGo
  repeat' with_reducible first
    | assumption | apply State.epochWrite_keeps | apply State.regCommand_keeps | apply KeepsOut.next | apply Keeps.ite
    | intro _ | split | extract_lets

theorem execRouteTableWrite_keeps {rq : Requester} {value : BitVec 32} (h : Keeps r s) :
    KeepsOut r (execRouteTableWrite rq value s) := by
  delta execRouteTableWrite
  repeat' with_reducible first
    | assumption | apply State.regCommand_keeps | apply State.routeWrite_keeps | apply KeepsOut.next | apply Keeps.ite
    | intro _ | split | extract_lets

theorem execDrainEnd_keeps  (h : Keeps r s) : KeepsOut r (execDrainEnd s) := by
  delta execDrainEnd
  repeat' with_reducible first
    | assumption | apply State.drainEnd_keeps | apply KeepsOut.next | intro _ | split | extract_lets

end Sys2Proof.Machine
end

