-- ==== Sys2Proof/Laws/KeepsPcie.lean ====
section
/-! SUPPORT. The operations of Machine/Pcie.lean leave the queue and the clock alone and keep the invariant. -/

namespace Sys2Proof.Machine

variable {r s : State}

theorem State.refuseInbox_keeps {p : Nat} {pick : Nat → Bool} (h : Keeps r s) :
    Keeps r (State.refuseInbox s p pick) := by
  delta State.refuseInbox
  repeat' with_reducible first
    | assumption | apply State.hostFails_keeps | apply State.setPx_keeps | apply Keeps.fold | apply Keeps.fold2
    | apply Keeps.fold3 | intro _ | split | extract_lets

theorem State.dropWrites_keeps {p : Nat} {pick : Nat → Bool} (h : Keeps r s) :
    Keeps r (State.dropWrites s p pick) := by
  delta State.dropWrites
  repeat' with_reducible first
    | assumption | apply State.count_keeps | apply State.setPx_keeps | intro _ | split | extract_lets

theorem State.linkDown_keeps {p : Nat} (h : Keeps r s) : Keeps r (State.linkDown s p) := by
  delta State.linkDown
  repeat' with_reducible first
    | assumption | apply State.dropWrites_keeps | apply State.modPx_keeps | apply State.refuseInbox_keeps
    | apply Keeps.ite | intro _ | split | extract_lets

theorem State.portReset_keeps {p : Nat} (h : Keeps r s) : Keeps r (State.portReset s p) := by
  delta State.portReset
  repeat' with_reducible first
    | assumption | apply State.linkDown_keeps | apply State.modPx_keeps | apply State.setFld_keeps
    | (apply Keeps.snd; assumption) | intro _ | split | extract_lets

theorem State.dropFunction_keeps {p : Nat} {f : Nat} (h : Keeps r s) : Keeps r (State.dropFunction s p f) := by
  delta State.dropFunction
  repeat' with_reducible first
    | assumption | apply State.dropWrites_keeps | apply State.refuseInbox_keeps | apply Keeps.ite | intro _ | split
    | extract_lets

theorem State.flr_keeps {p : Nat} {f : Nat} (h : Keeps r s) : Keeps r (State.flr s p f) := by
  delta State.flr
  repeat' with_reducible first
    | assumption | apply State.dropFunction_keeps | apply State.modPx_keeps | (apply Keeps.snd; assumption)
    | apply Keeps.ite | intro _ | split | extract_lets

theorem State.found_keeps {p : Nat} {beat : Bool} (h : Keeps r s) : Keeps r (State.found s p beat) := by
  delta State.found
  repeat' with_reducible first
    | assumption | apply State.modPx_keeps | apply Keeps.ite | intro _ | split | extract_lets

theorem State.linkComesUp_keeps {p : Nat} {speed : Nat} {width : Nat} (h : Keeps r s) :
    Keeps r (State.linkComesUp s p speed width) := by
  delta State.linkComesUp
  repeat' with_reducible first
    | assumption | apply State.found_keeps | apply State.modPx_keeps | apply Keeps.ite | intro _ | split
    | extract_lets

theorem State.portLost_keeps {p : Nat} (h : Keeps r s) : Keeps r (State.portLost s p) := by
  delta State.portLost
  repeat' with_reducible first
    | assumption | apply State.deviceEvent_keeps | apply State.hostEvent_keeps | apply State.setPx_keeps
    | apply Keeps.ite | intro _ | split | extract_lets

theorem State.readFails_keeps {p : Nat} {x2 : HostRead} (h : Keeps r s) : Keeps r (State.readFails s p x2) := by
  delta State.readFails
  repeat' with_reducible first
    | assumption | apply State.count_keeps | apply State.hostFails_keeps | apply State.modPx_keeps | intro _ | split
    | extract_lets

theorem State.hostCompletion_keeps {p : Nat} {tag : Nat} {st : CompletionStatus} {data : List Byte} (h : Keeps r s) :
    Keeps r (State.hostCompletion s p tag st data) := by
  delta State.hostCompletion
  repeat' with_reducible first
    | assumption | apply State.aerError_keeps | apply State.endHostLoad_keeps | apply State.issueReads_keeps
    | apply State.readFails_keeps | apply State.respond_keeps | apply State.setPx_keeps
    | (apply Keeps.snd; assumption) | apply Keeps.ite | intro _ | split | extract_lets

theorem State.completionTimeout_keeps {p : Nat} {tag : Nat} (h : Keeps r s) :
    Keeps r (State.completionTimeout s p tag) := by
  delta State.completionTimeout
  repeat' with_reducible first
    | assumption | apply State.aerError_keeps | apply State.issueReads_keeps | apply State.readFails_keeps
    | (apply Keeps.snd; assumption) | apply Keeps.ite | intro _ | split | extract_lets

theorem State.hostWindowWrite_keeps {p : Nat} (h : Keeps r s) : Keeps r (State.hostWindowWrite s p) := by
  delta State.hostWindowWrite
  repeat' with_reducible first
    | assumption | apply State.ack_keeps | apply State.hostAccept_keeps | apply State.hostFails_keeps
    | apply State.issueReads_keeps | apply State.modPx_keeps | (apply Keeps.snd; assumption)
    | (apply KeepsOpt.of; assumption) | apply Keeps.ite | intro _ | split | extract_lets

theorem State.setFn_keeps {p : Nat} {f : Nat} {g : FnCfg → FnCfg} (h : Keeps r s) :
    Keeps r (State.setFn s p f g) := by
  delta State.setFn
  repeat' with_reducible first
    | assumption | apply State.modPx_keeps | (apply Keeps.snd; assumption) | intro _ | split | extract_lets

theorem State.setAer_keeps {p : Nat} {f : Nat} {g : Aer → Aer} (h : Keeps r s) : Keeps r (State.setAer s p f g) := by
  delta State.setAer
  repeat' with_reducible first
    | assumption | apply State.setFn_keeps | intro _ | split | extract_lets

theorem State.configWrite_keeps {p : Nat} {f : Nat} {q : ConfigField} {v : Nat} (h : Keeps r s) :
    Keeps r (State.configWrite s p f q v) := by
  delta State.configWrite
  repeat' with_reducible first
    | assumption | apply State.flr_keeps | apply State.modPx_keeps | apply State.sendPending_keeps
    | apply State.setAer_keeps | apply State.setFn_keeps | (apply Keeps.snd; assumption) | apply Keeps.ite | intro _
    | split | extract_lets

theorem State.configServe_keeps {p : Nat} {f : Nat} {op : ConfigOp} (h : Keeps r s) :
    Keeps r (State.configServe s p f op) := by
  delta State.configServe
  repeat' with_reducible first
    | assumption | apply State.complete_keeps | apply State.configWrite_keeps | (apply Keeps.snd; assumption)
    | apply Keeps.ite | intro _ | split | extract_lets

theorem State.poisonUnits_keeps {a : Nat} {n : Nat} (h : Keeps r s) : Keeps r (State.poisonUnits s a n) := by
  delta State.poisonUnits
  repeat' with_reducible first
    | assumption | apply State.endWindow_keeps | apply State.poisonUnit_keeps | apply Keeps.fold | apply Keeps.fold2
    | apply Keeps.fold3 | (apply Keeps.snd; assumption) | intro _ | split | extract_lets

theorem State.hostDramWrite_keeps {a : Nat} {data : List Byte} {be : List Bool} {poison : Bool} (h : Keeps r s) :
    Keeps r (State.hostDramWrite s a data be poison) := by
  delta State.hostDramWrite
  repeat' with_reducible first
    | assumption | apply State.dramWrite_keeps | apply State.poisonUnits_keeps | (apply Keeps.snd; assumption)
    | apply Keeps.ite | intro _ | split | extract_lets

theorem State.hostDramBytes_keeps {a : Nat} {n : Nat} (h : Keeps r s) : Keeps r (State.hostDramBytes s a n).2.2 := by
  delta State.hostDramBytes
  repeat' with_reducible first
    | assumption | apply State.dramRead_keeps | apply State.drawBytes_keeps | (apply Keeps.snd; assumption)
    | (apply Keeps.trd; assumption) | intro _ | split | extract_lets

theorem State.hostDramRead_keeps {p : Nat} {f : Nat} {a : Nat} {n : Nat} (h : Keeps r s) :
    Keeps r (State.hostDramRead s p f a n) := by
  delta State.hostDramRead
  repeat' with_reducible first
    | assumption | apply State.complete_keeps | apply State.hostDramBytes_keeps | (apply Keeps.snd; assumption)
    | (apply Keeps.trd; assumption) | intro _ | split | extract_lets

theorem State.ringWrite_keeps {p : Nat} {f : Nat} {ctx : Nat} {fo : Nat} {data : List Byte} {be : List Bool} {poison : Bool} (h : Keeps r s) :
    Keeps r (State.ringWrite s p f ctx fo data be poison) := by
  delta State.ringWrite
  repeat' with_reducible first
    | assumption | apply State.dramWrite_keeps | apply State.poisonUnits_keeps | (apply Keeps.snd; assumption)
    | apply Keeps.ite | intro _ | split | extract_lets

theorem State.ringBytes_keeps {p : Nat} {f : Nat} {ctx : Nat} {fo : Nat} {n : Nat} (h : Keeps r s) :
    Keeps r (State.ringBytes s p f ctx fo n).2.2 := by
  delta State.ringBytes
  repeat' with_reducible first
    | assumption | apply State.hostDramBytes_keeps | (apply Keeps.snd; assumption) | (apply Keeps.trd; assumption)
    | apply Keeps.ite | intro _ | split | extract_lets

theorem State.frameWrite_keeps {p : Nat} {f : Nat} {poison : Bool} {d : FrameDw} (h : Keeps r s) :
    Keeps r (State.frameWrite s p f poison d) := by
  delta State.frameWrite
  repeat' with_reducible first
    | assumption | apply State.cxReach_keeps | apply State.ringWrite_keeps | apply Keeps.ite | intro _ | split
    | extract_lets

theorem State.frameRead_keeps {p : Nat} {f : Nat} {d : FrameDw} (h : Keeps r s) :
    Keeps r (State.frameRead s p f d).2.2 := by
  delta State.frameRead
  repeat' with_reducible first
    | assumption | apply State.ringBytes_keeps | (apply Keeps.snd; assumption) | (apply Keeps.trd; assumption)
    | apply Keeps.ite | intro _ | split | extract_lets

theorem State.frameWrites_keeps {p : Nat} {f : Nat} {o : Nat} {data : List Byte} {be : List Bool} {poison : Bool} (h : Keeps r s) :
    Keeps r (State.frameWrites s p f o data be poison) := by
  delta State.frameWrites
  repeat' with_reducible first
    | assumption | apply State.frameWrite_keeps | apply State.ringWrite_keeps | apply Keeps.fold | apply Keeps.fold2
    | apply Keeps.fold3 | apply KeepsOpt.getD | apply Keeps.ite | intro _ | split | extract_lets

theorem State.frameReads_keeps {p : Nat} {f : Nat} {o : Nat} {n : Nat} {be : List Bool} (h : Keeps r s) :
    Keeps r (State.frameReads s p f o n be) := by
  delta State.frameReads
  repeat' with_reducible first
    | assumption | apply State.complete_keeps | apply State.frameRead_keeps | apply State.ringBytes_keeps
    | apply Keeps.fold | apply Keeps.fold2 | apply Keeps.fold3 | apply KeepsOpt.getD | (apply Keeps.snd; assumption)
    | (apply Keeps.trd; assumption) | apply Keeps.ite | intro _ | split | extract_lets

theorem State.admitWrite_keeps {p : Nat} {f : Nat} {bar : HostBar} {o : Nat} {data : List Byte} {be : List Bool} {poison : Bool} (h : Keeps r s) :
    Keeps r (State.admitWrite s p f bar o data be poison).2 := by
  delta State.admitWrite
  repeat' with_reducible first
    | assumption | apply State.aerError_keeps | apply State.badReq_keeps | apply State.count_keeps
    | exact KeepsOpt.none _ | apply KeepsOpt.some | (apply Keeps.snd; assumption) | (apply Keeps.trd; assumption)
    | apply Keeps.ite | intro _ | split | extract_lets

theorem State.admitRead_keeps {p : Nat} {f : Nat} {bar : HostBar} {o : Nat} {n : Nat} {be : List Bool} (h : Keeps r s) :
    Keeps r (State.admitRead s p f bar o n be).2 := by
  delta State.admitRead
  repeat' with_reducible first
    | assumption | apply State.badRead_keeps | exact KeepsOpt.none _ | apply KeepsOpt.some
    | (apply Keeps.snd; assumption) | (apply Keeps.trd; assumption) | apply Keeps.ite | intro _ | split | extract_lets

theorem execHostWindowWrite_keeps {port : HostPort} (h : Keeps r s) : KeepsOut r (execHostWindowWrite port s) := by
  delta execHostWindowWrite
  repeat' with_reducible first
    | assumption | apply State.hostWindowWrite_keeps | apply KeepsOut.next | apply Keeps.ite | intro _ | split
    | extract_lets

theorem execHostCompletion_keeps {port : HostPort} {tag : Nat} {status : CompletionStatus} {data : List Byte} (h : Keeps r s) :
    KeepsOut r (execHostCompletion port tag status data s) := by
  delta execHostCompletion
  repeat' with_reducible first
    | assumption | apply State.hostCompletion_keeps | apply KeepsOut.next | intro _ | split | extract_lets

theorem execCompletionTimeout_keeps {port : HostPort} {tag : Nat} (h : Keeps r s) :
    KeepsOut r (execCompletionTimeout port tag s) := by
  delta execCompletionTimeout
  repeat' with_reducible first
    | assumption | apply State.completionTimeout_keeps | apply KeepsOut.next | intro _ | split | extract_lets

theorem execPortLost_keeps {port : HostPort} (h : Keeps r s) : KeepsOut r (execPortLost port s) := by
  delta execPortLost
  repeat' with_reducible first
    | assumption | apply State.portLost_keeps | apply KeepsOut.next | intro _ | split | extract_lets

theorem execPerstN_keeps {port : HostPort} (h : Keeps r s) : KeepsOut r (execPerstN port s) := by
  delta execPerstN
  repeat' with_reducible first
    | assumption | apply State.modPx_keeps | apply State.portReset_keeps | apply KeepsOut.next | intro _ | split
    | extract_lets

theorem execHotReset_keeps {port : HostPort} (h : Keeps r s) : KeepsOut r (execHotReset port s) := by
  delta execHotReset
  repeat' with_reducible first
    | assumption | apply State.portReset_keeps | apply KeepsOut.next | intro _ | split | extract_lets

theorem execLinkDisable_keeps {port : HostPort} (h : Keeps r s) : KeepsOut r (execLinkDisable port s) := by
  delta execLinkDisable
  repeat' with_reducible first
    | assumption | apply State.portReset_keeps | apply KeepsOut.next | intro _ | split | extract_lets

theorem execFlr_keeps {port : HostPort} {func : FuncId} (h : Keeps r s) : KeepsOut r (execFlr port func s) := by
  delta execFlr
  repeat' with_reducible first
    | assumption | apply State.flr_keeps | apply KeepsOut.next | intro _ | split | extract_lets

theorem execLinkUp_keeps {port : HostPort} {speed : Fin 6} {width : Fin 17} (h : Keeps r s) :
    KeepsOut r (execLinkUp port speed width s) := by
  delta execLinkUp
  repeat' with_reducible first
    | assumption | apply State.linkComesUp_keeps | apply KeepsOut.next | intro _ | split | extract_lets

theorem execPerstNDeassert_keeps {port : HostPort} (h : Keeps r s) : KeepsOut r (execPerstNDeassert port s) := by
  delta execPerstNDeassert
  repeat' with_reducible first
    | assumption | apply State.modPx_keeps | apply KeepsOut.next | intro _ | split | extract_lets

theorem execDataLinkLayerDown_keeps {port : HostPort} (h : Keeps r s) :
    KeepsOut r (execDataLinkLayerDown port s) := by
  delta execDataLinkLayerDown
  repeat' with_reducible first
    | assumption | apply State.linkDown_keeps | apply KeepsOut.next | apply Keeps.ite | intro _ | split | extract_lets

end Sys2Proof.Machine
end

