-- ==== Sys2Proof/Laws/KeepsReset.lean ====
section
/-! SUPPORT. The operations of Machine/Reset.lean leave the queue and the clock alone and keep the invariant. -/

namespace Sys2Proof.Machine

variable {r s : State}

theorem Keeps.level {n : Nat} (h : Keeps r s) (hn : n ≤ 3) : Keeps r { s with level := n } :=
  h.trans ⟨rfl, rfl, fun i => ⟨i.cores, i.dram, i.sram, i.sp, i.counters, hn, i.resets, i.now⟩⟩

theorem State.setLevel_keeps {n : Nat} (h : Keeps r s) (hn : n ≤ 3) : Keeps r (State.setLevel s n) := by
  unfold State.setLevel
  split
  · exact h
  · exact State.hostEvents_keeps (Keeps.level h hn)

theorem State.dropHostWrites_keeps  (h : Keeps r s) : Keeps r (State.dropHostWrites s) := by
  delta State.dropHostWrites
  repeat' with_reducible first
    | assumption | apply State.count_keeps | apply State.modPx_keeps | apply Keeps.fold | apply Keeps.fold2
    | apply Keeps.fold3 | intro _ | split | extract_lets

theorem State.recountErased_keeps  (h : Keeps r s) : Keeps r (State.recountErased s) := by
  delta State.recountErased
  repeat' with_reducible first
    | assumption | apply State.setFld_keeps | apply Keeps.fold | apply Keeps.fold2 | apply Keeps.fold3
    | apply Keeps.ite | intro _ | split | extract_lets

theorem State.beginReset_keeps {k : ResetKind} {cause : Nat} {append : Bool} (h : Keeps r s) :
    Keeps r (State.beginReset s k cause append) := by
  unfold State.beginReset
  extract_lets s1 warm recs t t1
  have h1 : Keeps r s1 := by
    dsimp only [s1]; split
    · exact State.dropHostWrites_keeps h
    · exact h
  have ht : Keeps r t := by
    refine Keeps.fresh h1 rfl rfl (fun i => ⟨?_, Nat.le_refl _⟩) (fun _ => Nat.zero_le _) rfl rfl rfl ?_ ?_
    · show (if k = .powerOn then s1.clock else s1.powerOnAt) ≤ s1.clock
      split
      · exact Nat.le_refl _
      · exact Nat.le_trans i.resets i.now
    · show (if warm then s1.dram else []) = s1.dram ∨ (if warm then s1.dram else []) = []
      split <;> simp
    · show (if warm then s1.sram else []) = s1.sram ∨ (if warm then s1.sram else []) = []
      split <;> simp
  have ht1 : Keeps r t1 := State.setFlag_keeps ht
  split
  · split
    · exact State.recountErased_keeps ht1
    · exact State.hostEvents_keeps (State.recountErased_keeps ht1)
  · exact ht1

theorem State.wake_keeps  (h : Keeps r s) : Keeps r (State.wake s) := by
  delta State.wake
  repeat' with_reducible first
    | assumption | apply State.beginReset_keeps | intro _ | split | extract_lets

theorem State.warmTrigger_keeps {cause : Nat} (h : Keeps r s) : Keeps r (State.warmTrigger s cause) := by
  delta State.warmTrigger
  repeat' with_reducible first
    | assumption | apply State.hostEvents_keeps | apply State.wake_keeps | apply Keeps.ite | intro _ | split
    | extract_lets | apply Keeps.upd | rfl

theorem State.warmReset_keeps  (h : Keeps r s) : Keeps r (State.warmReset s) := by
  delta State.warmReset
  repeat' with_reducible first
    | assumption | apply State.beginReset_keeps | (apply Keeps.snd; assumption) | intro _ | split | extract_lets

theorem State.coldReset_keeps {cause : Nat} (h : Keeps r s) : Keeps r (State.coldReset s cause) := by
  delta State.coldReset
  repeat' with_reducible first
    | assumption | apply State.beginReset_keeps | apply Keeps.ite | intro _ | split | extract_lets

theorem State.powerOff_keeps {cause : Nat} (h : Keeps r s) : Keeps r (State.powerOff s cause) := by
  delta State.powerOff
  repeat' with_reducible first
    | assumption | apply State.beginReset_keeps | apply Keeps.ite | intro _ | split | extract_lets | apply Keeps.upd
    | rfl

theorem State.trip_keeps  (h : Keeps r s) : Keeps r (State.trip s) := by
  delta State.trip
  repeat' with_reducible first
    | assumption | apply State.powerOff_keeps | apply State.setFlag_keeps | intro _ | split | extract_lets
    | apply Keeps.upd | rfl

theorem State.vinLow_keeps  (h : Keeps r s) : Keeps r (State.vinLow s) := by
  delta State.vinLow
  repeat' with_reducible first
    | assumption | apply State.powerOff_keeps | intro _ | split | extract_lets

theorem State.pwrEnDeassert_keeps  (h : Keeps r s) : Keeps r (State.pwrEnDeassert s) := by
  delta State.pwrEnDeassert
  repeat' with_reducible first
    | assumption | apply State.powerOff_keeps | intro _ | split | extract_lets | apply Keeps.upd | rfl

theorem State.railStart_keeps  (h : Keeps r s) : Keeps r (State.railStart s) := by
  delta State.railStart
  repeat' with_reducible first
    | assumption | apply Keeps.ite | intro _ | split | extract_lets | apply Keeps.upd | rfl

theorem State.vaonLoss_keeps (h : Keeps r s) : Keeps r (State.vaonLoss s) := by
  unfold State.vaonLoss
  split
  · exact h
  · exact Keeps.fresh h rfl rfl (fun _ => ⟨Nat.le_refl _, Nat.le_refl _⟩) (fun _ => Nat.zero_le _) rfl rfl rfl
      (.inr rfl) (.inr rfl)

theorem State.vaonPresent_keeps  (h : Keeps r s) : Keeps r (State.vaonPresent s) := by
  delta State.vaonPresent
  repeat' with_reducible first
    | assumption | apply State.beginReset_keeps | apply Keeps.ite | intro _ | split | extract_lets | apply Keeps.upd
    | rfl

theorem State.mrstAssert_keeps  (h : Keeps r s) : Keeps r (State.mrstAssert s) := by
  delta State.mrstAssert
  repeat' with_reducible first
    | assumption | apply State.coldReset_keeps | apply Keeps.ite | intro _ | split | extract_lets | apply Keeps.upd
    | rfl

theorem State.mrstDeassert_keeps (h : Keeps r s) : Keeps r (State.mrstDeassert s) := by
  unfold State.mrstDeassert
  split
  · exact h.trans ⟨rfl, rfl, fun i => ⟨i.cores, i.dram, i.sram, i.sp, i.counters, i.level,
      Nat.le_trans i.resets i.now, Nat.le_refl _⟩⟩
  · exact h

theorem State.enterStandby_keeps (h : Keeps r s) : Keeps r (State.enterStandby s) := by
  unfold State.enterStandby
  refine State.setLevel_keeps ?_ (Nat.zero_le _)
  exact Keeps.fresh (State.dropHostWrites_keeps (State.hostEvents_keeps h)) rfl rfl (fun i => ⟨i.resets, i.now⟩)
    (fun i => i.level) rfl rfl rfl (.inl rfl) (.inl rfl)

theorem State.startLockDelay_keeps {c : Nat} (h : Keeps r s) : Keeps r (State.startLockDelay s c) := by
  delta State.startLockDelay
  repeat' with_reducible first
    | assumption | apply KeepsOpt.getD | apply Keeps.ite | intro _ | split | extract_lets | apply Keeps.upd | rfl

theorem State.lockupDelay_keeps  (h : Keeps r s) : Keeps r (State.lockupDelay s) := by
  delta State.lockupDelay
  repeat' with_reducible first
    | assumption | apply State.warmTrigger_keeps | (apply Keeps.snd; assumption) | apply Keeps.ite | intro _ | split
    | extract_lets | apply Keeps.upd | rfl

theorem State.armSafelight_keeps  (h : Keeps r s) : Keeps r (State.armSafelight s) := by
  delta State.armSafelight
  repeat' with_reducible first
    | assumption | intro _ | split | extract_lets | apply Keeps.upd | rfl

theorem State.strokeWrite_keeps {v : Nat} (h : Keeps r s) : Keeps r (State.strokeWrite s v) := by
  delta State.strokeWrite
  repeat' with_reducible first
    | assumption | apply State.setFlag_keeps | apply Keeps.ite | intro _ | split | extract_lets | apply Keeps.upd
    | rfl

theorem State.slwarn_keeps  (h : Keeps r s) : Keeps r (State.slwarn s) := by
  delta State.slwarn
  repeat' with_reducible first
    | assumption | apply State.deviceEvent_keeps | apply State.setFlag_keeps | apply Keeps.ite | intro _ | split
    | extract_lets | apply Keeps.upd | rfl

theorem State.safelightExpiry_keeps  (h : Keeps r s) : Keeps r (State.safelightExpiry s) := by
  delta State.safelightExpiry
  repeat' with_reducible first
    | assumption | apply State.warmTrigger_keeps | apply Keeps.ite | intro _ | split | extract_lets

theorem State.rsRefuse_keeps  (h : Keeps r s) : Keeps r (State.rsRefuse s) := by
  delta State.rsRefuse
  repeat' with_reducible first
    | assumption | apply State.setFlag_keeps | intro _ | split | extract_lets

theorem State.rsCommand_keeps {management : Bool} {code : Nat} (h : Keeps r s) :
    Keeps r (State.rsCommand s management code) := by
  delta State.rsCommand
  repeat' with_reducible first
    | assumption | apply State.coldReset_keeps | apply State.enterStandby_keeps | apply State.modDd_keeps
    | apply State.rsRefuse_keeps | apply State.wake_keeps | apply State.warmTrigger_keeps
    | (apply Keeps.snd; assumption) | apply Keeps.ite | intro _ | split | extract_lets

theorem State.rsCmdBy_keeps {rq : Requester} {code : Nat} (h : Keeps r s) : Keeps r (State.rsCmdBy s rq code) := by
  delta State.rsCmdBy
  repeat' with_reducible first
    | assumption | apply State.regCommand_keeps | apply State.rsCommand_keeps | intro _ | split | extract_lets

theorem execWarm_keeps {rq : Requester} (h : Keeps r s) : KeepsOut r (execWarm rq s) := by
  delta execWarm
  repeat' with_reducible first
    | assumption | apply State.rsCmdBy_keeps | apply KeepsOut.next | intro _ | split | extract_lets

theorem execCold_keeps {rq : Requester} (h : Keeps r s) : KeepsOut r (execCold rq s) := by
  delta execCold
  repeat' with_reducible first
    | assumption | apply State.rsCmdBy_keeps | apply KeepsOut.next | intro _ | split | extract_lets

theorem execStandby_keeps {rq : Requester} (h : Keeps r s) : KeepsOut r (execStandby rq s) := by
  delta execStandby
  repeat' with_reducible first
    | assumption | apply State.rsCmdBy_keeps | apply KeepsOut.next | intro _ | split | extract_lets

theorem execWake_keeps {rq : Requester} (h : Keeps r s) : KeepsOut r (execWake rq s) := by
  delta execWake
  repeat' with_reducible first
    | assumption | apply State.rsCmdBy_keeps | apply KeepsOut.next | intro _ | split | extract_lets

theorem execClearret_keeps {rq : Requester} (h : Keeps r s) : KeepsOut r (execClearret rq s) := by
  delta execClearret
  repeat' with_reducible first
    | assumption | apply State.rsCmdBy_keeps | apply KeepsOut.next | intro _ | split | extract_lets

theorem execMrstNAssert_keeps  (h : Keeps r s) : KeepsOut r (execMrstNAssert s) := by
  delta execMrstNAssert
  repeat' with_reducible first
    | assumption | apply State.mrstAssert_keeps | apply KeepsOut.next | intro _ | split | extract_lets

theorem execMrstNDeassert_keeps  (h : Keeps r s) : KeepsOut r (execMrstNDeassert s) := by
  delta execMrstNDeassert
  repeat' with_reducible first
    | assumption | apply State.mrstDeassert_keeps | apply KeepsOut.next | intro _ | split | extract_lets

theorem execWarmReset_keeps  (h : Keeps r s) : KeepsOut r (execWarmReset s) := by
  delta execWarmReset
  repeat' with_reducible first
    | assumption | apply State.warmReset_keeps | apply KeepsOut.next | intro _ | split | extract_lets

theorem execLockupDelay_keeps  (h : Keeps r s) : KeepsOut r (execLockupDelay s) := by
  delta execLockupDelay
  repeat' with_reducible first
    | assumption | apply State.lockupDelay_keeps | apply KeepsOut.next | intro _ | split | extract_lets

theorem execStroke_keeps {rq : Requester} {value : BitVec 32} (h : Keeps r s) :
    KeepsOut r (execStroke rq value s) := by
  delta execStroke
  repeat' with_reducible first
    | assumption | apply State.regCommand_keeps | apply State.strokeWrite_keeps | apply KeepsOut.next
    | apply Keeps.ite | intro _ | split | extract_lets

theorem execSlwarn_keeps  (h : Keeps r s) : KeepsOut r (execSlwarn s) := by
  delta execSlwarn
  repeat' with_reducible first
    | assumption | apply State.slwarn_keeps | apply KeepsOut.next | intro _ | split | extract_lets

theorem execSafelightExpiry_keeps  (h : Keeps r s) : KeepsOut r (execSafelightExpiry s) := by
  delta execSafelightExpiry
  repeat' with_reducible first
    | assumption | apply State.safelightExpiry_keeps | apply KeepsOut.next | intro _ | split | extract_lets

theorem execRailStart_keeps  (h : Keeps r s) : KeepsOut r (execRailStart s) := by
  delta execRailStart
  repeat' with_reducible first
    | assumption | apply State.railStart_keeps | apply KeepsOut.next | intro _ | split | extract_lets

theorem execVinLow_keeps  (h : Keeps r s) : KeepsOut r (execVinLow s) := by
  delta execVinLow
  repeat' with_reducible first
    | assumption | apply State.vinLow_keeps | apply KeepsOut.next | intro _ | split | extract_lets

theorem execVaonPresent_keeps  (h : Keeps r s) : KeepsOut r (execVaonPresent s) := by
  delta execVaonPresent
  repeat' with_reducible first
    | assumption | apply State.vaonPresent_keeps | apply KeepsOut.next | intro _ | split | extract_lets

theorem execVaonLoss_keeps  (h : Keeps r s) : KeepsOut r (execVaonLoss s) := by
  delta execVaonLoss
  repeat' with_reducible first
    | assumption | apply State.vaonLoss_keeps | apply KeepsOut.next | intro _ | split | extract_lets

theorem execPwrEnDeassert_keeps  (h : Keeps r s) : KeepsOut r (execPwrEnDeassert s) := by
  delta execPwrEnDeassert
  repeat' with_reducible first
    | assumption | apply State.pwrEnDeassert_keeps | apply KeepsOut.next | intro _ | split | extract_lets

end Sys2Proof.Machine
end

