-- ==== Sys2Proof/Laws/KeepsPower.lean ====
section
/-! SUPPORT. The operations of Machine/Power.lean leave the queue and the clock alone and keep the invariant. -/

namespace Sys2Proof.Machine

variable {r s : State}

theorem State.pwEvent_keeps {f : Field} (h : Keeps r s) : Keeps r (State.pwEvent s f) := by
  delta State.pwEvent
  repeat' with_reducible first
    | assumption | apply State.deviceEvent_keeps | apply State.setFlag_keeps | intro _ | split | extract_lets

theorem State.newPhase_keeps {c : Nat} {old : Nat} {new : Nat} (h : Keeps r s) :
    Keeps r (State.newPhase s c old new) := by
  delta State.newPhase
  repeat' with_reducible first
    | assumption | apply State.setFld_keeps | apply Keeps.ite | intro _ | split | extract_lets | apply Keeps.upd | rfl

theorem State.mark_keeps {sl : Nat} (h : Keeps r s) : Keeps r (State.mark s sl) := by
  delta State.mark
  repeat' with_reducible first
    | assumption | apply State.markPhase_keeps | apply State.newPhase_keeps | (apply Keeps.snd; assumption)
    | (apply KeepsOpt.of; assumption) | apply Keeps.ite | intro _ | split | extract_lets

theorem State.controlTick_keeps {est : List Nat} (h : Keeps r s) : Keeps r (State.controlTick s est) := by
  delta State.controlTick
  repeat' with_reducible first
    | assumption | apply Keeps.fold | apply Keeps.fold2 | apply Keeps.fold3 | apply Keeps.ite | intro _ | split
    | extract_lets | apply Keeps.upd | rfl

theorem State.activityStep_keeps  (h : Keeps r s) : Keeps r (State.activityStep s) := by
  delta State.activityStep
  repeat' with_reducible first
    | assumption | apply Keeps.ite | intro _ | split | extract_lets | apply Keeps.upd | rfl

theorem State.telemetry_keeps {vin : Nat} {pin : Nat} {rails : List (Nat × Nat)} (h : Keeps r s) :
    Keeps r (State.telemetry s vin pin rails) := by
  delta State.telemetry
  repeat' with_reducible first
    | assumption | apply State.setFld_keeps | apply Keeps.fold | apply Keeps.fold2 | apply Keeps.fold3
    | (apply Keeps.snd; assumption) | apply Keeps.ite | intro _ | split | extract_lets | apply Keeps.upd | rfl

theorem State.capmiss_keeps  (h : Keeps r s) : Keeps r (State.capmiss s) := by
  delta State.capmiss
  repeat' with_reducible first
    | assumption | apply State.setFlag_keeps | apply Keeps.ite | intro _ | split | extract_lets | apply Keeps.upd
    | rfl

theorem State.testStrip_keeps {measured : Nat} (h : Keeps r s) : Keeps r (State.testStrip s measured) := by
  delta State.testStrip
  repeat' with_reducible first
    | assumption | apply State.count_keeps | apply State.setFlag_keeps | apply State.setFld_keeps | apply Keeps.ite
    | intro _ | split | extract_lets | apply Keeps.upd | rfl

theorem State.capWrite_keeps {w : Nat} (h : Keeps r s) : Keeps r (State.capWrite s w) := by
  delta State.capWrite
  repeat' with_reducible first
    | assumption | apply State.setFld_keeps | apply Keeps.ite | intro _ | split | extract_lets

theorem State.slackAt_keeps {c : Nat} {slack : Nat} (h : Keeps r s) : Keeps r (State.slackAt s c slack) := by
  delta State.slackAt
  repeat' with_reducible first
    | assumption | apply State.setFlag_keeps | apply State.setFld_keeps | apply Keeps.ite | intro _ | split
    | extract_lets | apply Keeps.upd | rfl

theorem State.endDensitometer_keeps  (h : Keeps r s) : Keeps r (State.endDensitometer s) := by
  delta State.endDensitometer
  repeat' with_reducible first
    | assumption | apply State.modDd_keeps | apply State.setFlag_keeps | apply Keeps.fold | apply Keeps.fold2
    | apply Keeps.fold3 | (apply Keeps.snd; assumption) | apply Keeps.ite | intro _ | split | extract_lets
    | apply Keeps.upd | rfl

theorem State.densitometer_keeps {slack : List Nat} (h : Keeps r s) : Keeps r (State.densitometer s slack) := by
  delta State.densitometer
  repeat' with_reducible first
    | assumption | apply State.endDensitometer_keeps | apply State.slackAt_keeps | apply Keeps.fold
    | apply Keeps.fold2 | apply Keeps.fold3 | (apply Keeps.snd; assumption) | apply Keeps.ite | intro _ | split
    | extract_lets | apply Keeps.upd | rfl

theorem State.densRun_keeps  (h : Keeps r s) : Keeps r (State.densRun s) := by
  delta State.densRun
  repeat' with_reducible first
    | assumption | intro _ | split | extract_lets | apply Keeps.upd | rfl

theorem State.densitometerStep_keeps {c : Nat} {slack : Nat} (h : Keeps r s) :
    Keeps r (State.densitometerStep s c slack) := by
  delta State.densitometerStep
  repeat' with_reducible first
    | assumption | apply State.endDensitometer_keeps | apply State.slackAt_keeps | apply Keeps.ite | intro _ | split
    | extract_lets

theorem State.dipHold_keeps {minv : Nat} (h : Keeps r s) : Keeps r (State.dipHold s minv) := by
  delta State.dipHold
  repeat' with_reducible first
    | assumption | apply State.count_keeps | apply State.hostEvents_keeps | apply State.pwEvent_keeps
    | apply State.setFld_keeps | apply Keeps.ite | intro _ | split | extract_lets | apply Keeps.upd | rfl

theorem State.dipHoldEnd_keeps  (h : Keeps r s) : Keeps r (State.dipHoldEnd s) := by
  delta State.dipHoldEnd
  repeat' with_reducible first
    | assumption | intro _ | split | extract_lets | apply Keeps.upd | rfl

theorem State.thermalHold_keeps {junction : Bool} {layer : Bool} (h : Keeps r s) :
    Keeps r (State.thermalHold s junction layer) := by
  delta State.thermalHold
  repeat' with_reducible first
    | assumption | apply State.hostEvents_keeps | apply State.pwEvent_keeps | apply Keeps.ite | intro _ | split
    | extract_lets | apply Keeps.upd | rfl

theorem State.junction_keeps {c : Nat} {t : Int} (h : Keeps r s) : Keeps r (State.junction s c t) := by
  delta State.junction
  repeat' with_reducible first
    | assumption | apply State.hostEvents_keeps | apply State.pwEvent_keeps | apply State.setFld_keeps
    | apply Keeps.ite | intro _ | split | extract_lets | apply Keeps.upd | rfl

theorem State.layersRead_keeps {sl : Nat} {ts : List Int} (h : Keeps r s) : Keeps r (State.layersRead s sl ts) := by
  delta State.layersRead
  repeat' with_reducible first
    | assumption | apply State.deviceEvent_keeps | apply State.modSlice_keeps | apply State.setFlag_keeps
    | apply State.setFld_keeps | apply Keeps.fold | apply Keeps.fold2 | apply Keeps.fold3 | apply Keeps.ite | intro _
    | split | extract_lets

theorem State.temperatureSample_keeps {js : List Int} {layers : List (List Int)} (h : Keeps r s) :
    Keeps r (State.temperatureSample s js layers) := by
  delta State.temperatureSample
  repeat' with_reducible first
    | assumption | apply State.junction_keeps | apply State.layersRead_keeps | apply State.setFld_keeps
    | apply State.thermalHold_keeps | apply State.trip_keeps | apply Keeps.fold | apply Keeps.fold2
    | apply Keeps.fold3 | (apply Keeps.snd; assumption) | apply Keeps.ite | intro _ | split | extract_lets

theorem State.thermalHoldEnd_keeps  (h : Keeps r s) : Keeps r (State.thermalHoldEnd s) := by
  delta State.thermalHoldEnd
  repeat' with_reducible first
    | assumption | intro _ | split | extract_lets | apply Keeps.upd | rfl

theorem execMark_keeps {slice : SliceId} (h : Keeps r s) : KeepsOut r (execMark slice s) := by
  delta execMark
  repeat' with_reducible first
    | assumption | apply State.mark_keeps | apply KeepsOut.next | intro _ | split | extract_lets

theorem execTelemetry_keeps {vin : Nat} {pin : Nat} {rails : List (Nat × Nat)} (h : Keeps r s) :
    KeepsOut r (execTelemetry vin pin rails s) := by
  delta execTelemetry
  repeat' with_reducible first
    | assumption | apply State.telemetry_keeps | apply KeepsOut.next | (apply Keeps.snd; assumption) | intro _ | split
    | extract_lets

theorem execControlTick_keeps {est : List Nat} (h : Keeps r s) : KeepsOut r (execControlTick est s) := by
  delta execControlTick
  repeat' with_reducible first
    | assumption | apply State.controlTick_keeps | apply KeepsOut.next | intro _ | split | extract_lets

theorem execActivityStep_keeps  (h : Keeps r s) : KeepsOut r (execActivityStep s) := by
  delta execActivityStep
  repeat' with_reducible first
    | assumption | apply State.activityStep_keeps | apply KeepsOut.next | intro _ | split | extract_lets

theorem execTestStrip_keeps {measured : Nat} (h : Keeps r s) : KeepsOut r (execTestStrip measured s) := by
  delta execTestStrip
  repeat' with_reducible first
    | assumption | apply State.testStrip_keeps | apply KeepsOut.next | intro _ | split | extract_lets

theorem execCapmiss_keeps  (h : Keeps r s) : KeepsOut r (execCapmiss s) := by
  delta execCapmiss
  repeat' with_reducible first
    | assumption | apply State.capmiss_keeps | apply KeepsOut.next | intro _ | split | extract_lets

theorem execCapWrite_keeps {rq : Requester} {value : BitVec 32} (h : Keeps r s) :
    KeepsOut r (execCapWrite rq value s) := by
  delta execCapWrite
  repeat' with_reducible first
    | assumption | apply State.capWrite_keeps | apply State.regCommand_keeps | apply KeepsOut.next | apply Keeps.ite
    | intro _ | split | extract_lets

theorem execDipHold_keeps {minv : Nat} (h : Keeps r s) : KeepsOut r (execDipHold minv s) := by
  delta execDipHold
  repeat' with_reducible first
    | assumption | apply State.dipHold_keeps | apply KeepsOut.next | intro _ | split | extract_lets

theorem execDipHoldEnd_keeps  (h : Keeps r s) : KeepsOut r (execDipHoldEnd s) := by
  delta execDipHoldEnd
  repeat' with_reducible first
    | assumption | apply State.dipHoldEnd_keeps | apply KeepsOut.next | intro _ | split | extract_lets

theorem execTemperatureSample_keeps {junctions : List Int} {layers : List (List Int)} (h : Keeps r s) :
    KeepsOut r (execTemperatureSample junctions layers s) := by
  delta execTemperatureSample
  repeat' with_reducible first
    | assumption | apply State.temperatureSample_keeps | apply KeepsOut.next | intro _ | split | extract_lets

theorem execThermalHoldEnd_keeps  (h : Keeps r s) : KeepsOut r (execThermalHoldEnd s) := by
  delta execThermalHoldEnd
  repeat' with_reducible first
    | assumption | apply State.thermalHoldEnd_keeps | apply KeepsOut.next | intro _ | split | extract_lets

theorem execDensitometer_keeps {slack : List Nat} (h : Keeps r s) : KeepsOut r (execDensitometer slack s) := by
  delta execDensitometer
  repeat' with_reducible first
    | assumption | apply State.densitometer_keeps | apply KeepsOut.next | intro _ | split | extract_lets

theorem execRun_keeps {rq : Requester} (h : Keeps r s) : KeepsOut r (execRun rq s) := by
  delta execRun
  repeat' with_reducible first
    | assumption | apply State.densRun_keeps | apply State.regCommand_keeps | apply KeepsOut.next | intro _ | split
    | extract_lets

theorem execDensitometerStep_keeps {cluster : ClusterId} {slack : Nat} (h : Keeps r s) :
    KeepsOut r (execDensitometerStep cluster slack s) := by
  delta execDensitometerStep
  repeat' with_reducible first
    | assumption | apply State.densitometerStep_keeps | apply KeepsOut.next | intro _ | split | extract_lets

end Sys2Proof.Machine
end

