-- ==== Sys2Proof/Laws/KeepsNegative.lean ====
section
/-! SUPPORT. The operations of Machine/Negative.lean leave the queue and the clock alone and keep the invariant. -/

namespace Sys2Proof.Machine

variable {r s : State}

/-- What a step of a load keeps. -/
def KeepsStep (r : State) (e : LoadStep) : Prop := ∀ l, e = .ok l → Keeps r l.st

theorem KeepsStep.ok {l : Load} (h : Keeps r l.st) : KeepsStep r (.ok l) := fun _ e => by cases e; exact h
theorem KeepsStep.error {e : Refused} : KeepsStep r (.error e) := fun _ h => nomatch h
theorem KeepsStep.ite {c : Prop} [Decidable c] {a b : LoadStep} (ha : KeepsStep r a) (hb : KeepsStep r b) :
    KeepsStep r (if c then a else b) := by split <;> assumption
theorem KeepsStep.refuseIf {o : Option Refused} {e : LoadStep} (h : KeepsStep r e) : KeepsStep r (refuseIf o e) := by
  cases o with
  | none => exact h
  | some a => exact KeepsStep.error
theorem KeepsStep.of {l : Load} {e : LoadStep} (he : e = .ok l) (h : KeepsStep r e) : Keeps r l.st := h l he

theorem stepAll_keeps {α : Type} {f : Load → α → LoadStep} {as : List α} {l : Load} (h : Keeps r l.st)
    (hf : ∀ l a, Keeps r l.st → KeepsStep r (f l a)) : KeepsStep r (stepAll f l as) := by
  induction as generalizing l with
  | nil => exact KeepsStep.ok h
  | cons a as ih =>
    dsimp only [stepAll]
    split
    · exact ih (KeepsStep.of ‹_› (hf l a h))
    · exact KeepsStep.error

theorem Keeps.foldLoad {α : Type} {l : Load} {g : Load → α → Load} {as : List α} (h : Keeps r l.st)
    (hg : ∀ t a, Keeps r t.st → Keeps r (g t a).st) : Keeps r (as.foldl g l).st := by
  induction as generalizing l with
  | nil => exact h
  | cons a as ih => exact ih (hg _ _ h)

theorem Keeps.pairLoad {β : Type} {l : Load} {p : Load × β} {b : β} (e : p = (l, b)) (h : Keeps r p.1.st) :
    Keeps r l.st := by rw [e] at h; exact h

theorem Load.clamp_keeps {l : Load} {field unit reason sect supplied applied : Nat} (h : Keeps r l.st) :
    Keeps r (l.clamp field unit reason sect supplied applied).st := h

theorem Load.mark_keeps {l : Load} {cls key item : Nat} (h : Keeps r l.st) : Keeps r (l.mark cls key item).st := h

theorem State.setPair_keeps {lo : RegId} {hi : RegId} {u : Nat} {n : Nat} {v : Nat} (h : Keeps r s) :
    Keeps r (State.setPair s lo hi u n v) := by
  delta State.setPair
  repeat' with_reducible first
    | assumption | apply State.setReg_keeps | intro _ | split | extract_lets

theorem State.applySetting_keeps {f : Nat} {u : Nat} {v : Nat} (h : Keeps r s) :
    Keeps r (State.applySetting s f u v) := by
  delta State.applySetting
  repeat' with_reducible first
    | assumption | apply State.modCore_keeps | apply State.setFld_keeps | apply State.setPair_keeps
    | apply State.setReg_keeps | (apply Keeps.snd; assumption) | (apply CoreOk.same <;> first | assumption | rfl)
    | apply Keeps.ite | intro _ | split | extract_lets | exact CoreOk.withVbase ‹_› _ | exact CoreOk.withTsr ‹_› _
    | exact CoreOk.withTtbase ‹_› _ | exact CoreOk.withSync ‹_› _

theorem State.takeDomain_keeps  (h : Keeps r s) : Keeps r (State.takeDomain s) := by
  delta State.takeDomain
  repeat' with_reducible first
    | assumption | apply State.modLink_keeps | apply State.setPort_keeps | apply Keeps.fold | apply Keeps.fold2
    | apply Keeps.fold3 | apply KeepsOpt.getD | apply KeepsOpt.map | (apply Keeps.snd; assumption) | apply Keeps.ite
    | intro _ | split | extract_lets | apply Keeps.upd | rfl

theorem Load.apply_keeps {l : Load} {warm : Bool} {f u v : Nat} (h : Keeps r l.st) :
    Keeps r (l.apply warm f u v).st := by
  unfold Load.apply
  extract_lets l1
  have h1 : Keeps r l1.st := by dsimp only [l1]; split <;> exact h
  split
  · exact h1
  · exact State.applySetting_keeps h1

theorem Load.clampSetting_keeps {l : Load} {sect f u lo hi mask v : Nat} (h : Keeps r l.st) :
    Keeps r (l.clampSetting sect f u lo hi mask v).1.st := by
  unfold Load.clampSetting
  split
  have hl := Keeps.pairLoad (r := r) ‹_› (by split <;> exact h)
  split
  · exact hl
  · split <;> exact hl

theorem Load.clampDomain_keeps {l : Load} {field unit lo hi v : Nat} (h : Keeps r l.st) :
    Keeps r (l.clampDomain field unit lo hi v).1.st := Load.clampSetting_keeps h

theorem Load.reserved_keeps {l : Load} {field unit v : Nat} (h : Keeps r l.st) :
    Keeps r (l.reserved field unit v).st := by
  unfold Load.reserved
  split <;> exact h

theorem Load.setting_keeps {l : Load} {warm : Bool} {sect item f u v : Nat} (h : Keeps r l.st) :
    KeepsStep r (l.setting warm sect item f u v) := by
  unfold Load.setting
  repeat' with_reducible first
    | assumption | exact KeepsStep.error | apply KeepsStep.ok | apply Load.apply_keeps
    | apply Load.clampSetting_keeps | (apply Keeps.pairLoad; assumption) | intro _ | split | extract_lets

theorem Load.image_keeps {l : Load} {sect item unit addr : Nat} {data body : List Byte} (h : Keeps r l.st) :
    KeepsStep r (l.image sect item unit addr data body) := by
  unfold Load.image
  extract_lets n
  refine KeepsStep.ite KeepsStep.error (KeepsStep.ite KeepsStep.error ?_)
  split
  · split
    · split
      · refine KeepsStep.ok ?_
        dsimp only
        exact State.modSp_keeps h (putBytes_wf _ _)
      · exact KeepsStep.error
    · exact KeepsStep.error
  · split
    · split
      · exact KeepsStep.ok (State.sramWrite_keeps h)
      · exact KeepsStep.error
    · exact KeepsStep.error

theorem Load.table_keeps {l : Load} {sect item unit sub period : Nat} {ws : List Nat} (h : Keeps r l.st) :
    KeepsStep r (l.table sect item unit sub period ws) := by
  unfold Load.table
  repeat' with_reducible first
    | assumption | exact KeepsStep.error | apply KeepsStep.ok | apply Load.mark_keeps | apply Keeps.fold
    | intro _ | split | extract_lets | apply Keeps.upd | rfl

theorem Load.schedule_keeps {l : Load} {sect item unit period : Nat} {ws : List Nat} (h : Keeps r l.st) :
    KeepsStep r (l.schedule sect item unit period ws) := by
  unfold Load.schedule
  repeat' with_reducible first
    | assumption | exact KeepsStep.error | apply KeepsStep.ok | apply Load.mark_keeps | apply Keeps.fold
    | intro _ | split | extract_lets | apply Keeps.upd | rfl

theorem Load.aperture_keeps {l : Load} {sect item unit : Nat} {ws : List Nat} (h : Keeps r l.st) :
    KeepsStep r (l.aperture sect item unit ws) := by
  unfold Load.aperture
  extract_lets k n vals l1 s ctrl l2
  refine KeepsStep.ite KeepsStep.error ?_
  have h1 : Keeps r l1.st := Keeps.foldLoad h fun t a ht => by split <;> exact ht
  have hs : Keeps r s := Keeps.fold h1 fun t a ht => State.setReg_keeps ht
  split
  · exact KeepsStep.ok hs
  · split
    · exact KeepsStep.ok hs
    · exact KeepsStep.ok (Load.clamp_keeps (State.setFlag_keeps hs))

theorem Load.endApertures_keeps {l : Load} (h : Keeps r l.st) : Keeps r l.endApertures.st := by
  unfold Load.endApertures
  refine Keeps.foldLoad h fun t a ht => ?_
  extract_lets k n held
  split
  · exact State.setAp_keeps ht
  · exact Load.clamp_keeps (State.setFlag_keeps ht)

theorem Load.translations_keeps {l : Load} {sect item sub first : Nat} {es : List Nat} (h : Keeps r l.st) :
    KeepsStep r (l.translations sect item sub first es) := by
  unfold Load.translations
  refine KeepsStep.ite KeepsStep.error (KeepsStep.ok ?_)
  refine Keeps.foldLoad h fun t a ht => ?_
  extract_lets i y y1 st t1
  split
  · exact ht
  have h1 : Keeps r t1.st := Load.mark_keeps (Keeps.upd ht (by dsimp only [y1]; split <;> rfl))
  split
  · exact h1
  · exact h1

theorem Load.homes_keeps {l : Load} {sect item first : Nat} {hs : List Nat} (h : Keeps r l.st) :
    KeepsStep r (l.homes sect item first hs) := by
  unfold Load.homes
  split
  · exact KeepsStep.error
  refine KeepsStep.ok (Keeps.foldLoad h fun t a ht => ?_)
  extract_lets p t1 home
  split
  · exact ht
  have h1 : Keeps r t1.st := by dsimp only [t1]; split <;> exact ht
  exact Load.mark_keeps (State.setCtr_keeps h1 id)

theorem Load.heldBits_keeps {l : Load} {unit v mask : Nat} (h : Keeps r l.st) :
    Keeps r (l.heldBits unit v mask).1.st := by
  unfold Load.heldBits
  split <;> exact h

theorem Keeps.foldLoad2 {α β : Type} {p : Load × β} {g : Load × β → α → Load × β} {as : List α} (h : Keeps r p.1.st)
    (hg : ∀ q a, Keeps r q.1.st → Keeps r (g q a).1.st) : Keeps r (as.foldl g p).1.st := by
  induction as generalizing p with
  | nil => exact h
  | cons a as ih => exact ih (hg _ _ h)

theorem Load.barrier_keeps {l : Load} {sect item unit : Nat} {ws : List Nat} (h : Keeps r l.st) :
    KeepsStep r (l.barrier sect item unit ws) := by
  unfold Load.barrier
  split
  · exact KeepsStep.error
  split
  · exact KeepsStep.ok h
  split
  have h1 := Keeps.pairLoad ‹_› (Load.heldBits_keeps h)
  split
  have h2 := Keeps.pairLoad ‹_› (Load.heldBits_keeps h1)
  split
  have h3 := Keeps.pairLoad ‹_› (Load.heldBits_keeps h2)
  split
  have h4 := Keeps.pairLoad (r := r) ‹_› (Keeps.foldLoad2 (by exact h3) fun q a hq => by
    split
    exact Keeps.pairLoad ‹_› (Load.heldBits_keeps hq))
  extract_lets home l1 cfg1 exp
  have h5 : Keeps r l1.st := by dsimp only [l1]; split <;> exact h4
  exact KeepsStep.ok (Load.mark_keeps (State.setBar_keeps h5))

theorem Load.hint_keeps {l : Load} {sect item unit : Nat} {vs : List Nat} (h : Keeps r l.st) :
    KeepsStep r (l.hint sect item unit vs) := by
  unfold Load.hint
  split
  · exact KeepsStep.error
  split
  · exact KeepsStep.ok h
  refine KeepsStep.ok (Keeps.foldLoad (Load.mark_keeps h) fun t a ht => ?_)
  extract_lets t1 v
  have h1 : Keeps r t1.st := by dsimp only [t1]; split <;> exact ht
  split
  · exact h1
  · exact Keeps.upd h1 rfl

theorem Load.domain_keeps {l : Load} {item : Nat} {bs : List Byte} (h : Keeps r l.st) :
    KeepsStep r (l.domain item bs) := by
  unfold Load.domain
  repeat' with_reducible first
    | assumption | exact KeepsStep.error | apply KeepsStep.ok | apply Load.mark_keeps | apply State.setFld_keeps
    | apply Load.clampDomain_keeps | apply Load.reserved_keeps | apply Load.clamp_keeps | apply Keeps.foldLoad
    | (apply Keeps.pairLoad; assumption) | intro _ | split | extract_lets | apply Keeps.upd | rfl

theorem Load.item_keeps {l : Load} {x : Sec} {b : Nat} {warm : Bool} {sect : Nat} {q : Option Item × Nat}
    (h : Keeps r l.st) : KeepsStep r (l.item x b warm sect q) := by
  unfold Load.item
  split
  · exact KeepsStep.error
  extract_lets n body bad need
  have hn : ∀ ok f, KeepsStep r f → KeepsStep r (need ok f) := fun ok f hf => by
    dsimp only [need]; split
    · exact hf
    · exact KeepsStep.error
  clear_value need
  split
  · exact KeepsStep.error
  split
  · exact hn _ _ (Load.setting_keeps h)
  · exact hn _ _ (Load.image_keeps h)
  · exact hn _ _ (Load.table_keeps h)
  · exact hn _ _ (Load.schedule_keeps h)
  · exact hn _ _ (Load.aperture_keeps h)
  · exact hn _ _ (Load.translations_keeps h)
  · exact hn _ _ (Load.homes_keeps h)
  · exact hn _ _ (Load.barrier_keeps h)
  · exact hn _ _ (Load.hint_keeps h)
  · exact Load.domain_keeps h

theorem Load.defaults_keeps {l : Load} {warm : Bool} {sect : Nat} (h : Keeps r l.st) :
    KeepsStep r (l.defaults warm sect) := by
  unfold Load.defaults
  refine stepAll_keeps h fun t a ht => ?_
  split
  · exact KeepsStep.ok ht
  refine stepAll_keeps ht fun t a ht => ?_
  split
  · exact KeepsStep.ok ht
  split
  · exact KeepsStep.ok (Load.apply_keeps ht)
  · exact KeepsStep.error

theorem Load.endContexts_keeps {l : Load} {warm : Bool} (h : Keeps r l.st) : KeepsStep r (l.endContexts warm) := by
  unfold Load.endContexts
  extract_lets meet bad
  exact KeepsStep.refuseIf (KeepsStep.ok (Keeps.foldLoad h fun t a ht =>
    Load.apply_keeps (Load.clampSetting_keeps ht)))

theorem Load.endSync_keeps {l : Load} (h : Keeps r l.st) : Keeps r l.endSync.st := by
  unfold Load.endSync
  refine Keeps.foldLoad h fun t a ht => ?_
  extract_lets y e v y1
  split
  · exact ht
  · exact Load.clamp_keeps (Keeps.upd ht (by dsimp only [y1]; split <;> rfl))

theorem Load.endTables_keeps {l : Load} (h : Keeps r l.st) : KeepsStep r l.endTables := by
  unfold Load.endTables
  extract_lets flow route
  exact KeepsStep.refuseIf (KeepsStep.refuseIf (KeepsStep.ok h))

theorem Load.endSchedules_keeps {l : Load} (h : Keeps r l.st) : KeepsStep r l.endSchedules := by
  unfold Load.endSchedules
  exact KeepsStep.refuseIf (KeepsStep.ok h)

theorem Load.endSection_keeps {l : Load} {warm : Bool} {sect : Nat} (h : Keeps r l.st) :
    KeepsStep r (l.endSection warm sect) := by
  unfold Load.endSection
  split
  · exact KeepsStep.error
  have h1 := KeepsStep.of ‹_› (Load.defaults_keeps h)
  split
  · exact Load.endTables_keeps h1
  · exact Load.endSchedules_keeps h1
  · exact KeepsStep.ok (Load.endApertures_keeps h1)
  · exact KeepsStep.ok (Load.endSync_keeps h1)
  · exact Load.endContexts_keeps h1
  · exact KeepsStep.ok h1

theorem Load.doSection_keeps {l : Load} {x : Sec} {b : Nat} {warm : Bool} {d : DirEntry} (h : Keeps r l.st) :
    KeepsStep r (l.doSection x b warm d) := by
  unfold Load.doSection
  split
  · exact KeepsStep.error
  split
  · exact KeepsStep.error
  extract_lets its
  split
  · exact KeepsStep.error
  · exact Load.endSection_keeps (KeepsStep.of ‹_› (stepAll_keeps h fun t a ht => Load.item_keeps ht))

theorem Load.endBarriers_keeps {l : Load} (h : Keeps r l.st) : KeepsStep r l.endBarriers := by
  unfold Load.endBarriers
  exact KeepsStep.refuseIf (KeepsStep.ok h)

theorem State.loadBank_keeps {b : Nat} {warm : Bool} (h : Keeps r s) : KeepsStep r (s.loadBank b warm) := by
  unfold State.loadBank
  extract_lets x ds
  split
  · exact KeepsStep.error
  split
  · exact KeepsStep.error
  split
  · exact KeepsStep.error
  split
  · exact KeepsStep.error
  have h1 := KeepsStep.of ‹_› (stepAll_keeps (l := ⟨s, _, _, _, _, _, _, _, _, _, _⟩) h fun t a ht => Load.doSection_keeps ht)
  split
  · exact KeepsStep.error
  refine Load.endBarriers_keeps (KeepsStep.of ‹_› (stepAll_keeps h1 fun t a ht => ?_))
  split
  · exact KeepsStep.ok ht
  · exact Load.endSection_keeps ht

end Sys2Proof.Machine
end

