-- ==== Sys2Proof/Laws/KeepsSecurity.lean ====
section
/-! SUPPORT. The operations of Machine/Security.lean leave the queue and the clock alone and keep the invariant. -/

namespace Sys2Proof.Machine

variable {r s : State}

theorem State.recordRefusal_keeps {b : Nat} {e : Refused} (h : Keeps r s) : Keeps r (State.recordRefusal s b e) := by
  delta State.recordRefusal
  repeat' with_reducible first
    | assumption | apply State.setFld_keeps | apply Keeps.ite | intro _ | split | extract_lets

theorem State.noteLoaded_keeps  (h : Keeps r s) : Keeps r (State.noteLoaded s) := by
  delta State.noteLoaded
  repeat' with_reducible first
    | assumption | apply Keeps.ite | intro _ | split | extract_lets | apply Keeps.upd | rfl

theorem State.accept_keeps {l : Load} {b : Nat} {fallback : Bool} (h : Keeps r l.st) :
    Keeps r (s.accept l b fallback) := by
  unfold State.accept
  refine Keeps.fold (State.setLevel_keeps (State.armSafelight_keeps (State.noteLoaded_keeps (State.buildTrees_keeps (State.takeDomain_keeps
    (State.setFlag_keeps (State.setFld_keeps (State.setFld_keeps (State.setFlag_keeps (State.setFld_keeps
      (State.setFld_keeps (Keeps.upd h rfl)))))))))))
    (by decide)) fun t a ht => State.startAttest_keeps ht

theorem State.tryBanks_keeps {warm : Bool} {bs : List Nat} {fallback : Bool} (h : Keeps r s) :
    Keeps r (State.tryBanks s warm bs fallback) := by
  induction bs generalizing s fallback with
  | nil => exact State.setFlag_keeps (Keeps.upd h rfl)
  | cons b bs ih =>
    dsimp only [State.tryBanks]
    split
    · exact State.accept_keeps (KeepsStep.of ‹_› (State.loadBank_keeps h))
    · exact ih (State.recordRefusal_keeps h)

theorem State.selectAndLoad_keeps  (h : Keeps r s) : Keeps r (State.selectAndLoad s) := by
  delta State.selectAndLoad
  repeat' with_reducible first
    | assumption | apply State.recordRefusal_keeps | apply State.setFlag_keeps | apply State.tryBanks_keeps
    | apply Keeps.fold | apply Keeps.fold2 | apply Keeps.fold3 | apply Keeps.ite | intro _ | split | extract_lets
    | apply Keeps.upd | rfl

theorem State.readSeqs_keeps  (h : Keeps r s) : Keeps r (State.readSeqs s) := by
  delta State.readSeqs
  repeat' with_reducible first
    | assumption | apply State.setReg_keeps | apply Keeps.fold | apply Keeps.fold2 | apply Keeps.fold3 | intro _
    | split | extract_lets

theorem State.showDbg_keeps  (h : Keeps r s) : Keeps r (State.showDbg s) := by
  delta State.showDbg
  repeat' with_reducible first
    | assumption | apply State.setReg_keeps | intro _ | split | extract_lets

theorem State.darkPorts_keeps  (h : Keeps r s) : Keeps r (State.darkPorts s) := by
  delta State.darkPorts
  repeat' with_reducible first
    | assumption | (apply Keeps.snd; assumption) | apply Keeps.ite | intro _ | split | extract_lets | apply Keeps.upd
    | rfl

theorem State.serviceLevel0_keeps {seed : Option (List Byte)} (h : Keeps r s) :
    Keeps r (State.serviceLevel0 s seed) := by
  delta State.serviceLevel0
  repeat' with_reducible first
    | assumption | apply State.darkPorts_keeps | apply State.readSeqs_keeps | apply State.setFlag_keeps
    | apply State.setFld_keeps | apply State.showDbg_keeps | apply Keeps.fold | apply Keeps.fold2 | apply Keeps.fold3
    | apply KeepsOpt.map | (apply Keeps.snd; assumption) | apply Keeps.ite | intro _ | split | extract_lets
    | apply Keeps.upd | rfl

theorem State.serviceLevel2_keeps  (h : Keeps r s) : Keeps r (State.serviceLevel2 s) := by
  delta State.serviceLevel2
  repeat' with_reducible first
    | assumption | apply State.setLevel_keeps | apply Keeps.ite | intro _ | split | extract_lets
    | exact (by decide : (2 : Nat) ≤ 3) | apply Keeps.upd | rfl

theorem State.startGather_keeps  (h : Keeps r s) : Keeps r (State.startGather s) := by
  delta State.startGather
  repeat' with_reducible first
    | assumption | apply Keeps.ite | intro _ | split | extract_lets | apply Keeps.upd | rfl

theorem State.raiseFloor_keeps  (h : Keeps r s) : Keeps r (State.raiseFloor s) := by
  delta State.raiseFloor
  repeat' with_reducible first
    | assumption | apply State.modDd_keeps | apply Keeps.ite | intro _ | split | extract_lets

theorem State.serviceLevel3_keeps  (h : Keeps r s) : Keeps r (State.serviceLevel3 s) := by
  delta State.serviceLevel3
  repeat' with_reducible first
    | assumption | apply State.raiseFloor_keeps | apply State.setLevel_keeps | apply State.startGather_keeps
    | apply Keeps.ite | intro _ | split | extract_lets | exact Nat.le_refl 3 | apply Keeps.upd | rfl

theorem State.secStart_keeps {rq : Requester} {code : Nat} (h : Keeps r s) :
    Keeps r (State.secStart s rq code).2 := by
  delta State.secStart
  repeat' with_reducible first
    | assumption | apply State.dramRead_keeps | (apply Keeps.snd; assumption) | (apply Keeps.trd; assumption)
    | apply Keeps.ite | intro _ | split | extract_lets

theorem State.secCommand_keeps {rq : Requester} {code : Nat} (h : Keeps r s) :
    Keeps r (State.secCommand s rq code) := by
  delta State.secCommand
  repeat' with_reducible first
    | assumption | apply State.secStart_keeps | apply State.setFld_keeps | (apply Keeps.snd; assumption)
    | apply Keeps.ite | intro _ | split | extract_lets | apply Keeps.upd | rfl

theorem State.setDebug_keeps {on : Bool} (h : Keeps r s) : Keeps r (State.setDebug s on) := by
  delta State.setDebug
  repeat' with_reducible first
    | assumption | apply State.debugPorts_keeps | apply Keeps.ite | intro _ | split | extract_lets | apply Keeps.upd
    | rfl

theorem State.secEffect_keeps {x1 : Nat} {e : SecEffect} (h : Keeps r s) : Keeps r (State.secEffect s x1 e).2 := by
  delta State.secEffect
  repeat' with_reducible first
    | assumption | apply State.modDd_keeps | apply State.readSeqs_keeps | apply State.setDebug_keeps
    | apply State.showDbg_keeps | apply State.writeRpt_keeps | (apply Keeps.snd; assumption)
    | (apply Keeps.trd; assumption) | apply putBytes_wf | apply Keeps.ite | intro _ | split | extract_lets
    | apply Keeps.upd | rfl

theorem State.operationComplete_keeps  (h : Keeps r s) : Keeps r (State.operationComplete s) := by
  delta State.operationComplete
  repeat' with_reducible first
    | assumption | apply State.secEffect_keeps | apply State.setFld_keeps | (apply Keeps.snd; assumption)
    | apply Keeps.ite | intro _ | split | extract_lets | apply Keeps.upd | rfl

theorem State.secCmdBy_keeps {rq : Requester} {code : Nat} (h : Keeps r s) : Keeps r (State.secCmdBy s rq code) := by
  delta State.secCmdBy
  repeat' with_reducible first
    | assumption | apply State.regCommand_keeps | apply State.secCommand_keeps | intro _ | split | extract_lets

theorem execBeginWrite_keeps {rq : Requester} (h : Keeps r s) : KeepsOut r (execBeginWrite rq s) := by
  delta execBeginWrite
  repeat' with_reducible first
    | assumption | apply State.secCmdBy_keeps | apply KeepsOut.next | intro _ | split | extract_lets

theorem execChunk_keeps {rq : Requester} (h : Keeps r s) : KeepsOut r (execChunk rq s) := by
  delta execChunk
  repeat' with_reducible first
    | assumption | apply State.secCmdBy_keeps | apply KeepsOut.next | intro _ | split | extract_lets

theorem execDramchunk_keeps {rq : Requester} (h : Keeps r s) : KeepsOut r (execDramchunk rq s) := by
  delta execDramchunk
  repeat' with_reducible first
    | assumption | apply State.secCmdBy_keeps | apply KeepsOut.next | intro _ | split | extract_lets

theorem execCommit_keeps {rq : Requester} (h : Keeps r s) : KeepsOut r (execCommit rq s) := by
  delta execCommit
  repeat' with_reducible first
    | assumption | apply State.secCmdBy_keeps | apply KeepsOut.next | intro _ | split | extract_lets

theorem execEnrol_keeps {rq : Requester} (h : Keeps r s) : KeepsOut r (execEnrol rq s) := by
  delta execEnrol
  repeat' with_reducible first
    | assumption | apply State.secCmdBy_keeps | apply KeepsOut.next | intro _ | split | extract_lets

theorem execTransfer_keeps {rq : Requester} (h : Keeps r s) : KeepsOut r (execTransfer rq s) := by
  delta execTransfer
  repeat' with_reducible first
    | assumption | apply State.secCmdBy_keeps | apply KeepsOut.next | intro _ | split | extract_lets

theorem execAttest_keeps {rq : Requester} (h : Keeps r s) : KeepsOut r (execAttest rq s) := by
  delta execAttest
  repeat' with_reducible first
    | assumption | apply State.secCmdBy_keeps | apply KeepsOut.next | intro _ | split | extract_lets

theorem execExtend_keeps {rq : Requester} (h : Keeps r s) : KeepsOut r (execExtend rq s) := by
  delta execExtend
  repeat' with_reducible first
    | assumption | apply State.secCmdBy_keeps | apply KeepsOut.next | intro _ | split | extract_lets

theorem execUnlock_keeps {rq : Requester} (h : Keeps r s) : KeepsOut r (execUnlock rq s) := by
  delta execUnlock
  repeat' with_reducible first
    | assumption | apply State.secCmdBy_keeps | apply KeepsOut.next | intro _ | split | extract_lets

theorem execLock_keeps {rq : Requester} (h : Keeps r s) : KeepsOut r (execLock rq s) := by
  delta execLock
  repeat' with_reducible first
    | assumption | apply State.secCmdBy_keeps | apply KeepsOut.next | intro _ | split | extract_lets

theorem execAbort_keeps {rq : Requester} (h : Keeps r s) : KeepsOut r (execAbort rq s) := by
  delta execAbort
  repeat' with_reducible first
    | assumption | apply State.secCmdBy_keeps | apply KeepsOut.next | intro _ | split | extract_lets

theorem execOperationComplete_keeps  (h : Keeps r s) : KeepsOut r (execOperationComplete s) := by
  delta execOperationComplete
  repeat' with_reducible first
    | assumption | apply State.operationComplete_keeps | apply KeepsOut.next | intro _ | split | extract_lets

theorem execServiceLevel0_keeps {seed : Option (List Byte)} (h : Keeps r s) :
    KeepsOut r (execServiceLevel0 seed s) := by
  delta execServiceLevel0
  repeat' with_reducible first
    | assumption | apply State.serviceLevel0_keeps | apply KeepsOut.next | intro _ | split | extract_lets

theorem execSelectAndLoad_keeps  (h : Keeps r s) : KeepsOut r (execSelectAndLoad s) := by
  delta execSelectAndLoad
  repeat' with_reducible first
    | assumption | apply State.selectAndLoad_keeps | apply KeepsOut.next | intro _ | split | extract_lets

theorem execServiceLevel2_keeps  (h : Keeps r s) : KeepsOut r (execServiceLevel2 s) := by
  delta execServiceLevel2
  repeat' with_reducible first
    | assumption | apply State.serviceLevel2_keeps | apply KeepsOut.next | intro _ | split | extract_lets

theorem execServiceLevel3_keeps  (h : Keeps r s) : KeepsOut r (execServiceLevel3 s) := by
  delta execServiceLevel3
  repeat' with_reducible first
    | assumption | apply State.serviceLevel3_keeps | apply KeepsOut.next | intro _ | split | extract_lets

end Sys2Proof.Machine
end

