-- ==== Sys2Proof/Laws/KeepsTimers.lean ====
section
/-! SUPPORT. The operations of Machine/Timers.lean leave the queue and the clock alone and keep the invariant. -/

namespace Sys2Proof.Machine

variable {r s : State}

theorem State.timerDue_keeps {c : Nat} (h : Keeps r s) : Keeps r (State.timerDue s c) := by
  delta State.timerDue
  repeat' with_reducible first
    | assumption | apply State.modCore_keeps | apply State.raise_keeps
    | (apply CoreOk.same <;> first | assumption | rfl) | apply Keeps.ite | intro _ | split | extract_lets

theorem State.timerArm_keeps {c : Nat} (h : Keeps r s) : Keeps r (State.timerArm s c) := by
  delta State.timerArm
  repeat' with_reducible first
    | assumption | apply State.modCore_keeps | apply State.timerDue_keeps
    | (apply CoreOk.same <;> first | assumption | rfl) | apply Keeps.ite | intro _ | split | extract_lets

theorem State.timerWrite_keeps {c : Nat} {x2 : RegId} {v : Nat} (h : Keeps r s) :
    Keeps r (State.timerWrite s c x2 v) := by
  delta State.timerWrite
  repeat' with_reducible first
    | assumption | apply State.setFlag_keeps | apply State.setReg_keeps | apply State.timerArm_keeps
    | (apply Keeps.snd; assumption) | apply Keeps.ite | intro _ | split | extract_lets

theorem State.softInterrupt_keeps {v : Nat} (h : Keeps r s) : Keeps r (State.softInterrupt s v) := by
  delta State.softInterrupt
  repeat' with_reducible first
    | assumption | apply State.raise_keeps | apply Keeps.ite | intro _ | split | extract_lets

theorem State.writeTrCtrl_keeps {c : Nat} {v : Nat} (h : Keeps r s) : Keeps r (State.writeTrCtrl s c v) := by
  delta State.writeTrCtrl
  repeat' with_reducible first
    | assumption | apply State.flushPage_keeps | apply State.flushTlb_keeps | apply Keeps.ite | intro _ | split
    | extract_lets

theorem State.tableWalk_keeps {c : Nat} {va : Addr} {kind : AccessKind} {ring : Nat} (h : Keeps r s) :
    Keeps r (State.tableWalk s c va kind ring) := by
  delta State.tableWalk
  repeat' with_reducible first
    | assumption | apply State.walk_keeps | (apply Keeps.snd; assumption) | apply Keeps.ite | intro _ | split
    | extract_lets

theorem execTimer_keeps {c : CoreId} (h : Keeps r s) : KeepsOut r (execTimer c s) := by
  delta execTimer
  repeat' with_reducible first
    | assumption | apply State.timerDue_keeps | apply KeepsOut.next | intro _ | split | extract_lets

theorem execTimerArm_keeps {rq : Requester} {c : CoreId} {what : TimerReg} {value : BitVec 32} (h : Keeps r s) :
    KeepsOut r (execTimerArm rq c what value s) := by
  delta execTimerArm
  repeat' with_reducible first
    | assumption | apply State.regCommand_keeps | apply State.timerWrite_keeps | apply KeepsOut.next | apply Keeps.ite
    | intro _ | split | extract_lets

theorem execSoftwareInterrupt_keeps {rq : Requester} {value : BitVec 32} (h : Keeps r s) :
    KeepsOut r (execSoftwareInterrupt rq value s) := by
  delta execSoftwareInterrupt
  repeat' with_reducible first
    | assumption | apply State.regCommand_keeps | apply State.softInterrupt_keeps | apply KeepsOut.next | intro _
    | split | extract_lets

theorem execInvpage_keeps {rq : Requester} {c : CoreId} (h : Keeps r s) : KeepsOut r (execInvpage rq c s) := by
  delta execInvpage
  repeat' with_reducible first
    | assumption | apply State.regCommand_keeps | apply State.writeTrCtrl_keeps | apply KeepsOut.next
    | apply Keeps.ite | intro _ | split | extract_lets

theorem execInvall_keeps {rq : Requester} {c : CoreId} (h : Keeps r s) : KeepsOut r (execInvall rq c s) := by
  delta execInvall
  repeat' with_reducible first
    | assumption | apply State.regCommand_keeps | apply State.writeTrCtrl_keeps | apply KeepsOut.next
    | apply Keeps.ite | intro _ | split | extract_lets

theorem execTableWalk_keeps {c : CoreId} {va : BitVec 48} {kind : AccessKind} {ring : BitVec 2} (h : Keeps r s) :
    KeepsOut r (execTableWalk c va kind ring s) := by
  delta execTableWalk
  repeat' with_reducible first
    | assumption | apply State.tableWalk_keeps | apply KeepsOut.next | intro _ | split | extract_lets

end Sys2Proof.Machine
end

