-- ==== Sys2Proof/Laws/KeepsRegAccess.lean ====
section
/-! SUPPORT. The operations of Machine/RegAccess.lean leave the queue and the clock alone and keep the invariant. -/

namespace Sys2Proof.Machine

variable {r s : State}

theorem State.readPart_keeps {blk : Nat} {off : Nat} {lo : Bool} {hi : Bool} (h : Keeps r s) :
    Keeps r (State.readPart s blk off lo hi).2 := by
  delta State.readPart
  repeat' with_reducible first
    | assumption | apply State.setReg_keeps | (apply Keeps.snd; assumption) | (apply Keeps.trd; assumption)
    | apply Keeps.ite | intro _ | split | extract_lets | apply Keeps.upd | rfl

theorem State.engineControl_keeps {v : Nat} {abandon save restore : State → State} (h : Keeps r s)
    (ha : ∀ t, Keeps r t → Keeps r (abandon t)) (hs : ∀ t, Keeps r t → Keeps r (save t))
    (hr : ∀ t, Keeps r t → Keeps r (restore t)) : Keeps r (s.engineControl v abandon save restore) := by
  unfold State.engineControl
  repeat' with_reducible first
    | assumption | apply ha | apply hs | apply hr | split | extract_lets

theorem State.dmControl_keeps {k : Nat} {v : Nat} (h : Keeps r s) : Keeps r (State.dmControl s k v) := by
  delta State.dmControl
  repeat' with_reducible first
    | assumption | apply State.dmAbandon_keeps | apply State.dmResume_keeps | apply Keeps.ite | intro _ | split
    | extract_lets

theorem State.cxCmdWrite_keeps {v : Nat} (h : Keeps r s) : Keeps r (State.cxCmdWrite s v) := by
  delta State.cxCmdWrite
  repeat' with_reducible first
    | assumption | apply State.cxReach_keeps | intro _ | split | extract_lets

theorem State.clearLost_keeps  (h : Keeps r s) : Keeps r (State.clearLost s) := by
  delta State.clearLost
  repeat' with_reducible first
    | assumption | apply State.setCtr_keeps | intro _ | split | extract_lets

theorem State.rangeWrite_keeps {u : Nat} {v : Nat} (h : Keeps r s) : Keeps r (State.rangeWrite s u v) := by
  delta State.rangeWrite
  repeat' with_reducible first
    | assumption | apply State.rangeStart_keeps | apply Keeps.ite | intro _ | split | extract_lets

theorem State.writeReg_keeps {rq : Requester} {x2 : RegId} {u : Nat} {n : Nat} {v : Nat} {lo : Bool} {hi : Bool} (h : Keeps r s) :
    Keeps r (State.writeReg s rq x2 u n v lo hi) := by
  delta State.writeReg
  repeat' with_reducible first
    | assumption | apply State.apCtrlWrite_keeps | apply State.askRelease_keeps | apply State.capWrite_keeps
    | apply State.clearLost_keeps | apply State.cxCmdWrite_keeps | apply State.cxReach_keeps
    | apply State.densRun_keeps | apply State.dmControl_keeps | apply State.engineControl_keeps
    | apply State.epochWrite_keeps | apply State.found_keeps | apply State.handSetting_keeps
    | apply State.mxAbandon_keeps | apply State.mxRestoreStart_keeps | apply State.mxSaveStart_keeps
    | apply State.popStall_keeps | apply State.rangeWrite_keeps | apply State.retrain_keeps
    | apply State.routeWrite_keeps | apply State.rsCommand_keeps | apply State.secCommand_keeps
    | apply State.setFlag_keeps | apply State.setReg_keeps | apply State.softInterrupt_keeps
    | apply State.strokeWrite_keeps | apply State.timerWrite_keeps | apply State.translationWrite_keeps
    | apply State.vxAbandon_keeps | apply State.vxRestoreStart_keeps | apply State.vxSaveStart_keeps
    | apply State.writeCfCtrl_keeps | apply State.writeL2Ctrl_keeps | apply State.writeTrCtrl_keeps
    | (apply Keeps.snd; assumption) | apply Keeps.ite | intro _ | split | extract_lets

theorem State.writePart_keeps {rq : Requester} {blk : Nat} {off : Nat} {v : Nat} {lo : Bool} {hi : Bool} (h : Keeps r s) :
    Keeps r (State.writePart s rq blk off v lo hi) := by
  delta State.writePart
  repeat' with_reducible first
    | assumption | apply State.writeReg_keeps | (apply Keeps.snd; assumption) | apply Keeps.ite | intro _ | split
    | extract_lets | apply Keeps.upd | rfl

theorem State.readParts_keeps {rights : State} {rq : Requester} {ps : List RegPart} (h : Keeps r s) :
    Keeps r (State.readParts rights rq ps s).2 := by
  induction ps generalizing s with
  | nil => exact h
  | cons p ps ih =>
    dsimp only [State.readParts]
    split
    · exact h
    have h1 := ih (State.readPart_keeps (blk := p.blk) (off := p.off) (lo := p.lo) (hi := p.hi) h)
    split
    · exact Keeps.snd ‹_› h1
    · exact h1

theorem State.regRead_keeps {rights : State} {rq : Requester} {a : Nat} {size : AccessSize} (h : Keeps r s) :
    Keeps r (State.regRead s rights rq a size).2 := by
  unfold State.regRead
  split
  · exact h
  · split <;> exact Keeps.snd ‹_› (State.readParts_keeps h)

theorem State.writeParts_keeps {rights : State} {rq : Requester} {v i : Nat} {ps : List RegPart} (h : Keeps r s) :
    Keeps r (State.writeParts rights rq v i ps s).2 := by
  induction ps generalizing s i with
  | nil => exact h
  | cons p ps ih =>
    dsimp only [State.writeParts]
    split
    · exact h
    · exact ih (State.writePart_keeps h)

theorem State.regWrite_keeps {rights : State} {rq : Requester} {a : Nat} {size : AccessSize} {v : Nat} (h : Keeps r s) :
    Keeps r (State.regWrite s rights rq a size v).2 := by
  unfold State.regWrite
  split
  · exact h
  · exact State.writeParts_keeps h

theorem State.addressRead_keeps {rq : Requester} {a : Nat} {size : AccessSize} (h : Keeps r s) :
    Keeps r (State.addressRead s rq a size).2 := by
  delta State.addressRead
  repeat' with_reducible first
    | assumption | apply State.regRead_keeps | apply State.spRead_keeps | (apply Keeps.snd; assumption)
    | (apply Keeps.trd; assumption) | intro _ | split | extract_lets

theorem State.addressWrite_keeps {rq : Requester} {a : Nat} {size : AccessSize} {v : Nat} (h : Keeps r s) :
    Keeps r (State.addressWrite s rq a size v).2 := by
  delta State.addressWrite
  repeat' with_reducible first
    | assumption | apply State.regWrite_keeps | apply State.spStore_keeps | apply State.sramWrite_keeps
    | (apply Keeps.snd; assumption) | (apply Keeps.trd; assumption) | apply Keeps.ite | intro _ | split | extract_lets

theorem State.readBy_keeps {rq : Requester} {a : Nat} {size : AccessSize} (h : Keeps r s) :
    Keeps r (State.readBy s rq a size) := by
  delta State.readBy
  repeat' with_reducible first
    | assumption | apply State.addressRead_keeps | apply State.emit_keeps | (apply Keeps.snd; assumption) | intro _
    | split | extract_lets

theorem State.writeBy_keeps {rq : Requester} {a : Nat} {size : AccessSize} {v : Nat} (h : Keeps r s) :
    Keeps r (State.writeBy s rq a size v) := by
  delta State.writeBy
  repeat' with_reducible first
    | assumption | apply State.addressWrite_keeps | apply State.emit_keeps | (apply Keeps.snd; assumption)
    | apply Keeps.ite | intro _ | split | extract_lets

theorem execRegisterWrite_keeps {rq : Requester} {addr : BitVec 48} {size : AccessSize} {value : BitVec 64} (h : Keeps r s) :
    KeepsOut r (execRegisterWrite rq addr size value s) := by
  delta execRegisterWrite
  repeat' with_reducible first
    | assumption | apply State.writeBy_keeps | apply KeepsOut.next | apply Keeps.ite | intro _ | split | extract_lets

theorem execRegisterReadClear_keeps {rq : Requester} {addr : BitVec 48} {size : AccessSize} (h : Keeps r s) :
    KeepsOut r (execRegisterReadClear rq addr size s) := by
  delta execRegisterReadClear
  repeat' with_reducible first
    | assumption | apply State.readBy_keeps | apply KeepsOut.next | intro _ | split | extract_lets

theorem execMxAbandon_keeps {rq : Requester} {k : CcId} (h : Keeps r s) : KeepsOut r (execMxAbandon rq k s) := by
  delta execMxAbandon
  repeat' with_reducible first
    | assumption | apply State.mxAbandon_keeps | apply State.regCommand_keeps | apply KeepsOut.next | intro _ | split
    | extract_lets

theorem execMxSave_keeps {rq : Requester} {k : CcId} (h : Keeps r s) : KeepsOut r (execMxSave rq k s) := by
  delta execMxSave
  repeat' with_reducible first
    | assumption | apply State.mxSaveStart_keeps | apply State.regCommand_keeps | apply KeepsOut.next | intro _
    | split | extract_lets

theorem execMxRestore_keeps {rq : Requester} {k : CcId} (h : Keeps r s) : KeepsOut r (execMxRestore rq k s) := by
  delta execMxRestore
  repeat' with_reducible first
    | assumption | apply State.mxRestoreStart_keeps | apply State.regCommand_keeps | apply KeepsOut.next | intro _
    | split | extract_lets

theorem execVxAbandon_keeps {rq : Requester} {k : CcId} (h : Keeps r s) : KeepsOut r (execVxAbandon rq k s) := by
  delta execVxAbandon
  repeat' with_reducible first
    | assumption | apply State.regCommand_keeps | apply State.vxAbandon_keeps | apply KeepsOut.next | intro _ | split
    | extract_lets

theorem execVxSave_keeps {rq : Requester} {k : CcId} (h : Keeps r s) : KeepsOut r (execVxSave rq k s) := by
  delta execVxSave
  repeat' with_reducible first
    | assumption | apply State.regCommand_keeps | apply State.vxSaveStart_keeps | apply KeepsOut.next | intro _
    | split | extract_lets

theorem execVxRestore_keeps {rq : Requester} {k : CcId} (h : Keeps r s) : KeepsOut r (execVxRestore rq k s) := by
  delta execVxRestore
  repeat' with_reducible first
    | assumption | apply State.regCommand_keeps | apply State.vxRestoreStart_keeps | apply KeepsOut.next | intro _
    | split | extract_lets

theorem execApertureOpen_keeps {rq : Requester} {k : CcId} {ap : Fin 16} {value : BitVec 32} (h : Keeps r s) :
    KeepsOut r (execApertureOpen rq k ap value s) := by
  delta execApertureOpen
  repeat' with_reducible first
    | assumption | apply State.apCtrlWrite_keeps | apply State.regCommand_keeps | apply KeepsOut.next
    | apply Keeps.ite | intro _ | split | extract_lets

theorem execApertureClose_keeps {rq : Requester} {k : CcId} {ap : Fin 16} {value : BitVec 32} (h : Keeps r s) :
    KeepsOut r (execApertureClose rq k ap value s) := by
  delta execApertureClose
  repeat' with_reducible first
    | assumption | apply State.apCtrlWrite_keeps | apply State.regCommand_keeps | apply KeepsOut.next
    | apply Keeps.ite | intro _ | split | extract_lets

theorem execSpRelease_keeps {rq : Requester} {k : CcId} {value : BitVec 32} (h : Keeps r s) :
    KeepsOut r (execSpRelease rq k value s) := by
  delta execSpRelease
  repeat' with_reducible first
    | assumption | apply State.askRelease_keeps | apply State.regCommand_keeps | apply KeepsOut.next | intro _ | split
    | extract_lets

theorem execDmResume_keeps {rq : Requester} {k : CcId} {ch : ChanId} (h : Keeps r s) :
    KeepsOut r (execDmResume rq k ch s) := by
  delta execDmResume
  repeat' with_reducible first
    | assumption | apply State.dmResume_keeps | apply State.regCommand_keeps | apply KeepsOut.next | intro _ | split
    | extract_lets

theorem execDmAbandon_keeps {rq : Requester} {k : CcId} {ch : ChanId} (h : Keeps r s) :
    KeepsOut r (execDmAbandon rq k ch s) := by
  delta execDmAbandon
  repeat' with_reducible first
    | assumption | apply State.dmAbandon_keeps | apply State.regCommand_keeps | apply KeepsOut.next | intro _ | split
    | extract_lets

theorem execPop_keeps {rq : Requester} (h : Keeps r s) : KeepsOut r (execPop rq s) := by
  delta execPop
  repeat' with_reducible first
    | assumption | apply State.popStall_keeps | apply State.regCommand_keeps | apply KeepsOut.next | intro _ | split
    | extract_lets

end Sys2Proof.Machine
end

