-- ==== Sys2Proof/Laws/KeepsOps.lean ====
section
/-! SUPPORT. The operations of Machine/Ops.lean leave the queue and the clock alone and keep the invariant. -/

namespace Sys2Proof.Machine

variable {r s : State}

theorem homeWrite_keeps {x : Reply Unit × State} (h : Keeps r x.2) : Keeps r (homeWrite x).2 := by
  obtain ⟨a, t⟩ := x
  cases a <;> exact h

theorem CoreOk.tailStores {x : Core} (h : CoreOk x) : CoreOk { x with stores := x.stores.tail } :=
  h.withStores (Nat.le_trans (by simp) h.stores)

theorem CoreOk.next {x : Core} (h : CoreOk x) (n : Nat) : CoreOk (x.next n) :=
  ⟨h.st, h.vbase, h.tsr, h.ttbase, h.sync, h.tlb, h.stores⟩

theorem CoreOk.noWait {x : Core} (h : CoreOk x) : CoreOk ({ x with waiting := .no }.next 1) :=
  ⟨h.st, h.vbase, h.tsr, h.ttbase, h.sync, h.tlb, h.stores⟩

theorem CoreOk.setGr {x : Core} (h : CoreOk x) (n v : Nat) : CoreOk (x.setGr n v) :=
  ⟨h.st, h.vbase, h.tsr, h.ttbase, h.sync, h.tlb, h.stores⟩

theorem CoreOk.setAr {x : Core} (h : CoreOk x) (n : Nat) (v : Addr) : CoreOk (x.setAr n v) :=
  ⟨h.st, h.vbase, h.tsr, h.ttbase, h.sync, h.tlb, h.stores⟩

theorem CoreOk.setGrs {x : Core} (h : CoreOk x) (n w v : Nat) : CoreOk (x.setGrs n w v) := by
  induction w generalizing x n v with
  | zero => exact h
  | succ w ih => exact ih (h.setGr _ _) _ _

theorem CoreOk.setFlags {x : Core} (h : CoreOk x) (f : Nzcv) : CoreOk (x.setFlags f) :=
  ⟨into_reserved f x.st h.st, h.vbase, h.tsr, h.ttbase, h.sync, h.tlb, h.stores⟩

theorem CoreOk.setArOrLk {x : Core} (h : CoreOk x) (d : Nat) (v : Addr) : CoreOk (x.setArOrLk d v) := by
  unfold Core.setArOrLk
  split
  · exact ⟨h.st, h.vbase, h.tsr, h.ttbase, h.sync, h.tlb, h.stores⟩
  · exact h.setAr d v

theorem CoreOk.writeSpr {x : Core} (h : CoreOk x) (v : Nat) (p : Spr) : CoreOk (x.writeSpr v p) := by
  cases p with
  | st => exact ⟨stWith_reserved _ _ _, h.vbase, h.tsr, h.ttbase, h.sync, h.tlb, h.stores⟩
  | vbase => exact h.withVbase v
  | tsr => exact h.withTsr v
  | ttbase => exact (h.withTtbase v).noTlb
  | syncctx => exact h.withSync _
  | _ => exact ⟨h.st, h.vbase, h.tsr, h.ttbase, h.sync, h.tlb, h.stores⟩

theorem CoreOk.foldl {α : Type} {x : Core} (h : CoreOk x) (l : List α) (f : Core → α → Core)
    (hf : ∀ y a, CoreOk y → CoreOk (f y a)) : CoreOk (l.foldl f x) := by
  induction l generalizing x with
  | nil => exact h
  | cons a l ih => exact ih (hf _ _ h)

theorem State.fetchRead_keeps {c : CoreId} {va : Addr} {ring : Nat} (h : Keeps r s) :
    Keeps r (State.fetchRead s c va ring).2 := by
  delta State.fetchRead
  repeat' with_reducible first
    | assumption | apply State.cachedRead_keeps | apply State.translate_keeps | (apply Keeps.snd; assumption)
    | (apply Keeps.trd; assumption) | apply Keeps.ite | intro _ | split | extract_lets

theorem State.fetchWord_keeps {c : CoreId} {va : Addr} {ring : Nat} (h : Keeps r s) :
    Keeps r (State.fetchWord s c va ring).2 := by
  delta State.fetchWord
  repeat' with_reducible first
    | assumption | apply State.fetchRead_keeps | (apply Keeps.snd; assumption) | (apply Keeps.trd; assumption)
    | intro _ | split | extract_lets

theorem State.fetchWords_keeps {c : CoreId} {ring : Nat} {l : List Addr} (h : Keeps r s) :
    Keeps r (State.fetchWords s c ring l).2 := by
  induction l generalizing s with
  | nil => exact h
  | cons va l ih =>
    have h1 := State.fetchWord_keeps (c := c) (va := va) (ring := ring) h
    dsimp only [State.fetchWords]
    split
    · rename_i t e
      have ht := Keeps.snd e h1
      split
      · exact h
      · exact ih ht
    · exact h1

theorem CoreOk.atRing {x : Core} (h : CoreOk x) (ring mask : Nat) : CoreOk { x with st := stWith x.st ring mask } :=
  ⟨stWith_reserved _ ring mask, h.vbase, h.tsr, h.ttbase, h.sync, h.tlb, h.stores⟩

theorem State.asRing_keeps {c ring : Nat} (h : Keeps r s) : Keeps r (State.asRing s c ring) :=
  State.modCore_keeps h fun x => CoreOk.atRing x _ _

theorem State.storeCaches_keeps {c : CoreId} {la : Nat} {bytes : List Byte} (h : Keeps r s) :
    Keeps r (State.storeCaches s c la bytes) := by
  delta State.storeCaches
  repeat' with_reducible first
    | assumption | apply State.storeTo_keeps | apply Keeps.ite | intro _ | split | extract_lets

theorem State.writeHome_keeps {c ring chan la : Nat} {bytes : List Byte} (h : Keeps r s) :
    Keeps r (State.writeHome s c ring chan la bytes).2 := by
  unfold State.writeHome
  split
  · split
    · exact State.spStore_keeps h
    split
    · exact h
    extract_lets m
    clear_value m
    have h1 (k o : Nat) := State.arriveWrite_keeps (k := k) (o := o) (m := m)
      (show Keeps r { s with freeCount := s.freeCount + 1 } from Keeps.upd h rfl)
    split
    · exact Keeps.snd ‹_› (h1 _ _)
    · exact Keeps.snd ‹_› (h1 _ _)
    · exact State.modSp_keeps (Keeps.snd ‹_› (h1 _ _)) (f := fun p => { p with held := _ }) id
  · exact homeWrite_keeps (State.dramWrite_keeps h)
  · exact homeWrite_keeps (State.sramWrite_keeps h)
  · split
    · exact homeWrite_keeps (State.regWrite_keeps h)
    · exact h
  · split
    · exact KeepsOpt.of ‹_› (State.hostAccept_keeps h)
    · exact h
  · exact h

theorem State.loadPiece_keeps {c : CoreId} {vol : Bool} {ring : Nat} {p : WordPiece} (h : Keeps r s) :
    Keeps r (State.loadPiece s c vol ring p).2 := by
  delta State.loadPiece
  repeat' with_reducible first
    | assumption | apply State.asRing_keeps | apply State.cachedRead_keeps | apply State.dropLine_keeps
    | apply State.homeRead_keeps | apply State.regRead_keeps | apply KeepsOpt.bind | (apply Keeps.snd; assumption)
    | (apply Keeps.trd; assumption) | apply Keeps.ite | intro _ | split | extract_lets

theorem State.loadPieces_keeps {c : CoreId} {vol : Bool} {ring : Nat} {l : List WordPiece} (h : Keeps r s) :
    Keeps r (State.loadPieces s c vol ring l).2 := by
  induction l generalizing s with
  | nil => exact h
  | cons p l ih =>
    have h1 := State.loadPiece_keeps (c := c) (vol := vol) (ring := ring) (p := p) h
    dsimp only [State.loadPieces]
    split
    · rename_i t e
      have h2 := ih (Keeps.snd e h1)
      split
      · exact Keeps.snd ‹_› h2
      · exact h2
    · exact Keeps.snd ‹_› h1
    · exact Keeps.snd ‹_› h1

theorem State.hostRequest_keeps {c : CoreId} {p : WordPiece} {port : Nat} (h : Keeps r s) :
    Keeps r (State.hostRequest s c p port) := by
  delta State.hostRequest
  repeat' with_reducible first
    | assumption | apply State.modCore_keeps | apply State.portArrival_keeps
    | (apply CoreOk.same <;> first | assumption | rfl) | apply Keeps.ite | intro _ | split | extract_lets

theorem State.loadWords_keeps {c : CoreId} {vol : Bool} {va : Addr} {n : Nat} {ring : Nat} (h : Keeps r s) :
    KeepsLoaded r (State.loadWords s c vol va n ring) := by
  delta State.loadWords
  repeat' with_reducible first
    | assumption | apply State.hostRequest_keeps | apply State.loadPieces_keeps | apply State.modCore_keeps
    | apply State.translateAll_keeps | (apply Keeps.snd; assumption) | (apply Keeps.trd; assumption)
    | (apply CoreOk.same <;> first | assumption | rfl) | exact KeepsLoaded.wait _ | apply KeepsLoaded.ok
    | apply KeepsLoaded.hold | apply KeepsLoaded.exc | apply Keeps.ite | intro _ | split | extract_lets

theorem entriesOf_length (ring : Nat) (ps : List WordPiece) (bytes : List Byte) :
    (entriesOf ring ps bytes).length = ps.length := by
  induction ps generalizing bytes with
  | nil => rfl
  | cons p ps ih => simp [entriesOf, ih]

theorem markSent_length (l : List StoreEntry) : (markSent l).length = l.length := by cases l <;> rfl

theorem State.bufferPieces_keeps {c : CoreId} {ring : Nat} {ps : List WordPiece} {bytes : List Byte} (h : Keeps r s)
    (hn : (s.core c).stores.length + ps.length ≤ 8) : Keeps r (State.bufferPieces s c ring ps bytes) := by
  unfold State.bufferPieces
  refine Keeps.fold (State.modCore_keeps h fun x => x.withStores ?_) fun t e ht => State.storeCaches_keeps ht
  rw [List.length_append, entriesOf_length]
  exact hn

theorem State.storeError_keeps {c : Nat} {cause : Nat} {fa : Addr} (h : Keeps r s) :
    Keeps r (State.storeError s c cause fa) := by
  delta State.storeError
  repeat' with_reducible first
    | assumption | apply State.raise_keeps | intro _ | split | extract_lets

theorem State.storeWords_keeps {c : CoreId} {va : Addr} {ws : List Half} {ring : Nat} (h : Keeps r s) :
    Keeps r (State.storeWords s c va ws ring).2 := by
  have h1 := State.translateAll_keeps (c := c) (vas := wordsFrom va ws.length) (kind := .write) (ring := ring) h
  unfold State.storeWords
  split
  · exact h
  · exact Keeps.trd ‹_› h1
  · extract_lets ps
    have ht := Keeps.trd ‹_› h1
    split
    · exact State.storeError_keeps ht
    split
    · exact h
    · exact State.bufferPieces_keeps ht (Nat.le_of_not_lt ‹_›)

theorem State.endStore_keeps {c : Nat} {cause : Nat} {e : StoreEntry} (h : Keeps r s) :
    Keeps r (State.endStore s c cause e) := by
  delta State.endStore
  repeat' with_reducible first
    | assumption | apply State.modCore_keeps | apply State.storeError_keeps
    | (apply CoreOk.same <;> first | assumption | rfl) | apply Keeps.ite | intro _ | split | extract_lets
    | exact (CoreOk.tailStores ‹_›).same rfl rfl rfl rfl rfl rfl rfl

theorem State.storeL2_keeps {c : CoreId} {e : StoreEntry} (h : Keeps r s) : Keeps r (State.storeL2 s c e) := by
  delta State.storeL2
  repeat' with_reducible first
    | assumption | apply State.setLines_keeps | apply Keeps.ite | intro _ | split | extract_lets | apply Keeps.upd
    | rfl

theorem State.storeAck_keeps {c : CoreId} (h : Keeps r s) : Keeps r (State.storeAck s c) := by
  unfold State.storeAck
  split
  · exact h
  rename_i e _ _
  have h1 := State.writeHome_keeps (c := c) (ring := e.ring.toNat) (chan := 9) (la := e.la) (bytes := e.bytes) h
  split
  · split
    · exact h
    · exact State.endStore_keeps h
  · split
    · exact h
    split
    · exact State.storeL2_keeps (State.endStore_keeps (Keeps.snd ‹_› h1))
    · exact State.storeL2_keeps (State.endStore_keeps (Keeps.snd ‹_› h1))
    · refine State.modCore_keeps (Keeps.snd ‹_› h1) fun x => x.withStores ?_
      rw [markSent_length]
      exact x.stores
    · exact h

theorem State.framePieces_keeps {c : CoreId} {l : List (Addr × List Half)} (h : Keeps r s) :
    Keeps r (State.framePieces s c l).2 := by
  induction l generalizing s with
  | nil => exact h
  | cons p l ih =>
    have h1 := State.translateAll_keeps (c := c) (vas := wordsFrom p.1 p.2.length) (kind := .write) (ring := 0) h
    dsimp only [State.framePieces]
    split
    · exact h
    · exact Keeps.trd ‹_› h1
    · have h2 := ih (Keeps.trd ‹_› h1)
      split
      · exact Keeps.snd ‹_› h2
      · exact h2

theorem State.putFrame_keeps {c : Nat} {w : Option FrameWrite} (h : Keeps r s) : Keeps r (State.putFrame s c w) := by
  delta State.putFrame
  repeat' with_reducible first
    | assumption | apply State.modCore_keeps | (apply CoreOk.same <;> first | assumption | rfl) | apply Keeps.ite
    | intro _ | split | extract_lets

theorem State.writePieces_keeps {c : CoreId} {n : Nat} {l : List (WordPiece × List Byte)} (h : Keeps r s) :
    Keeps r (State.writePieces s c n l).2 := by
  induction l generalizing s n with
  | nil => exact State.putFrame_keeps h
  | cons p l ih =>
    have h1 := State.writeHome_keeps (c := c) (ring := 0) (chan := 12) (la := p.1.la) (bytes := p.2) h
    dsimp only [State.writePieces]
    split
    · split
      · exact h
      · exact ih (State.putFrame_keeps h)
      · exact h
    · split
      · exact ih (State.storeCaches_keeps (Keeps.snd ‹_› h1))
      · exact Keeps.snd ‹_› h1
      · exact State.putFrame_keeps (Keeps.snd ‹_› h1)
      · exact Keeps.ite (fun _ => h) fun _ => State.putFrame_keeps h

theorem State.writeFrameWords_keeps {c : CoreId} {parts : List (Addr × List Half)} (h : Keeps r s) :
    Keeps r (State.writeFrameWords s c parts).2 := by
  have h1 := State.framePieces_keeps (c := c) (l := parts) h
  unfold State.writeFrameWords
  split
  · exact h
  · exact State.putFrame_keeps (Keeps.snd ‹_› h1)
  · have ht := Keeps.snd ‹_› h1
    extract_lets x n
    clear_value n x
    split
    · exact ht
    split
    · exact h
    split
    · exact h
    rename_i ps t _ _ _ _
    have h2 := State.writePieces_keeps (c := c) (n := n) (l := ps.drop n) ht
    split
    · exact State.putFrame_keeps (Keeps.snd ‹_› h2)
    · exact Keeps.ite (fun _ => Keeps.snd ‹_› h2) fun _ => h
    · exact h2

theorem State.writeFrame_keeps {c : CoreId} {ws : List Half} (h : Keeps r s) :
    Keeps r (State.writeFrame s c ws).2 := by
  delta State.writeFrame
  repeat' with_reducible first
    | assumption | apply State.writeFrameWords_keeps | (apply Keeps.snd; assumption) | (apply Keeps.trd; assumption)
    | apply Keeps.ite | intro _ | split | extract_lets

theorem State.holdEngines_keeps {c : Nat} (h : Keeps r s) : Keeps r (State.holdEngines s c) := by
  delta State.holdEngines
  repeat' with_reducible first
    | assumption | apply State.dmHold_keeps | apply State.mxHold_keeps | apply State.vxHold_keeps | apply Keeps.ite
    | intro _ | split | extract_lets

theorem State.resumeEngines_keeps {c : Nat} {tsr : Addr} (h : Keeps r s) : Keeps r (State.resumeEngines s c tsr) := by
  delta State.resumeEngines
  repeat' with_reducible first
    | assumption | apply State.dmUnhold_keeps | apply State.modMx_keeps | apply State.modVx_keeps | apply Keeps.ite
    | intro _ | split | extract_lets

theorem tsr_step {a n : Addr} (h : a.toNat % 64 = 0) (hn : n.toNat % 64 = 0) : (a + n).toNat % 64 = 0 := by
  rw [BitVec.toNat_add]
  omega

theorem State.finishEntry_keeps {c vec : Nat} (h : Keeps r s) : Keeps r (State.finishEntry s c vec) :=
  State.modCore_keeps h fun x => ⟨stWith_reserved _ 0 7, x.vbase, tsr_step x.tsr (by decide), x.ttbase, x.sync,
    x.tlb, x.stores⟩

theorem State.tryEntry_keeps {c : CoreId} {src : Nat} {vec : Nat} {ovec : Nat} {entryf : Nat} {cause : Nat} {fa : Addr} (h : Keeps r s) :
    Keeps r (State.tryEntry s c src vec ovec entryf cause fa).2 := by
  delta State.tryEntry
  repeat' with_reducible first
    | assumption | apply State.fetchWord_keeps | apply State.writeFrame_keeps | (apply Keeps.snd; assumption)
    | (apply Keeps.trd; assumption) | apply Keeps.ite | intro _ | split | extract_lets

theorem State.lockUp_keeps {c : Nat} {ovec : Nat} {cause : Nat} (h : Keeps r s) :
    Keeps r (State.lockUp s c ovec cause) := by
  delta State.lockUp
  repeat' with_reducible first
    | assumption | apply State.modCore_keeps | apply State.startLockDelay_keeps | (apply Keeps.snd; assumption)
    | (apply CoreOk.same <;> first | assumption | rfl) | apply Keeps.ite | intro _ | split | extract_lets

theorem State.escalate_keeps {c : CoreId} {e : Entering} {entryf : Nat} (h : Keeps r s) :
    Keeps r (State.escalate s c e entryf).2 := by
  unfold State.escalate
  extract_lets t
  have ht : Keeps r t := Keeps.ite (fun _ => h) fun _ => State.putFrame_keeps (State.count_keeps h)
  clear_value t
  split
  · exact State.lockUp_keeps ht
  have h1 := State.tryEntry_keeps (c := c) (src := e.src) (vec := 0) (ovec := e.vec) (entryf := entryf) (cause := e.cause)
    (fa := e.fa) ht
  split
  · exact State.finishEntry_keeps (Keeps.snd ‹_› h1)
  · exact State.lockUp_keeps (Keeps.snd ‹_› h1)
  · exact Keeps.snd ‹_› h1

theorem State.enter_keeps {c : CoreId} {e : Entering} (h : Keeps r s) : Keeps r (State.enter s c e).2 := by
  delta State.enter
  repeat' with_reducible first
    | assumption | apply State.escalate_keeps | apply State.finishEntry_keeps | apply State.tryEntry_keeps
    | exact KeepsOpt.none _ | apply KeepsOpt.some | (apply Keeps.snd; assumption) | (apply Keeps.trd; assumption)
    | apply Keeps.ite | intro _ | split | extract_lets

theorem State.goOnEntering_keeps {c : CoreId} {e : Entering} (h : Keeps r s) :
    Keeps r (State.goOnEntering s c e) := by
  delta State.goOnEntering
  repeat' with_reducible first
    | assumption | apply State.enter_keeps | apply State.modCore_keeps | (apply Keeps.snd; assumption)
    | (apply CoreOk.same <;> first | assumption | rfl) | apply Keeps.ite | intro _ | split | extract_lets

theorem State.takeException_keeps {c : CoreId} {vec : Nat} {src : Nat} {cause : Nat} {fa : Addr} {sync : Bool} (h : Keeps r s) :
    Keeps r (State.takeException s c vec src cause fa sync) := by
  delta State.takeException
  repeat' with_reducible first
    | assumption | apply State.goOnEntering_keeps | apply State.holdEngines_keeps | intro _ | split | extract_lets

theorem State.takeSync_keeps {c : CoreId} {e : Exc} (h : Keeps r s) : Keeps r (State.takeSync s c e) := by
  delta State.takeSync
  repeat' with_reducible first
    | assumption | apply State.spFault_keeps | apply State.takeException_keeps | (apply Keeps.snd; assumption)
    | intro _ | split | extract_lets

theorem State.endWait_keeps {c : Nat} (h : Keeps r s) : KeepsOpt r (State.endWait s c) := by
  unfold State.endWait
  repeat' with_reducible first
    | assumption | apply State.modCore_keeps | apply State.withdraw_keeps | exact KeepsOpt.none _
    | apply KeepsOpt.some | (apply Keeps.snd; assumption) | (apply CoreOk.same <;> first | assumption | rfl)
    | apply Keeps.ite | intro _ | split | extract_lets | exact CoreOk.noWait ‹_›

theorem State.takeAsync_keeps {c : CoreId} (h : Keeps r s) : KeepsOpt r (State.takeAsync s c) := by
  delta State.takeAsync
  repeat' with_reducible first
    | assumption | apply State.endWait_keeps | apply State.modCore_keeps | apply State.takeException_keeps
    | exact KeepsOpt.none _ | apply KeepsOpt.some | apply KeepsOpt.mapState | (apply Keeps.snd; assumption)
    | (apply KeepsOpt.of; assumption) | (apply CoreOk.same <;> first | assumption | rfl) | apply Keeps.ite | intro _
    | split | extract_lets

theorem State.begin_keeps {c : CoreId} {n : Nat} (h : Keeps r s) : KeepsBegin r (State.begin s c n) := by
  delta State.begin
  repeat' with_reducible first
    | assumption | apply State.fetchWords_keeps | apply State.goOnEntering_keeps | apply State.takeAsync_keeps
    | apply State.takeSync_keeps | apply KeepsOpt.getD | (apply Keeps.snd; assumption)
    | (apply KeepsOpt.of; assumption) | apply KeepsBegin.stop | apply KeepsBegin.go | apply Keeps.ite | intro _
    | split | extract_lets

theorem Flow.state_keeps {c : CoreId} {f : Flow} (h : Keeps r s) (hf : KeepsFlow r f) : Keeps r (f.state s c) := by
  cases f with
  | done t => exact hf
  | wait => exact h
  | hold t => exact hf
  | exc e t => exact State.takeSync_keeps hf

theorem State.instr_keeps {c : CoreId} {n : Nat} {body : State → Flow} (h : Keeps r s)
    (hb : ∀ t, Keeps r t → KeepsFlow r (body t)) : Keeps r (s.instr c n body) := by
  have h1 := State.begin_keeps (c := c) (n := n) h
  unfold State.instr
  split
  · exact KeepsBegin.of_stop ‹_› h1
  · exact Flow.state_keeps h (hb _ (KeepsBegin.of_go ‹_› h1))

theorem State.instrLoad_keeps {c : CoreId} {n : Nat} {body : State → Flow} (h : Keeps r s)
    (hb : ∀ t, Keeps r t → KeepsFlow r (body t)) : Keeps r (s.instrLoad c n body) := by
  unfold State.instrLoad
  split
  · exact Flow.state_keeps h (hb _ h)
  · exact State.instr_keeps h hb

theorem State.instrCore_keeps {c : CoreId} {n : Nat} {f : Core → Core} (h : Keeps r s)
    (hf : ∀ x, CoreOk x → CoreOk (f x)) : Keeps r (s.instrCore c n f) :=
  State.instr_keeps h fun t ht => KeepsFlow.done (State.modCore_keeps ht fun x => (hf _ x).next n)

end Sys2Proof.Machine
end

