-- ==== Sys2Proof/Laws/KeepsAlu.lean ====
section
/-! SUPPORT. The operations of Machine/Alu.lean leave the queue and the clock alone and keep the invariant. -/

namespace Sys2Proof.Machine

variable {r s : State}

theorem CoreOk.setResult {x : Core} (h : CoreOk x) (write : Bool) (n w : Nat) (a : Nat × Nzcv) :
    CoreOk (x.setResult write n w a) := by
  unfold Core.setResult
  split
  · exact (h.setGrs _ _ _).setFlags _
  · exact h.setFlags _

theorem CoreOk.alu16 {x : Core} (h : CoreOk x) (fn : AluFn) (rd b : Nat) : CoreOk (x.alu16 fn rd b) :=
  h.setResult _ _ _ _

theorem State.aluReg_keeps {c : CoreId} {fn : AluFn} {rd : BitVec 4} {rs : BitVec 4} (h : Keeps r s) :
    Keeps r (State.aluReg s c fn rd rs) := by
  delta State.aluReg
  repeat' with_reducible first
    | assumption | apply State.instrCore_keeps | apply CoreOk.next | apply CoreOk.alu16 | apply CoreOk.setResult
    | apply CoreOk.setGr | apply CoreOk.setGrs | apply CoreOk.setAr | apply CoreOk.setFlags | apply KeepsFlow.done
    | apply KeepsFlow.exc | intro _ | split | extract_lets

theorem State.aluImm_keeps {c : CoreId} {fn : AluFn} {rd : BitVec 4} {imm : BitVec 16} (h : Keeps r s) :
    Keeps r (State.aluImm s c fn rd imm) := by
  delta State.aluImm
  repeat' with_reducible first
    | assumption | apply State.instrCore_keeps | apply CoreOk.next | apply CoreOk.alu16 | apply CoreOk.setResult
    | apply CoreOk.setGr | apply CoreOk.setGrs | apply CoreOk.setAr | apply CoreOk.setFlags | apply KeepsFlow.done
    | apply KeepsFlow.exc | intro _ | split | extract_lets

theorem State.unary_keeps {c : CoreId} {rd : BitVec 4} {f : Nat → Nat × Nzcv} (h : Keeps r s) :
    Keeps r (State.unary s c rd f) := by
  delta State.unary
  repeat' with_reducible first
    | assumption | apply State.instrCore_keeps | (apply Keeps.snd; assumption) | apply CoreOk.next
    | apply CoreOk.alu16 | apply CoreOk.setResult | apply CoreOk.setGr | apply CoreOk.setGrs | apply CoreOk.setAr
    | apply CoreOk.setFlags | apply KeepsFlow.done | apply KeepsFlow.exc | intro _ | split | extract_lets

theorem State.address_keeps {c : CoreId} {n : Nat} {aligned : Bool} {f : Core → Core} (h : Keeps r s) (hf : ∀ x, CoreOk x → CoreOk (f x)) :
    Keeps r (State.address s c n aligned f) := by
  delta State.address
  repeat' with_reducible first
    | assumption | apply hf | apply State.instr_keeps | apply State.modCore_keeps
    | (apply CoreOk.same <;> first | assumption | rfl) | apply Keeps.ite | apply CoreOk.next | apply CoreOk.alu16
    | apply CoreOk.setResult | apply CoreOk.setGr | apply CoreOk.setGrs | apply CoreOk.setAr | apply CoreOk.setFlags
    | apply KeepsFlow.done | apply KeepsFlow.exc | intro _ | split | extract_lets

theorem State.long_keeps {c : CoreId} {w : Bool} {rd : BitVec 3} {rs : BitVec 3} {write : Bool} {f : Nat → Nat → Nat → Nzcv → Nat × Nzcv} (h : Keeps r s) :
    Keeps r (State.long s c w rd rs write f) := by
  delta State.long
  repeat' with_reducible first
    | assumption | apply State.instr_keeps | apply State.modCore_keeps | (apply Keeps.snd; assumption)
    | (apply CoreOk.same <;> first | assumption | rfl) | apply Keeps.ite | apply CoreOk.next | apply CoreOk.alu16
    | apply CoreOk.setResult | apply CoreOk.setGr | apply CoreOk.setGrs | apply CoreOk.setAr | apply CoreOk.setFlags
    | apply KeepsFlow.done | apply KeepsFlow.exc | intro _ | split | extract_lets

theorem State.longAlu_keeps {c : CoreId} {w : Bool} {rd : BitVec 3} {rs : BitVec 3} {fn : AluFn} (h : Keeps r s) :
    Keeps r (State.longAlu s c w rd rs fn) := by
  delta State.longAlu
  repeat' with_reducible first
    | assumption | apply State.long_keeps | apply Keeps.ite | intro _ | split | extract_lets

theorem execMov_keeps {c : CoreId} {rd : BitVec 4} {rs : BitVec 4} (h : Keeps r s) :
    KeepsOut r (execMov c rd rs s) := by
  delta execMov
  repeat' with_reducible first
    | assumption | apply State.aluReg_keeps | apply KeepsOut.next | apply CoreOk.next | apply CoreOk.alu16
    | apply CoreOk.setResult | apply CoreOk.setGr | apply CoreOk.setGrs | apply CoreOk.setAr | apply CoreOk.setFlags
    | apply KeepsFlow.done | apply KeepsFlow.exc | intro _ | split | extract_lets

theorem execAdd_keeps {c : CoreId} {rd : BitVec 4} {rs : BitVec 4} (h : Keeps r s) :
    KeepsOut r (execAdd c rd rs s) := by
  delta execAdd
  repeat' with_reducible first
    | assumption | apply State.aluReg_keeps | apply KeepsOut.next | apply CoreOk.next | apply CoreOk.alu16
    | apply CoreOk.setResult | apply CoreOk.setGr | apply CoreOk.setGrs | apply CoreOk.setAr | apply CoreOk.setFlags
    | apply KeepsFlow.done | apply KeepsFlow.exc | intro _ | split | extract_lets

theorem execAdc_keeps {c : CoreId} {rd : BitVec 4} {rs : BitVec 4} (h : Keeps r s) :
    KeepsOut r (execAdc c rd rs s) := by
  delta execAdc
  repeat' with_reducible first
    | assumption | apply State.aluReg_keeps | apply KeepsOut.next | apply CoreOk.next | apply CoreOk.alu16
    | apply CoreOk.setResult | apply CoreOk.setGr | apply CoreOk.setGrs | apply CoreOk.setAr | apply CoreOk.setFlags
    | apply KeepsFlow.done | apply KeepsFlow.exc | intro _ | split | extract_lets

theorem execSub_keeps {c : CoreId} {rd : BitVec 4} {rs : BitVec 4} (h : Keeps r s) :
    KeepsOut r (execSub c rd rs s) := by
  delta execSub
  repeat' with_reducible first
    | assumption | apply State.aluReg_keeps | apply KeepsOut.next | apply CoreOk.next | apply CoreOk.alu16
    | apply CoreOk.setResult | apply CoreOk.setGr | apply CoreOk.setGrs | apply CoreOk.setAr | apply CoreOk.setFlags
    | apply KeepsFlow.done | apply KeepsFlow.exc | intro _ | split | extract_lets

theorem execSbc_keeps {c : CoreId} {rd : BitVec 4} {rs : BitVec 4} (h : Keeps r s) :
    KeepsOut r (execSbc c rd rs s) := by
  delta execSbc
  repeat' with_reducible first
    | assumption | apply State.aluReg_keeps | apply KeepsOut.next | apply CoreOk.next | apply CoreOk.alu16
    | apply CoreOk.setResult | apply CoreOk.setGr | apply CoreOk.setGrs | apply CoreOk.setAr | apply CoreOk.setFlags
    | apply KeepsFlow.done | apply KeepsFlow.exc | intro _ | split | extract_lets

theorem execCmp_keeps {c : CoreId} {rd : BitVec 4} {rs : BitVec 4} (h : Keeps r s) :
    KeepsOut r (execCmp c rd rs s) := by
  delta execCmp
  repeat' with_reducible first
    | assumption | apply State.aluReg_keeps | apply KeepsOut.next | apply CoreOk.next | apply CoreOk.alu16
    | apply CoreOk.setResult | apply CoreOk.setGr | apply CoreOk.setGrs | apply CoreOk.setAr | apply CoreOk.setFlags
    | apply KeepsFlow.done | apply KeepsFlow.exc | intro _ | split | extract_lets

theorem execAnd_keeps {c : CoreId} {rd : BitVec 4} {rs : BitVec 4} (h : Keeps r s) :
    KeepsOut r (execAnd c rd rs s) := by
  delta execAnd
  repeat' with_reducible first
    | assumption | apply State.aluReg_keeps | apply KeepsOut.next | apply CoreOk.next | apply CoreOk.alu16
    | apply CoreOk.setResult | apply CoreOk.setGr | apply CoreOk.setGrs | apply CoreOk.setAr | apply CoreOk.setFlags
    | apply KeepsFlow.done | apply KeepsFlow.exc | intro _ | split | extract_lets

theorem execOr_keeps {c : CoreId} {rd : BitVec 4} {rs : BitVec 4} (h : Keeps r s) :
    KeepsOut r (execOr c rd rs s) := by
  delta execOr
  repeat' with_reducible first
    | assumption | apply State.aluReg_keeps | apply KeepsOut.next | apply CoreOk.next | apply CoreOk.alu16
    | apply CoreOk.setResult | apply CoreOk.setGr | apply CoreOk.setGrs | apply CoreOk.setAr | apply CoreOk.setFlags
    | apply KeepsFlow.done | apply KeepsFlow.exc | intro _ | split | extract_lets

theorem execXor_keeps {c : CoreId} {rd : BitVec 4} {rs : BitVec 4} (h : Keeps r s) :
    KeepsOut r (execXor c rd rs s) := by
  delta execXor
  repeat' with_reducible first
    | assumption | apply State.aluReg_keeps | apply KeepsOut.next | apply CoreOk.next | apply CoreOk.alu16
    | apply CoreOk.setResult | apply CoreOk.setGr | apply CoreOk.setGrs | apply CoreOk.setAr | apply CoreOk.setFlags
    | apply KeepsFlow.done | apply KeepsFlow.exc | intro _ | split | extract_lets

theorem execTst_keeps {c : CoreId} {rd : BitVec 4} {rs : BitVec 4} (h : Keeps r s) :
    KeepsOut r (execTst c rd rs s) := by
  delta execTst
  repeat' with_reducible first
    | assumption | apply State.aluReg_keeps | apply KeepsOut.next | apply CoreOk.next | apply CoreOk.alu16
    | apply CoreOk.setResult | apply CoreOk.setGr | apply CoreOk.setGrs | apply CoreOk.setAr | apply CoreOk.setFlags
    | apply KeepsFlow.done | apply KeepsFlow.exc | intro _ | split | extract_lets

theorem execShl_keeps {c : CoreId} {rd : BitVec 4} {rs : BitVec 4} (h : Keeps r s) :
    KeepsOut r (execShl c rd rs s) := by
  delta execShl
  repeat' with_reducible first
    | assumption | apply State.aluReg_keeps | apply KeepsOut.next | apply CoreOk.next | apply CoreOk.alu16
    | apply CoreOk.setResult | apply CoreOk.setGr | apply CoreOk.setGrs | apply CoreOk.setAr | apply CoreOk.setFlags
    | apply KeepsFlow.done | apply KeepsFlow.exc | intro _ | split | extract_lets

theorem execShr_keeps {c : CoreId} {rd : BitVec 4} {rs : BitVec 4} (h : Keeps r s) :
    KeepsOut r (execShr c rd rs s) := by
  delta execShr
  repeat' with_reducible first
    | assumption | apply State.aluReg_keeps | apply KeepsOut.next | apply CoreOk.next | apply CoreOk.alu16
    | apply CoreOk.setResult | apply CoreOk.setGr | apply CoreOk.setGrs | apply CoreOk.setAr | apply CoreOk.setFlags
    | apply KeepsFlow.done | apply KeepsFlow.exc | intro _ | split | extract_lets

theorem execSar_keeps {c : CoreId} {rd : BitVec 4} {rs : BitVec 4} (h : Keeps r s) :
    KeepsOut r (execSar c rd rs s) := by
  delta execSar
  repeat' with_reducible first
    | assumption | apply State.aluReg_keeps | apply KeepsOut.next | apply CoreOk.next | apply CoreOk.alu16
    | apply CoreOk.setResult | apply CoreOk.setGr | apply CoreOk.setGrs | apply CoreOk.setAr | apply CoreOk.setFlags
    | apply KeepsFlow.done | apply KeepsFlow.exc | intro _ | split | extract_lets

theorem execRol_keeps {c : CoreId} {rd : BitVec 4} {rs : BitVec 4} (h : Keeps r s) :
    KeepsOut r (execRol c rd rs s) := by
  delta execRol
  repeat' with_reducible first
    | assumption | apply State.aluReg_keeps | apply KeepsOut.next | apply CoreOk.next | apply CoreOk.alu16
    | apply CoreOk.setResult | apply CoreOk.setGr | apply CoreOk.setGrs | apply CoreOk.setAr | apply CoreOk.setFlags
    | apply KeepsFlow.done | apply KeepsFlow.exc | intro _ | split | extract_lets

theorem execMull_keeps {c : CoreId} {rd : BitVec 4} {rs : BitVec 4} (h : Keeps r s) :
    KeepsOut r (execMull c rd rs s) := by
  delta execMull
  repeat' with_reducible first
    | assumption | apply State.aluReg_keeps | apply KeepsOut.next | apply CoreOk.next | apply CoreOk.alu16
    | apply CoreOk.setResult | apply CoreOk.setGr | apply CoreOk.setGrs | apply CoreOk.setAr | apply CoreOk.setFlags
    | apply KeepsFlow.done | apply KeepsFlow.exc | intro _ | split | extract_lets

theorem execMulhu_keeps {c : CoreId} {rd : BitVec 4} {rs : BitVec 4} (h : Keeps r s) :
    KeepsOut r (execMulhu c rd rs s) := by
  delta execMulhu
  repeat' with_reducible first
    | assumption | apply State.aluReg_keeps | apply KeepsOut.next | apply CoreOk.next | apply CoreOk.alu16
    | apply CoreOk.setResult | apply CoreOk.setGr | apply CoreOk.setGrs | apply CoreOk.setAr | apply CoreOk.setFlags
    | apply KeepsFlow.done | apply KeepsFlow.exc | intro _ | split | extract_lets

theorem execMovi_keeps {c : CoreId} {rd : BitVec 4} {imm : BitVec 16} (h : Keeps r s) :
    KeepsOut r (execMovi c rd imm s) := by
  delta execMovi
  repeat' with_reducible first
    | assumption | apply State.aluImm_keeps | apply KeepsOut.next | apply CoreOk.next | apply CoreOk.alu16
    | apply CoreOk.setResult | apply CoreOk.setGr | apply CoreOk.setGrs | apply CoreOk.setAr | apply CoreOk.setFlags
    | apply KeepsFlow.done | apply KeepsFlow.exc | intro _ | split | extract_lets

theorem execAddi_keeps {c : CoreId} {rd : BitVec 4} {imm : BitVec 16} (h : Keeps r s) :
    KeepsOut r (execAddi c rd imm s) := by
  delta execAddi
  repeat' with_reducible first
    | assumption | apply State.aluImm_keeps | apply KeepsOut.next | apply CoreOk.next | apply CoreOk.alu16
    | apply CoreOk.setResult | apply CoreOk.setGr | apply CoreOk.setGrs | apply CoreOk.setAr | apply CoreOk.setFlags
    | apply KeepsFlow.done | apply KeepsFlow.exc | intro _ | split | extract_lets

theorem execAdci_keeps {c : CoreId} {rd : BitVec 4} {imm : BitVec 16} (h : Keeps r s) :
    KeepsOut r (execAdci c rd imm s) := by
  delta execAdci
  repeat' with_reducible first
    | assumption | apply State.aluImm_keeps | apply KeepsOut.next | apply CoreOk.next | apply CoreOk.alu16
    | apply CoreOk.setResult | apply CoreOk.setGr | apply CoreOk.setGrs | apply CoreOk.setAr | apply CoreOk.setFlags
    | apply KeepsFlow.done | apply KeepsFlow.exc | intro _ | split | extract_lets

theorem execSubi_keeps {c : CoreId} {rd : BitVec 4} {imm : BitVec 16} (h : Keeps r s) :
    KeepsOut r (execSubi c rd imm s) := by
  delta execSubi
  repeat' with_reducible first
    | assumption | apply State.aluImm_keeps | apply KeepsOut.next | apply CoreOk.next | apply CoreOk.alu16
    | apply CoreOk.setResult | apply CoreOk.setGr | apply CoreOk.setGrs | apply CoreOk.setAr | apply CoreOk.setFlags
    | apply KeepsFlow.done | apply KeepsFlow.exc | intro _ | split | extract_lets

theorem execSbci_keeps {c : CoreId} {rd : BitVec 4} {imm : BitVec 16} (h : Keeps r s) :
    KeepsOut r (execSbci c rd imm s) := by
  delta execSbci
  repeat' with_reducible first
    | assumption | apply State.aluImm_keeps | apply KeepsOut.next | apply CoreOk.next | apply CoreOk.alu16
    | apply CoreOk.setResult | apply CoreOk.setGr | apply CoreOk.setGrs | apply CoreOk.setAr | apply CoreOk.setFlags
    | apply KeepsFlow.done | apply KeepsFlow.exc | intro _ | split | extract_lets

theorem execCmpi_keeps {c : CoreId} {rd : BitVec 4} {imm : BitVec 16} (h : Keeps r s) :
    KeepsOut r (execCmpi c rd imm s) := by
  delta execCmpi
  repeat' with_reducible first
    | assumption | apply State.aluImm_keeps | apply KeepsOut.next | apply CoreOk.next | apply CoreOk.alu16
    | apply CoreOk.setResult | apply CoreOk.setGr | apply CoreOk.setGrs | apply CoreOk.setAr | apply CoreOk.setFlags
    | apply KeepsFlow.done | apply KeepsFlow.exc | intro _ | split | extract_lets

theorem execAndi_keeps {c : CoreId} {rd : BitVec 4} {imm : BitVec 16} (h : Keeps r s) :
    KeepsOut r (execAndi c rd imm s) := by
  delta execAndi
  repeat' with_reducible first
    | assumption | apply State.aluImm_keeps | apply KeepsOut.next | apply CoreOk.next | apply CoreOk.alu16
    | apply CoreOk.setResult | apply CoreOk.setGr | apply CoreOk.setGrs | apply CoreOk.setAr | apply CoreOk.setFlags
    | apply KeepsFlow.done | apply KeepsFlow.exc | intro _ | split | extract_lets

theorem execOri_keeps {c : CoreId} {rd : BitVec 4} {imm : BitVec 16} (h : Keeps r s) :
    KeepsOut r (execOri c rd imm s) := by
  delta execOri
  repeat' with_reducible first
    | assumption | apply State.aluImm_keeps | apply KeepsOut.next | apply CoreOk.next | apply CoreOk.alu16
    | apply CoreOk.setResult | apply CoreOk.setGr | apply CoreOk.setGrs | apply CoreOk.setAr | apply CoreOk.setFlags
    | apply KeepsFlow.done | apply KeepsFlow.exc | intro _ | split | extract_lets

theorem execXori_keeps {c : CoreId} {rd : BitVec 4} {imm : BitVec 16} (h : Keeps r s) :
    KeepsOut r (execXori c rd imm s) := by
  delta execXori
  repeat' with_reducible first
    | assumption | apply State.aluImm_keeps | apply KeepsOut.next | apply CoreOk.next | apply CoreOk.alu16
    | apply CoreOk.setResult | apply CoreOk.setGr | apply CoreOk.setGrs | apply CoreOk.setAr | apply CoreOk.setFlags
    | apply KeepsFlow.done | apply KeepsFlow.exc | intro _ | split | extract_lets

theorem execTsti_keeps {c : CoreId} {rd : BitVec 4} {imm : BitVec 16} (h : Keeps r s) :
    KeepsOut r (execTsti c rd imm s) := by
  delta execTsti
  repeat' with_reducible first
    | assumption | apply State.aluImm_keeps | apply KeepsOut.next | apply CoreOk.next | apply CoreOk.alu16
    | apply CoreOk.setResult | apply CoreOk.setGr | apply CoreOk.setGrs | apply CoreOk.setAr | apply CoreOk.setFlags
    | apply KeepsFlow.done | apply KeepsFlow.exc | intro _ | split | extract_lets

theorem execShlImmediate_keeps {c : CoreId} {rd : BitVec 4} {imm : BitVec 16} (h : Keeps r s) :
    KeepsOut r (execShlImmediate c rd imm s) := by
  delta execShlImmediate
  repeat' with_reducible first
    | assumption | apply State.aluImm_keeps | apply KeepsOut.next | apply CoreOk.next | apply CoreOk.alu16
    | apply CoreOk.setResult | apply CoreOk.setGr | apply CoreOk.setGrs | apply CoreOk.setAr | apply CoreOk.setFlags
    | apply KeepsFlow.done | apply KeepsFlow.exc | intro _ | split | extract_lets

theorem execShrImmediate_keeps {c : CoreId} {rd : BitVec 4} {imm : BitVec 16} (h : Keeps r s) :
    KeepsOut r (execShrImmediate c rd imm s) := by
  delta execShrImmediate
  repeat' with_reducible first
    | assumption | apply State.aluImm_keeps | apply KeepsOut.next | apply CoreOk.next | apply CoreOk.alu16
    | apply CoreOk.setResult | apply CoreOk.setGr | apply CoreOk.setGrs | apply CoreOk.setAr | apply CoreOk.setFlags
    | apply KeepsFlow.done | apply KeepsFlow.exc | intro _ | split | extract_lets

theorem execSarImmediate_keeps {c : CoreId} {rd : BitVec 4} {imm : BitVec 16} (h : Keeps r s) :
    KeepsOut r (execSarImmediate c rd imm s) := by
  delta execSarImmediate
  repeat' with_reducible first
    | assumption | apply State.aluImm_keeps | apply KeepsOut.next | apply CoreOk.next | apply CoreOk.alu16
    | apply CoreOk.setResult | apply CoreOk.setGr | apply CoreOk.setGrs | apply CoreOk.setAr | apply CoreOk.setFlags
    | apply KeepsFlow.done | apply KeepsFlow.exc | intro _ | split | extract_lets

theorem execRolImmediate_keeps {c : CoreId} {rd : BitVec 4} {imm : BitVec 16} (h : Keeps r s) :
    KeepsOut r (execRolImmediate c rd imm s) := by
  delta execRolImmediate
  repeat' with_reducible first
    | assumption | apply State.aluImm_keeps | apply KeepsOut.next | apply CoreOk.next | apply CoreOk.alu16
    | apply CoreOk.setResult | apply CoreOk.setGr | apply CoreOk.setGrs | apply CoreOk.setAr | apply CoreOk.setFlags
    | apply KeepsFlow.done | apply KeepsFlow.exc | intro _ | split | extract_lets

theorem execMulli_keeps {c : CoreId} {rd : BitVec 4} {imm : BitVec 16} (h : Keeps r s) :
    KeepsOut r (execMulli c rd imm s) := by
  delta execMulli
  repeat' with_reducible first
    | assumption | apply State.aluImm_keeps | apply KeepsOut.next | apply CoreOk.next | apply CoreOk.alu16
    | apply CoreOk.setResult | apply CoreOk.setGr | apply CoreOk.setGrs | apply CoreOk.setAr | apply CoreOk.setFlags
    | apply KeepsFlow.done | apply KeepsFlow.exc | intro _ | split | extract_lets

theorem execMulhui_keeps {c : CoreId} {rd : BitVec 4} {imm : BitVec 16} (h : Keeps r s) :
    KeepsOut r (execMulhui c rd imm s) := by
  delta execMulhui
  repeat' with_reducible first
    | assumption | apply State.aluImm_keeps | apply KeepsOut.next | apply CoreOk.next | apply CoreOk.alu16
    | apply CoreOk.setResult | apply CoreOk.setGr | apply CoreOk.setGrs | apply CoreOk.setAr | apply CoreOk.setFlags
    | apply KeepsFlow.done | apply KeepsFlow.exc | intro _ | split | extract_lets

theorem execMovq_keeps {c : CoreId} {rd : BitVec 4} {imm : BitVec 8} (h : Keeps r s) :
    KeepsOut r (execMovq c rd imm s) := by
  delta execMovq
  repeat' with_reducible first
    | assumption | apply State.instrCore_keeps | apply KeepsOut.next | apply CoreOk.next | apply CoreOk.alu16
    | apply CoreOk.setResult | apply CoreOk.setGr | apply CoreOk.setGrs | apply CoreOk.setAr | apply CoreOk.setFlags
    | apply KeepsFlow.done | apply KeepsFlow.exc | intro _ | split | extract_lets

theorem execAddq_keeps {c : CoreId} {rd : BitVec 4} {imm : BitVec 8} (h : Keeps r s) :
    KeepsOut r (execAddq c rd imm s) := by
  delta execAddq
  repeat' with_reducible first
    | assumption | apply State.instrCore_keeps | apply KeepsOut.next | apply CoreOk.next | apply CoreOk.alu16
    | apply CoreOk.setResult | apply CoreOk.setGr | apply CoreOk.setGrs | apply CoreOk.setAr | apply CoreOk.setFlags
    | apply KeepsFlow.done | apply KeepsFlow.exc | intro _ | split | extract_lets

theorem execNot_keeps {c : CoreId} {rd : BitVec 4} (h : Keeps r s) : KeepsOut r (execNot c rd s) := by
  delta execNot
  repeat' with_reducible first
    | assumption | apply State.unary_keeps | apply KeepsOut.next | apply CoreOk.next | apply CoreOk.alu16
    | apply CoreOk.setResult | apply CoreOk.setGr | apply CoreOk.setGrs | apply CoreOk.setAr | apply CoreOk.setFlags
    | apply KeepsFlow.done | apply KeepsFlow.exc | intro _ | split | extract_lets

theorem execNeg_keeps {c : CoreId} {rd : BitVec 4} (h : Keeps r s) : KeepsOut r (execNeg c rd s) := by
  delta execNeg
  repeat' with_reducible first
    | assumption | apply State.unary_keeps | apply KeepsOut.next | apply CoreOk.next | apply CoreOk.alu16
    | apply CoreOk.setResult | apply CoreOk.setGr | apply CoreOk.setGrs | apply CoreOk.setAr | apply CoreOk.setFlags
    | apply KeepsFlow.done | apply KeepsFlow.exc | intro _ | split | extract_lets

theorem execSwapb_keeps {c : CoreId} {rd : BitVec 4} (h : Keeps r s) : KeepsOut r (execSwapb c rd s) := by
  delta execSwapb
  repeat' with_reducible first
    | assumption | apply State.unary_keeps | apply KeepsOut.next | apply CoreOk.next | apply CoreOk.alu16
    | apply CoreOk.setResult | apply CoreOk.setGr | apply CoreOk.setGrs | apply CoreOk.setAr | apply CoreOk.setFlags
    | apply KeepsFlow.done | apply KeepsFlow.exc | intro _ | split | extract_lets

theorem execZxb_keeps {c : CoreId} {rd : BitVec 4} (h : Keeps r s) : KeepsOut r (execZxb c rd s) := by
  delta execZxb
  repeat' with_reducible first
    | assumption | apply State.unary_keeps | apply KeepsOut.next | apply CoreOk.next | apply CoreOk.alu16
    | apply CoreOk.setResult | apply CoreOk.setGr | apply CoreOk.setGrs | apply CoreOk.setAr | apply CoreOk.setFlags
    | apply KeepsFlow.done | apply KeepsFlow.exc | intro _ | split | extract_lets

theorem execSxb_keeps {c : CoreId} {rd : BitVec 4} (h : Keeps r s) : KeepsOut r (execSxb c rd s) := by
  delta execSxb
  repeat' with_reducible first
    | assumption | apply State.unary_keeps | apply KeepsOut.next | apply CoreOk.next | apply CoreOk.alu16
    | apply CoreOk.setResult | apply CoreOk.setGr | apply CoreOk.setGrs | apply CoreOk.setAr | apply CoreOk.setFlags
    | apply KeepsFlow.done | apply KeepsFlow.exc | intro _ | split | extract_lets

theorem execClz_keeps {c : CoreId} {rd : BitVec 4} (h : Keeps r s) : KeepsOut r (execClz c rd s) := by
  delta execClz
  repeat' with_reducible first
    | assumption | apply State.unary_keeps | apply KeepsOut.next | apply CoreOk.next | apply CoreOk.alu16
    | apply CoreOk.setResult | apply CoreOk.setGr | apply CoreOk.setGrs | apply CoreOk.setAr | apply CoreOk.setFlags
    | apply KeepsFlow.done | apply KeepsFlow.exc | intro _ | split | extract_lets

theorem execPopc_keeps {c : CoreId} {rd : BitVec 4} (h : Keeps r s) : KeepsOut r (execPopc c rd s) := by
  delta execPopc
  repeat' with_reducible first
    | assumption | apply State.unary_keeps | apply KeepsOut.next | apply CoreOk.next | apply CoreOk.alu16
    | apply CoreOk.setResult | apply CoreOk.setGr | apply CoreOk.setGrs | apply CoreOk.setAr | apply CoreOk.setFlags
    | apply KeepsFlow.done | apply KeepsFlow.exc | intro _ | split | extract_lets

theorem execShli_keeps {c : CoreId} {rd : BitVec 4} {n : BitVec 4} (h : Keeps r s) :
    KeepsOut r (execShli c rd n s) := by
  delta execShli
  repeat' with_reducible first
    | assumption | apply State.unary_keeps | apply KeepsOut.next | apply CoreOk.next | apply CoreOk.alu16
    | apply CoreOk.setResult | apply CoreOk.setGr | apply CoreOk.setGrs | apply CoreOk.setAr | apply CoreOk.setFlags
    | apply KeepsFlow.done | apply KeepsFlow.exc | intro _ | split | extract_lets

theorem execShri_keeps {c : CoreId} {rd : BitVec 4} {n : BitVec 4} (h : Keeps r s) :
    KeepsOut r (execShri c rd n s) := by
  delta execShri
  repeat' with_reducible first
    | assumption | apply State.unary_keeps | apply KeepsOut.next | apply CoreOk.next | apply CoreOk.alu16
    | apply CoreOk.setResult | apply CoreOk.setGr | apply CoreOk.setGrs | apply CoreOk.setAr | apply CoreOk.setFlags
    | apply KeepsFlow.done | apply KeepsFlow.exc | intro _ | split | extract_lets

theorem execSari_keeps {c : CoreId} {rd : BitVec 4} {n : BitVec 4} (h : Keeps r s) :
    KeepsOut r (execSari c rd n s) := by
  delta execSari
  repeat' with_reducible first
    | assumption | apply State.unary_keeps | apply KeepsOut.next | apply CoreOk.next | apply CoreOk.alu16
    | apply CoreOk.setResult | apply CoreOk.setGr | apply CoreOk.setGrs | apply CoreOk.setAr | apply CoreOk.setFlags
    | apply KeepsFlow.done | apply KeepsFlow.exc | intro _ | split | extract_lets

theorem execRoli_keeps {c : CoreId} {rd : BitVec 4} {n : BitVec 4} (h : Keeps r s) :
    KeepsOut r (execRoli c rd n s) := by
  delta execRoli
  repeat' with_reducible first
    | assumption | apply State.unary_keeps | apply KeepsOut.next | apply CoreOk.next | apply CoreOk.alu16
    | apply CoreOk.setResult | apply CoreOk.setGr | apply CoreOk.setGrs | apply CoreOk.setAr | apply CoreOk.setFlags
    | apply KeepsFlow.done | apply KeepsFlow.exc | intro _ | split | extract_lets

theorem execAmov_keeps {c : CoreId} {ra : BitVec 3} {x : BitVec 3} (h : Keeps r s) :
    KeepsOut r (execAmov c ra x s) := by
  delta execAmov
  repeat' with_reducible first
    | assumption | apply State.address_keeps | apply KeepsOut.next | apply CoreOk.next | apply CoreOk.alu16
    | apply CoreOk.setResult | apply CoreOk.setGr | apply CoreOk.setGrs | apply CoreOk.setAr | apply CoreOk.setFlags
    | apply KeepsFlow.done | apply KeepsFlow.exc | intro _ | split | extract_lets

theorem execAadd_keeps {c : CoreId} {ra : BitVec 3} {x : BitVec 4} (h : Keeps r s) :
    KeepsOut r (execAadd c ra x s) := by
  delta execAadd
  repeat' with_reducible first
    | assumption | apply State.address_keeps | apply KeepsOut.next | apply CoreOk.next | apply CoreOk.alu16
    | apply CoreOk.setResult | apply CoreOk.setGr | apply CoreOk.setGrs | apply CoreOk.setAr | apply CoreOk.setFlags
    | apply KeepsFlow.done | apply KeepsFlow.exc | intro _ | split | extract_lets

theorem execAaddp_keeps {c : CoreId} {ra : BitVec 3} {x : BitVec 4} (h : Keeps r s) :
    KeepsOut r (execAaddp c ra x s) := by
  delta execAaddp
  repeat' with_reducible first
    | assumption | apply State.address_keeps | apply KeepsOut.next | apply CoreOk.next | apply CoreOk.alu16
    | apply CoreOk.setResult | apply CoreOk.setGr | apply CoreOk.setGrs | apply CoreOk.setAr | apply CoreOk.setFlags
    | apply KeepsFlow.done | apply KeepsFlow.exc | intro _ | split | extract_lets

theorem execAaddi_keeps {c : CoreId} {ra : BitVec 3} {imm : BitVec 16} (h : Keeps r s) :
    KeepsOut r (execAaddi c ra imm s) := by
  delta execAaddi
  repeat' with_reducible first
    | assumption | apply State.address_keeps | apply KeepsOut.next | apply CoreOk.next | apply CoreOk.alu16
    | apply CoreOk.setResult | apply CoreOk.setGr | apply CoreOk.setGrs | apply CoreOk.setAr | apply CoreOk.setFlags
    | apply KeepsFlow.done | apply KeepsFlow.exc | intro _ | split | extract_lets

theorem execAmovi_keeps {c : CoreId} {ra : BitVec 3} {imm : BitVec 48} (h : Keeps r s) :
    KeepsOut r (execAmovi c ra imm s) := by
  delta execAmovi
  repeat' with_reducible first
    | assumption | apply State.address_keeps | apply KeepsOut.next | apply CoreOk.next | apply CoreOk.alu16
    | apply CoreOk.setResult | apply CoreOk.setGr | apply CoreOk.setGrs | apply CoreOk.setAr | apply CoreOk.setFlags
    | apply KeepsFlow.done | apply KeepsFlow.exc | intro _ | split | extract_lets

theorem execApc_keeps {c : CoreId} {ra : BitVec 3} {disp : BitVec 32} (h : Keeps r s) :
    KeepsOut r (execApc c ra disp s) := by
  delta execApc
  repeat' with_reducible first
    | assumption | apply State.address_keeps | apply KeepsOut.next | apply CoreOk.next | apply CoreOk.alu16
    | apply CoreOk.setResult | apply CoreOk.setGr | apply CoreOk.setGrs | apply CoreOk.setAr | apply CoreOk.setFlags
    | apply KeepsFlow.done | apply KeepsFlow.exc | intro _ | split | extract_lets

theorem execAmovg_keeps {c : CoreId} {ra : BitVec 3} {x : BitVec 4} (h : Keeps r s) :
    KeepsOut r (execAmovg c ra x s) := by
  delta execAmovg
  repeat' with_reducible first
    | assumption | apply State.address_keeps | apply KeepsOut.next | apply CoreOk.next | apply CoreOk.alu16
    | apply CoreOk.setResult | apply CoreOk.setGr | apply CoreOk.setGrs | apply CoreOk.setAr | apply CoreOk.setFlags
    | apply KeepsFlow.done | apply KeepsFlow.exc | intro _ | split | extract_lets

theorem execGmova_keeps {c : CoreId} {ra : BitVec 3} {x : BitVec 4} (h : Keeps r s) :
    KeepsOut r (execGmova c ra x s) := by
  delta execGmova
  repeat' with_reducible first
    | assumption | apply State.address_keeps | apply KeepsOut.next | apply CoreOk.next | apply CoreOk.alu16
    | apply CoreOk.setResult | apply CoreOk.setGr | apply CoreOk.setGrs | apply CoreOk.setAr | apply CoreOk.setFlags
    | apply KeepsFlow.done | apply KeepsFlow.exc | intro _ | split | extract_lets

theorem execAcmp_keeps {c : CoreId} {ra : BitVec 3} {x : BitVec 3} (h : Keeps r s) :
    KeepsOut r (execAcmp c ra x s) := by
  delta execAcmp
  repeat' with_reducible first
    | assumption | apply State.address_keeps | apply KeepsOut.next | (apply Keeps.snd; assumption) | apply CoreOk.next
    | apply CoreOk.alu16 | apply CoreOk.setResult | apply CoreOk.setGr | apply CoreOk.setGrs | apply CoreOk.setAr
    | apply CoreOk.setFlags | apply KeepsFlow.done | apply KeepsFlow.exc | intro _ | split | extract_lets

theorem execLmov_keeps {c : CoreId} {w : Bool} {rd : BitVec 3} {rs : BitVec 3} (h : Keeps r s) :
    KeepsOut r (execLmov c w rd rs s) := by
  delta execLmov
  repeat' with_reducible first
    | assumption | apply State.longAlu_keeps | apply KeepsOut.next | apply CoreOk.next | apply CoreOk.alu16
    | apply CoreOk.setResult | apply CoreOk.setGr | apply CoreOk.setGrs | apply CoreOk.setAr | apply CoreOk.setFlags
    | apply KeepsFlow.done | apply KeepsFlow.exc | intro _ | split | extract_lets

theorem execLadd_keeps {c : CoreId} {w : Bool} {rd : BitVec 3} {rs : BitVec 3} (h : Keeps r s) :
    KeepsOut r (execLadd c w rd rs s) := by
  delta execLadd
  repeat' with_reducible first
    | assumption | apply State.longAlu_keeps | apply KeepsOut.next | apply CoreOk.next | apply CoreOk.alu16
    | apply CoreOk.setResult | apply CoreOk.setGr | apply CoreOk.setGrs | apply CoreOk.setAr | apply CoreOk.setFlags
    | apply KeepsFlow.done | apply KeepsFlow.exc | intro _ | split | extract_lets

theorem execLsub_keeps {c : CoreId} {w : Bool} {rd : BitVec 3} {rs : BitVec 3} (h : Keeps r s) :
    KeepsOut r (execLsub c w rd rs s) := by
  delta execLsub
  repeat' with_reducible first
    | assumption | apply State.longAlu_keeps | apply KeepsOut.next | apply CoreOk.next | apply CoreOk.alu16
    | apply CoreOk.setResult | apply CoreOk.setGr | apply CoreOk.setGrs | apply CoreOk.setAr | apply CoreOk.setFlags
    | apply KeepsFlow.done | apply KeepsFlow.exc | intro _ | split | extract_lets

theorem execLcmp_keeps {c : CoreId} {w : Bool} {rd : BitVec 3} {rs : BitVec 3} (h : Keeps r s) :
    KeepsOut r (execLcmp c w rd rs s) := by
  delta execLcmp
  repeat' with_reducible first
    | assumption | apply State.longAlu_keeps | apply KeepsOut.next | apply CoreOk.next | apply CoreOk.alu16
    | apply CoreOk.setResult | apply CoreOk.setGr | apply CoreOk.setGrs | apply CoreOk.setAr | apply CoreOk.setFlags
    | apply KeepsFlow.done | apply KeepsFlow.exc | intro _ | split | extract_lets

theorem execLand_keeps {c : CoreId} {w : Bool} {rd : BitVec 3} {rs : BitVec 3} (h : Keeps r s) :
    KeepsOut r (execLand c w rd rs s) := by
  delta execLand
  repeat' with_reducible first
    | assumption | apply State.longAlu_keeps | apply KeepsOut.next | apply CoreOk.next | apply CoreOk.alu16
    | apply CoreOk.setResult | apply CoreOk.setGr | apply CoreOk.setGrs | apply CoreOk.setAr | apply CoreOk.setFlags
    | apply KeepsFlow.done | apply KeepsFlow.exc | intro _ | split | extract_lets

theorem execLor_keeps {c : CoreId} {w : Bool} {rd : BitVec 3} {rs : BitVec 3} (h : Keeps r s) :
    KeepsOut r (execLor c w rd rs s) := by
  delta execLor
  repeat' with_reducible first
    | assumption | apply State.longAlu_keeps | apply KeepsOut.next | apply CoreOk.next | apply CoreOk.alu16
    | apply CoreOk.setResult | apply CoreOk.setGr | apply CoreOk.setGrs | apply CoreOk.setAr | apply CoreOk.setFlags
    | apply KeepsFlow.done | apply KeepsFlow.exc | intro _ | split | extract_lets

theorem execLxor_keeps {c : CoreId} {w : Bool} {rd : BitVec 3} {rs : BitVec 3} (h : Keeps r s) :
    KeepsOut r (execLxor c w rd rs s) := by
  delta execLxor
  repeat' with_reducible first
    | assumption | apply State.longAlu_keeps | apply KeepsOut.next | apply CoreOk.next | apply CoreOk.alu16
    | apply CoreOk.setResult | apply CoreOk.setGr | apply CoreOk.setGrs | apply CoreOk.setAr | apply CoreOk.setFlags
    | apply KeepsFlow.done | apply KeepsFlow.exc | intro _ | split | extract_lets

theorem execLneg_keeps {c : CoreId} {w : Bool} {rd : BitVec 3} (h : Keeps r s) : KeepsOut r (execLneg c w rd s) := by
  delta execLneg
  repeat' with_reducible first
    | assumption | apply State.long_keeps | apply KeepsOut.next | apply CoreOk.next | apply CoreOk.alu16
    | apply CoreOk.setResult | apply CoreOk.setGr | apply CoreOk.setGrs | apply CoreOk.setAr | apply CoreOk.setFlags
    | apply KeepsFlow.done | apply KeepsFlow.exc | intro _ | split | extract_lets

theorem execLshl_keeps {c : CoreId} {w : Bool} {rd : BitVec 3} {rs : BitVec 3} (h : Keeps r s) :
    KeepsOut r (execLshl c w rd rs s) := by
  delta execLshl
  repeat' with_reducible first
    | assumption | apply State.longAlu_keeps | apply KeepsOut.next | apply CoreOk.next | apply CoreOk.alu16
    | apply CoreOk.setResult | apply CoreOk.setGr | apply CoreOk.setGrs | apply CoreOk.setAr | apply CoreOk.setFlags
    | apply KeepsFlow.done | apply KeepsFlow.exc | intro _ | split | extract_lets

theorem execLshr_keeps {c : CoreId} {w : Bool} {rd : BitVec 3} {rs : BitVec 3} (h : Keeps r s) :
    KeepsOut r (execLshr c w rd rs s) := by
  delta execLshr
  repeat' with_reducible first
    | assumption | apply State.longAlu_keeps | apply KeepsOut.next | apply CoreOk.next | apply CoreOk.alu16
    | apply CoreOk.setResult | apply CoreOk.setGr | apply CoreOk.setGrs | apply CoreOk.setAr | apply CoreOk.setFlags
    | apply KeepsFlow.done | apply KeepsFlow.exc | intro _ | split | extract_lets

theorem execLsar_keeps {c : CoreId} {w : Bool} {rd : BitVec 3} {rs : BitVec 3} (h : Keeps r s) :
    KeepsOut r (execLsar c w rd rs s) := by
  delta execLsar
  repeat' with_reducible first
    | assumption | apply State.longAlu_keeps | apply KeepsOut.next | apply CoreOk.next | apply CoreOk.alu16
    | apply CoreOk.setResult | apply CoreOk.setGr | apply CoreOk.setGrs | apply CoreOk.setAr | apply CoreOk.setFlags
    | apply KeepsFlow.done | apply KeepsFlow.exc | intro _ | split | extract_lets

theorem execLmulu_keeps {c : CoreId} {w : Bool} {rd : BitVec 3} {rs : BitVec 3} (h : Keeps r s) :
    KeepsOut r (execLmulu c w rd rs s) := by
  delta execLmulu
  repeat' with_reducible first
    | assumption | apply State.longAlu_keeps | apply KeepsOut.next | apply CoreOk.next | apply CoreOk.alu16
    | apply CoreOk.setResult | apply CoreOk.setGr | apply CoreOk.setGrs | apply CoreOk.setAr | apply CoreOk.setFlags
    | apply KeepsFlow.done | apply KeepsFlow.exc | intro _ | split | extract_lets

theorem execLmulhu_keeps {c : CoreId} {w : Bool} {rd : BitVec 3} {rs : BitVec 3} (h : Keeps r s) :
    KeepsOut r (execLmulhu c w rd rs s) := by
  delta execLmulhu
  repeat' with_reducible first
    | assumption | apply State.longAlu_keeps | apply KeepsOut.next | apply CoreOk.next | apply CoreOk.alu16
    | apply CoreOk.setResult | apply CoreOk.setGr | apply CoreOk.setGrs | apply CoreOk.setAr | apply CoreOk.setFlags
    | apply KeepsFlow.done | apply KeepsFlow.exc | intro _ | split | extract_lets

theorem execLmulhs_keeps {c : CoreId} {w : Bool} {rd : BitVec 3} {rs : BitVec 3} (h : Keeps r s) :
    KeepsOut r (execLmulhs c w rd rs s) := by
  delta execLmulhs
  repeat' with_reducible first
    | assumption | apply State.long_keeps | apply KeepsOut.next | apply CoreOk.next | apply CoreOk.alu16
    | apply CoreOk.setResult | apply CoreOk.setGr | apply CoreOk.setGrs | apply CoreOk.setAr | apply CoreOk.setFlags
    | apply KeepsFlow.done | apply KeepsFlow.exc | intro _ | split | extract_lets

theorem execLsxw_keeps {c : CoreId} {w : Bool} {rd : BitVec 3} {rs : BitVec 3} (h : Keeps r s) :
    KeepsOut r (execLsxw c w rd rs s) := by
  delta execLsxw
  repeat' with_reducible first
    | assumption | apply State.long_keeps | apply KeepsOut.next | apply CoreOk.next | apply CoreOk.alu16
    | apply CoreOk.setResult | apply CoreOk.setGr | apply CoreOk.setGrs | apply CoreOk.setAr | apply CoreOk.setFlags
    | apply KeepsFlow.done | apply KeepsFlow.exc | intro _ | split | extract_lets

end Sys2Proof.Machine
end

