-- ==== Sys2Proof/Laws/KeepsBar0.lean ====
section
/-! SUPPORT. The operations of Machine/Bar0.lean leave the queue and the clock alone and keep the invariant. -/

namespace Sys2Proof.Machine

variable {r s : State}

theorem State.bar0Read_keeps {p : Nat} {f : Nat} {off : Nat} {lo : Bool} {hi : Bool} (h : Keeps r s) :
    Keeps r (State.bar0Read s p f off lo hi).2 := by
  delta State.bar0Read
  repeat' with_reducible first
    | assumption | apply State.readPart_keeps | apply Keeps.fold | apply Keeps.fold2 | apply Keeps.fold3
    | (apply Keeps.snd; assumption) | (apply Keeps.trd; assumption) | apply Keeps.ite | intro _ | split | extract_lets

theorem State.pfWrite_keeps {port : HostPort} {func : FuncId} {off : Nat} {v : Nat} {lo : Bool} {hi : Bool} (h : Keeps r s) :
    Keeps r (State.pfWrite s port func off v lo hi) := by
  delta State.pfWrite
  repeat' with_reducible first
    | assumption | apply State.writePart_keeps | apply Keeps.ite | intro _ | split | extract_lets

theorem State.bar0Write_keeps {port : HostPort} {func : FuncId} {off : Nat} {v : Nat} {lo : Bool} {hi : Bool} (h : Keeps r s) :
    Keeps r (State.bar0Write s port func off v lo hi) := by
  delta State.bar0Write
  repeat' with_reducible first
    | assumption | apply State.pfWrite_keeps | apply State.sendPending_keeps | apply State.setMsixDw_keeps
    | apply Keeps.ite | intro _ | split | extract_lets

theorem State.admitBar0_keeps {p : Nat} {f : Nat} {off : Nat} {req : Bar0Op} (h : Keeps r s) :
    Keeps r (State.admitBar0 s p f off req).2 := by
  delta State.admitBar0
  repeat' with_reducible first
    | assumption | apply State.aerError_keeps | apply State.badRead_keeps | apply State.badReq_keeps
    | apply State.count_keeps | exact KeepsOpt.none _ | apply KeepsOpt.some | (apply Keeps.snd; assumption)
    | (apply Keeps.trd; assumption) | apply Keeps.ite | intro _ | split | extract_lets

theorem State.bar0Serve_keeps {p : Nat} {f : Nat} {off : Nat} {req : Bar0Op} (h : Keeps r s) :
    Keeps r (State.bar0Serve s p f off req) := by
  delta State.bar0Serve
  repeat' with_reducible first
    | assumption | apply State.bar0Read_keeps | apply State.bar0Write_keeps | apply State.complete_keeps
    | apply Keeps.fold | apply Keeps.fold2 | apply Keeps.fold3 | apply KeepsOpt.getD | (apply Keeps.snd; assumption)
    | apply Keeps.ite | intro _ | split | extract_lets

theorem State.serveHost_keeps {p : Nat} {f : Nat} {op : HostOp} (h : Keeps r s) :
    Keeps r (State.serveHost s p f op) := by
  delta State.serveHost
  repeat' with_reducible first
    | assumption | apply State.bar0Serve_keeps | apply State.configServe_keeps | apply State.frameReads_keeps
    | apply State.frameWrites_keeps | apply State.hostDramRead_keeps | apply State.hostDramWrite_keeps
    | (apply Keeps.snd; assumption) | apply Keeps.ite | intro _ | split | extract_lets

theorem State.hostArrives_keeps {p : Nat} {f : Nat} {ro : Bool} {accept : State → Option HostOp × State} (h : Keeps r s) (hf : ∀ t, Keeps r t → Keeps r (accept t).2) :
    Keeps r (State.hostArrives s p f ro accept) := by
  delta State.hostArrives
  repeat' with_reducible first
    | assumption | apply hf | apply State.modPx_keeps | apply State.serveHost_keeps | (apply Keeps.snd; assumption)
    | apply Keeps.ite | intro _ | split | extract_lets

theorem State.admitConfig_keeps {p : Nat} {f : Nat} {op : ConfigOp} (h : Keeps r s) :
    Keeps r (State.admitConfig s p f op).2 := by
  delta State.admitConfig
  repeat' with_reducible first
    | assumption | apply State.badRead_keeps | apply State.leaves_keeps | exact KeepsOpt.none _ | apply KeepsOpt.some
    | (apply Keeps.snd; assumption) | (apply Keeps.trd; assumption) | apply Keeps.ite | intro _ | split | extract_lets

theorem State.bar0Access_keeps {port : HostPort} {func : FuncId} {off : Nat} {req : Bar0Op} (h : Keeps r s) :
    Keeps r (State.bar0Access s port func off req) := by
  delta State.bar0Access
  repeat' with_reducible first
    | assumption | apply State.admitBar0_keeps | apply State.hostArrives_keeps | intro _ | split | extract_lets

theorem State.discardSince_keeps {n : Nat} (h : Keeps r s) : Keeps r (State.discardSince s n) := by
  delta State.discardSince
  repeat' with_reducible first
    | assumption | (apply Keeps.snd; assumption) | intro _ | split | extract_lets | apply Keeps.upd | rfl

theorem State.serveWait_keeps {p : Nat} {w : HostWait} (h : Keeps r s) : Keeps r (State.serveWait s p w) := by
  delta State.serveWait
  repeat' with_reducible first
    | assumption | apply State.discardSince_keeps | apply State.serveHost_keeps | apply Keeps.ite | intro _ | split
    | extract_lets

theorem State.serveRun_keeps {p : Nat} {x2 : Nat} (h : Keeps r s) : Keeps r (State.serveRun s p x2) := by
  induction x2 generalizing s with
  | zero =>
    dsimp only [State.serveRun]
    repeat' with_reducible first
      | assumption | apply State.modPx_keeps | apply State.serveWait_keeps | apply Keeps.fold | apply Keeps.fold2
      | apply Keeps.fold3 | (apply Keeps.snd; assumption) | (apply KeepsOpt.of; assumption) | apply Keeps.ite
      | intro _ | split | extract_lets
  | succ n ih =>
    dsimp only [State.serveRun]
    repeat' with_reducible first
      | assumption | apply ih | apply State.modPx_keeps | apply State.serveWait_keeps | apply Keeps.fold
      | apply Keeps.fold2 | apply Keeps.fold3 | (apply Keeps.snd; assumption) | (apply KeepsOpt.of; assumption)
      | apply Keeps.ite | intro _ | split | extract_lets

theorem State.serveWaiting_keeps {p : Nat} (h : Keeps r s) : Keeps r (State.serveWaiting s p) := by
  delta State.serveWaiting
  repeat' with_reducible first
    | assumption | apply State.serveRun_keeps | intro _ | split | extract_lets

theorem State.hostHeartbeat_keeps {rq : Requester} {port : HostPort} {v : Nat} (h : Keeps r s) :
    Keeps r (State.hostHeartbeat s rq port v) := by
  delta State.hostHeartbeat
  repeat' with_reducible first
    | assumption | apply State.bar0Access_keeps | apply State.found_keeps | apply State.regCommand_keeps
    | (apply Keeps.snd; assumption) | apply Keeps.ite | intro _ | split | extract_lets

theorem execConfigurationRequest_keeps {port : HostPort} {func : FuncId} {what : ConfigOp} (h : Keeps r s) :
    KeepsOut r (execConfigurationRequest port func what s) := by
  delta execConfigurationRequest
  repeat' with_reducible first
    | assumption | apply State.admitConfig_keeps | apply State.hostArrives_keeps | apply KeepsOut.next | intro _
    | split | extract_lets

theorem execHostWrite_keeps {port : HostPort} {func : FuncId} {bar : HostBar} {offset : Nat} {data : List Byte} {be : List Bool} {ro : Bool} {poison : Bool} (h : Keeps r s) :
    KeepsOut r (execHostWrite port func bar offset data be ro poison s) := by
  delta execHostWrite
  repeat' with_reducible first
    | assumption | apply State.admitWrite_keeps | apply State.hostArrives_keeps | apply KeepsOut.next
    | apply Keeps.ite | intro _ | split | extract_lets

theorem execHostRead_keeps {port : HostPort} {func : FuncId} {bar : HostBar} {offset : Nat} {len : Nat} {be : List Bool} (h : Keeps r s) :
    KeepsOut r (execHostRead port func bar offset len be s) := by
  delta execHostRead
  repeat' with_reducible first
    | assumption | apply State.admitRead_keeps | apply State.hostArrives_keeps | apply KeepsOut.next | intro _ | split
    | extract_lets

theorem execBar0Access_keeps {port : HostPort} {func : FuncId} {offset : BitVec 24} {req : Bar0Op} (h : Keeps r s) :
    KeepsOut r (execBar0Access port func offset req s) := by
  delta execBar0Access
  repeat' with_reducible first
    | assumption | apply State.bar0Access_keeps | apply KeepsOut.next | intro _ | split | extract_lets

theorem execHostHeartbeat_keeps {rq : Requester} {port : HostPort} {value : BitVec 32} (h : Keeps r s) :
    KeepsOut r (execHostHeartbeat rq port value s) := by
  delta execHostHeartbeat
  repeat' with_reducible first
    | assumption | apply State.hostHeartbeat_keeps | apply KeepsOut.next | intro _ | split | extract_lets

end Sys2Proof.Machine
end

