-- ==== Sys2Proof/Laws/KeepsBranch.lean ====
section
/-! SUPPORT. The operations of Machine/Branch.lean leave the queue and the clock alone and keep the invariant. -/

namespace Sys2Proof.Machine

variable {r s : State}

theorem State.jump_keeps {c : CoreId} {n : Nat} {call : Bool} {target : Core → Addr} (h : Keeps r s) :
    Keeps r (State.jump s c n call target) := by
  delta State.jump
  repeat' with_reducible first
    | assumption | apply State.instr_keeps | apply State.modCore_keeps
    | (apply CoreOk.same <;> first | assumption | rfl) | apply Keeps.ite | apply KeepsFlow.done | apply KeepsFlow.exc
    | intro _ | split | extract_lets

theorem execShortBranch_keeps {c : CoreId} {cond : Fin 15} {disp : BitVec 8} (h : Keeps r s) :
    KeepsOut r (execShortBranch c cond disp s) := by
  delta execShortBranch
  repeat' with_reducible first
    | assumption | apply State.jump_keeps | apply KeepsOut.next | apply KeepsFlow.done | apply KeepsFlow.exc | intro _
    | split | extract_lets

theorem execJcc_keeps {c : CoreId} {cond : Fin 15} {disp : BitVec 32} (h : Keeps r s) :
    KeepsOut r (execJcc c cond disp s) := by
  delta execJcc
  repeat' with_reducible first
    | assumption | apply State.jump_keeps | apply KeepsOut.next | apply KeepsFlow.done | apply KeepsFlow.exc | intro _
    | split | extract_lets

theorem execCall_keeps {c : CoreId} {disp : BitVec 32} (h : Keeps r s) : KeepsOut r (execCall c disp s) := by
  delta execCall
  repeat' with_reducible first
    | assumption | apply State.jump_keeps | apply KeepsOut.next | apply KeepsFlow.done | apply KeepsFlow.exc | intro _
    | split | extract_lets

theorem execJmpa_keeps {c : CoreId} {ra : BitVec 3} (h : Keeps r s) : KeepsOut r (execJmpa c ra s) := by
  delta execJmpa
  repeat' with_reducible first
    | assumption | apply State.jump_keeps | apply KeepsOut.next | apply KeepsFlow.done | apply KeepsFlow.exc | intro _
    | split | extract_lets

theorem execCalla_keeps {c : CoreId} {ra : BitVec 3} (h : Keeps r s) : KeepsOut r (execCalla c ra s) := by
  delta execCalla
  repeat' with_reducible first
    | assumption | apply State.jump_keeps | apply KeepsOut.next | apply KeepsFlow.done | apply KeepsFlow.exc | intro _
    | split | extract_lets

theorem execRet_keeps {c : CoreId} (h : Keeps r s) : KeepsOut r (execRet c s) := by
  delta execRet
  repeat' with_reducible first
    | assumption | apply State.jump_keeps | apply KeepsOut.next | apply KeepsFlow.done | apply KeepsFlow.exc | intro _
    | split | extract_lets

end Sys2Proof.Machine
end

