-- ==== Sys2Proof/Laws/KeepsDram.lean ====
section
/-! SUPPORT. The operations of Machine/Dram.lean leave the queue and the clock alone and keep the invariant. -/

namespace Sys2Proof.Machine

variable {r s : State}

theorem State.drEvent_keeps {sl : Nat} {f : Field} (h : Keeps r s) : Keeps r (State.drEvent s sl f) := by
  delta State.drEvent
  repeat' with_reducible first
    | assumption | apply State.deviceEvent_keeps | apply State.setFlag_keeps | apply State.setFld_keeps | intro _
    | split | extract_lets

theorem State.refreshDue_keeps {sl : Nat} (h : Keeps r s) : Keeps r (State.refreshDue s sl) := by
  delta State.refreshDue
  repeat' with_reducible first
    | assumption | apply State.drEvent_keeps | apply State.modSlice_keeps | apply Keeps.ite | intro _ | split
    | extract_lets

theorem State.refreshOperation_keeps {sl : Nat} (h : Keeps r s) : Keeps r (State.refreshOperation s sl) := by
  delta State.refreshOperation
  repeat' with_reducible first
    | assumption | apply State.setSlice_keeps | (apply Keeps.snd; assumption) | apply Keeps.ite | intro _ | split
    | extract_lets

theorem State.sliceSlot_keeps {sl : Nat} (h : Keeps r s) : Keeps r (State.sliceSlot s sl) := by
  delta State.sliceSlot
  repeat' with_reducible first
    | assumption | apply State.setSlice_keeps | (apply Keeps.snd; assumption) | apply Keeps.ite | intro _ | split
    | extract_lets

theorem State.scrub_keeps {sl : Nat} (h : Keeps r s) : Keeps r (State.scrub s sl) := by
  delta State.scrub
  repeat' with_reducible first
    | assumption | apply State.cleanUnit_keeps | apply State.dramMiscorrect_keeps | apply State.readUnit_keeps
    | apply State.setFld_keeps | (apply Keeps.snd; assumption) | apply Keeps.ite | intro _ | split | extract_lets

theorem State.setErased_keeps {sl : Nat} {lanes : List Nat} (h : Keeps r s) :
    Keeps r (State.setErased s sl lanes) := by
  delta State.setErased
  repeat' with_reducible first
    | assumption | apply State.setFld_keeps | apply State.setReg_keeps | (apply Keeps.snd; assumption) | intro _
    | split | extract_lets

theorem State.endTraining_keeps {sl : Nat} {lanes : List Nat} (h : Keeps r s) :
    Keeps r (State.endTraining s sl lanes) := by
  delta State.endTraining
  repeat' with_reducible first
    | assumption | apply State.drEvent_keeps | apply State.modSlice_keeps | apply State.setErased_keeps
    | apply Keeps.ite | intro _ | split | extract_lets

theorem State.zeroFill_keeps {sl : Nat} (h : Keeps r s) : Keeps r (State.zeroFill s sl) := by
  unfold State.zeroFill
  exact State.modSlice_keeps (Keeps.dram h fun hd => filter_wf _ hd)

theorem State.training_keeps {sl : Nat} {failed : List (BitVec 9)} (h : Keeps r s) :
    Keeps r (State.training s sl failed) := by
  delta State.training
  repeat' with_reducible first
    | assumption | apply State.endTraining_keeps | apply State.zeroFill_keeps | apply Keeps.ite | intro _ | split
    | extract_lets

theorem State.selfRefreshExit_keeps {sl : Nat} {failed : List (BitVec 9)} {retrain : Bool} (h : Keeps r s) :
    Keeps r (State.selfRefreshExit s sl failed retrain) := by
  delta State.selfRefreshExit
  repeat' with_reducible first
    | assumption | apply State.endTraining_keeps | apply State.modSlice_keeps | apply Keeps.ite | intro _ | split
    | extract_lets

theorem execRefreshDue_keeps {slice : SliceId} (h : Keeps r s) : KeepsOut r (execRefreshDue slice s) := by
  delta execRefreshDue
  repeat' with_reducible first
    | assumption | apply State.refreshDue_keeps | apply KeepsOut.next | intro _ | split | extract_lets

theorem execRefreshOperation_keeps {slice : SliceId} (h : Keeps r s) : KeepsOut r (execRefreshOperation slice s) := by
  delta execRefreshOperation
  repeat' with_reducible first
    | assumption | apply State.refreshOperation_keeps | apply KeepsOut.next | intro _ | split | extract_lets

theorem execScrub_keeps {slice : SliceId} (h : Keeps r s) : KeepsOut r (execScrub slice s) := by
  delta execScrub
  repeat' with_reducible first
    | assumption | apply State.scrub_keeps | apply KeepsOut.next | intro _ | split | extract_lets

theorem execTraining_keeps {slice : SliceId} {failed : List (BitVec 9)} (h : Keeps r s) :
    KeepsOut r (execTraining slice failed s) := by
  delta execTraining
  repeat' with_reducible first
    | assumption | apply State.training_keeps | apply KeepsOut.next | intro _ | split | extract_lets

theorem execSelfRefreshExit_keeps {slice : SliceId} {failed : List (BitVec 9)} {retrain : Bool} (h : Keeps r s) :
    KeepsOut r (execSelfRefreshExit slice failed retrain s) := by
  delta execSelfRefreshExit
  repeat' with_reducible first
    | assumption | apply State.selfRefreshExit_keeps | apply KeepsOut.next | intro _ | split | extract_lets

theorem execSliceSlot_keeps {slice : SliceId} (h : Keeps r s) : KeepsOut r (execSliceSlot slice s) := by
  delta execSliceSlot
  repeat' with_reducible first
    | assumption | apply State.sliceSlot_keeps | apply KeepsOut.next | intro _ | split | extract_lets

end Sys2Proof.Machine
end

