-- ==== Sys2Proof/Laws/KeepsFrames.lean ====
section
/-! SUPPORT. The operations of Machine/Frames.lean leave the queue and the clock alone and keep the invariant. -/

namespace Sys2Proof.Machine

variable {r s : State}

theorem State.frameVia_keeps {port : HostPort} {func : FuncId} {ctx : Nat} {fo : Nat} {v : Nat} {be : List Bool} (h : Keeps r s) :
    Keeps r (State.frameVia s port func ctx fo v be) := by
  delta State.frameVia
  repeat' with_reducible first
    | assumption | apply State.admitWrite_keeps | apply State.hostArrives_keeps | apply Keeps.ite | intro _ | split
    | extract_lets

theorem State.ctxVia_keeps {code : Nat} {via : ContextPath} {ctx : Nat} (h : Keeps r s) :
    Keeps r (State.ctxVia s code via ctx) := by
  delta State.ctxVia
  repeat' with_reducible first
    | assumption | apply State.cxReach_keeps | apply State.emit_keeps | apply State.frameVia_keeps
    | (apply Keeps.snd; assumption) | apply Keeps.ite | intro _ | split | extract_lets

theorem execOpenContext_keeps {via : ContextPath} {ctx : CtxId} (h : Keeps r s) :
    KeepsOut r (execOpenContext via ctx s) := by
  delta execOpenContext
  repeat' with_reducible first
    | assumption | apply State.ctxVia_keeps | apply KeepsOut.next | intro _ | split | extract_lets

theorem execPark_keeps {via : ContextPath} {ctx : CtxId} (h : Keeps r s) : KeepsOut r (execPark via ctx s) := by
  delta execPark
  repeat' with_reducible first
    | assumption | apply State.ctxVia_keeps | apply KeepsOut.next | intro _ | split | extract_lets

theorem execResumeContext_keeps {via : ContextPath} {ctx : CtxId} (h : Keeps r s) :
    KeepsOut r (execResumeContext via ctx s) := by
  delta execResumeContext
  repeat' with_reducible first
    | assumption | apply State.ctxVia_keeps | apply KeepsOut.next | intro _ | split | extract_lets

theorem execDropContext_keeps {via : ContextPath} {ctx : CtxId} (h : Keeps r s) :
    KeepsOut r (execDropContext via ctx s) := by
  delta execDropContext
  repeat' with_reducible first
    | assumption | apply State.ctxVia_keeps | apply KeepsOut.next | intro _ | split | extract_lets

theorem execClaim_keeps {via : ContextPath} {ctx : CtxId} (h : Keeps r s) : KeepsOut r (execClaim via ctx s) := by
  delta execClaim
  repeat' with_reducible first
    | assumption | apply State.ctxVia_keeps | apply KeepsOut.next | intro _ | split | extract_lets

theorem execAssign_keeps {via : ContextPath} {ctx : CtxId} (h : Keeps r s) : KeepsOut r (execAssign via ctx s) := by
  delta execAssign
  repeat' with_reducible first
    | assumption | apply State.ctxVia_keeps | apply KeepsOut.next | intro _ | split | extract_lets

theorem execCxInDb_keeps {port : HostPort} {func : FuncId} {ctx : CtxId} {value : BitVec 32} (h : Keeps r s) :
    KeepsOut r (execCxInDb port func ctx value s) := by
  delta execCxInDb
  repeat' with_reducible first
    | assumption | apply State.frameVia_keeps | apply KeepsOut.next | intro _ | split | extract_lets

theorem execCxOutDb_keeps {port : HostPort} {func : FuncId} {ctx : CtxId} {value : BitVec 32} (h : Keeps r s) :
    KeepsOut r (execCxOutDb port func ctx value s) := by
  delta execCxOutDb
  repeat' with_reducible first
    | assumption | apply State.frameVia_keeps | apply KeepsOut.next | intro _ | split | extract_lets

theorem State.recordVia_keeps {path : RecordPath} {lo : Bool} {hi : Bool} {v : Nat} (h : Keeps r s) :
    Keeps r (State.recordVia s path lo hi v) := by
  delta State.recordVia
  repeat' with_reducible first
    | assumption | apply State.cxReach_keeps | apply State.emit_keeps | apply State.frameVia_keeps
    | (apply Keeps.snd; assumption) | apply Keeps.ite | intro _ | split | extract_lets

theorem State.recordByte_keeps {path : RecordPath} {v : Nat} (h : Keeps r s) :
    Keeps r (State.recordByte s path v) := by
  delta State.recordByte
  repeat' with_reducible first
    | assumption | apply State.emit_keeps | apply State.frameVia_keeps | (apply Keeps.snd; assumption) | intro _
    | split | extract_lets

theorem execRecordWrite_keeps {path : RecordPath} {size : AccessSize} {half : Bool} {value : BitVec 32} (h : Keeps r s) :
    KeepsOut r (execRecordWrite path size half value s) := by
  delta execRecordWrite
  repeat' with_reducible first
    | assumption | apply State.recordByte_keeps | apply State.recordVia_keeps | apply KeepsOut.next
    | (apply Keeps.snd; assumption) | apply Keeps.ite | intro _ | split | extract_lets

end Sys2Proof.Machine
end

