-- ==== Sys2Proof/Laws/KeepsLoadStore.lean ====
section
/-! SUPPORT. The operations of Machine/LoadStore.lean leave the queue and the clock alone and keep the invariant. -/

namespace Sys2Proof.Machine

variable {r s : State}

theorem CoreOk.updateBase {x : Core} (h : CoreOk x) (mode : BitVec 2) (rb : BitVec 3) (disp : BitVec 16) :
    CoreOk (x.updateBase mode rb disp) := by
  unfold Core.updateBase
  split
  · exact h.setAr _ _
  · exact h

theorem State.load_keeps {c : CoreId} {vol : Bool} {mode : BitVec 2} {rb : BitVec 3} {disp : BitVec 16} {n : Nat} {aligned : Bool} {put : Core → List Half → Core} (h : Keeps r s) (hp : ∀ x ws, CoreOk x → CoreOk (put x ws)) :
    Keeps r (State.load s c vol mode rb disp n aligned put) := by
  delta State.load
  repeat' with_reducible first
    | assumption | apply hp | apply State.instrLoad_keeps | apply State.loadWords_keeps | apply State.modCore_keeps
    | (apply Keeps.snd; assumption) | (apply CoreOk.same <;> first | assumption | rfl)
    | (apply KeepsLoaded.of_ok; assumption) | (apply KeepsLoaded.of_hold; assumption)
    | (apply KeepsLoaded.of_exc; assumption) | apply Keeps.ite | apply CoreOk.next | apply CoreOk.setGrs
    | apply CoreOk.setArOrLk | apply CoreOk.updateBase | apply KeepsFlow.done | apply KeepsFlow.exc | intro _ | split
    | extract_lets | exact KeepsFlow.wait _ | apply KeepsFlow.hold

theorem State.store_keeps {c : CoreId} {mode : BitVec 2} {rb : BitVec 3} {disp : BitVec 16} {aligned : Bool} {words : Core → List Half} (h : Keeps r s) :
    Keeps r (State.store s c mode rb disp aligned words) := by
  delta State.store
  repeat' with_reducible first
    | assumption | apply State.instr_keeps | apply State.modCore_keeps | apply State.storeWords_keeps
    | (apply Keeps.snd; assumption) | (apply CoreOk.same <;> first | assumption | rfl) | apply Keeps.ite
    | apply CoreOk.next | apply CoreOk.setGrs | apply CoreOk.setArOrLk | apply CoreOk.updateBase
    | apply KeepsFlow.done | apply KeepsFlow.exc | intro _ | split | extract_lets | exact KeepsFlow.wait _
    | apply KeepsFlow.hold

theorem execLd_keeps {c : CoreId} {vol : Bool} {mode : BitVec 2} {rd : BitVec 4} {rb : BitVec 3} {disp : BitVec 16} (h : Keeps r s) :
    KeepsOut r (execLd c vol mode rd rb disp s) := by
  delta execLd
  repeat' with_reducible first
    | assumption | apply State.load_keeps | apply KeepsOut.next | apply CoreOk.next | apply CoreOk.setGrs
    | apply CoreOk.setArOrLk | apply CoreOk.updateBase | apply KeepsFlow.done | apply KeepsFlow.exc | intro _ | split
    | extract_lets

theorem execLdP_keeps {c : CoreId} {vol : Bool} {mode : BitVec 2} {rd : BitVec 4} {rb : BitVec 3} {disp : BitVec 16} (h : Keeps r s) :
    KeepsOut r (execLdP c vol mode rd rb disp s) := by
  delta execLdP
  repeat' with_reducible first
    | assumption | apply State.load_keeps | apply KeepsOut.next | apply CoreOk.next | apply CoreOk.setGrs
    | apply CoreOk.setArOrLk | apply CoreOk.updateBase | apply KeepsFlow.done | apply KeepsFlow.exc | intro _ | split
    | extract_lets

theorem execLdQ_keeps {c : CoreId} {vol : Bool} {mode : BitVec 2} {rd : BitVec 4} {rb : BitVec 3} {disp : BitVec 16} (h : Keeps r s) :
    KeepsOut r (execLdQ c vol mode rd rb disp s) := by
  delta execLdQ
  repeat' with_reducible first
    | assumption | apply State.load_keeps | apply KeepsOut.next | apply CoreOk.next | apply CoreOk.setGrs
    | apply CoreOk.setArOrLk | apply CoreOk.updateBase | apply KeepsFlow.done | apply KeepsFlow.exc | intro _ | split
    | extract_lets

theorem execLdA_keeps {c : CoreId} {vol : Bool} {mode : BitVec 2} {rd : Fin 9} {rb : BitVec 3} {disp : BitVec 16} (h : Keeps r s) :
    KeepsOut r (execLdA c vol mode rd rb disp s) := by
  delta execLdA
  repeat' with_reducible first
    | assumption | apply State.load_keeps | apply KeepsOut.next | apply CoreOk.next | apply CoreOk.setGrs
    | apply CoreOk.setArOrLk | apply CoreOk.updateBase | apply KeepsFlow.done | apply KeepsFlow.exc | intro _ | split
    | extract_lets

theorem execSt_keeps {c : CoreId} {mode : BitVec 2} {rd : BitVec 4} {rb : BitVec 3} {disp : BitVec 16} (h : Keeps r s) :
    KeepsOut r (execSt c mode rd rb disp s) := by
  delta execSt
  repeat' with_reducible first
    | assumption | apply State.store_keeps | apply KeepsOut.next | apply CoreOk.next | apply CoreOk.setGrs
    | apply CoreOk.setArOrLk | apply CoreOk.updateBase | apply KeepsFlow.done | apply KeepsFlow.exc | intro _ | split
    | extract_lets

theorem execStP_keeps {c : CoreId} {mode : BitVec 2} {rd : BitVec 4} {rb : BitVec 3} {disp : BitVec 16} (h : Keeps r s) :
    KeepsOut r (execStP c mode rd rb disp s) := by
  delta execStP
  repeat' with_reducible first
    | assumption | apply State.store_keeps | apply KeepsOut.next | apply CoreOk.next | apply CoreOk.setGrs
    | apply CoreOk.setArOrLk | apply CoreOk.updateBase | apply KeepsFlow.done | apply KeepsFlow.exc | intro _ | split
    | extract_lets

theorem execStQ_keeps {c : CoreId} {mode : BitVec 2} {rd : BitVec 4} {rb : BitVec 3} {disp : BitVec 16} (h : Keeps r s) :
    KeepsOut r (execStQ c mode rd rb disp s) := by
  delta execStQ
  repeat' with_reducible first
    | assumption | apply State.store_keeps | apply KeepsOut.next | apply CoreOk.next | apply CoreOk.setGrs
    | apply CoreOk.setArOrLk | apply CoreOk.updateBase | apply KeepsFlow.done | apply KeepsFlow.exc | intro _ | split
    | extract_lets

theorem execStA_keeps {c : CoreId} {mode : BitVec 2} {rd : Fin 9} {rb : BitVec 3} {disp : BitVec 16} (h : Keeps r s) :
    KeepsOut r (execStA c mode rd rb disp s) := by
  delta execStA
  repeat' with_reducible first
    | assumption | apply State.store_keeps | apply KeepsOut.next | apply CoreOk.next | apply CoreOk.setGrs
    | apply CoreOk.setArOrLk | apply CoreOk.updateBase | apply KeepsFlow.done | apply KeepsFlow.exc | intro _ | split
    | extract_lets

theorem execStoreAcknowledgement_keeps {c : CoreId} (h : Keeps r s) : KeepsOut r (execStoreAcknowledgement c s) := by
  delta execStoreAcknowledgement
  repeat' with_reducible first
    | assumption | apply State.storeAck_keeps | apply KeepsOut.next | apply CoreOk.next | apply CoreOk.setGrs
    | apply CoreOk.setArOrLk | apply CoreOk.updateBase | apply KeepsFlow.done | apply KeepsFlow.exc | intro _ | split
    | extract_lets

end Sys2Proof.Machine
end

