-- ==== Sys2Proof/Laws/KeepsMgmt.lean ====
section
/-! SUPPORT. The operations of Machine/Mgmt.lean leave the queue and the clock alone and keep the invariant. -/

namespace Sys2Proof.Machine

variable {r s : State}

theorem State.respondVendor_keeps {via : Binding} {command : Nat} {inst : Byte} {status : Nat} {data : List Nat} (h : Keeps r s) :
    Keeps r (State.respondVendor s via command inst status data) := by
  delta State.respondVendor
  repeat' with_reducible first
    | assumption | apply State.emit_keeps | intro _ | split | extract_lets

theorem State.getPower_keeps {via : Binding} {inst : Byte} (h : Keeps r s) : Keeps r (State.getPower s via inst) := by
  delta State.getPower
  repeat' with_reducible first
    | assumption | apply State.respondVendor_keeps | apply Keeps.ite | intro _ | split | extract_lets

theorem State.setCap_keeps {via : Binding} {inst : Byte} {cap : Nat} (h : Keeps r s) :
    Keeps r (State.setCap s via inst cap) := by
  delta State.setCap
  repeat' with_reducible first
    | assumption | apply State.capWrite_keeps | apply State.respondVendor_keeps | apply Keeps.ite | intro _ | split
    | extract_lets

theorem State.readRegister_keeps {via : Binding} {inst : Byte} {addr : Nat} (h : Keeps r s) :
    Keeps r (State.readRegister s via inst addr) := by
  delta State.readRegister
  repeat' with_reducible first
    | assumption | apply State.regRead_keeps | apply State.respondVendor_keeps | (apply Keeps.snd; assumption)
    | apply Keeps.ite | intro _ | split | extract_lets

theorem State.writeRegister_keeps {via : Binding} {inst : Byte} {addr : Nat} {value : Nat} (h : Keeps r s) :
    Keeps r (State.writeRegister s via inst addr value) := by
  delta State.writeRegister
  repeat' with_reducible first
    | assumption | apply State.regWrite_keeps | apply State.respondVendor_keeps | (apply Keeps.snd; assumption)
    | apply Keeps.ite | intro _ | split | extract_lets

theorem State.getEvents_keeps {via : Binding} {inst : Byte} (h : Keeps r s) :
    Keeps r (State.getEvents s via inst) := by
  delta State.getEvents
  repeat' with_reducible first
    | assumption | apply State.respondVendor_keeps | apply Keeps.ite | intro _ | split | extract_lets

theorem State.respondControl_keeps {via : Binding} {command : Nat} {data : List Nat} (h : Keeps r s) :
    Keeps r (State.respondControl s via command data) := by
  delta State.respondControl
  repeat' with_reducible first
    | assumption | apply State.emit_keeps | apply Keeps.ite | intro _ | split | extract_lets

theorem State.setEndpointId_keeps {via : Binding} {eid : Byte} (h : Keeps r s) :
    Keeps r (State.setEndpointId s via eid) := by
  delta State.setEndpointId
  repeat' with_reducible first
    | assumption | apply State.respondControl_keeps | apply Keeps.ite | intro _ | split | extract_lets
    | apply Keeps.upd | rfl

theorem State.vendorMessage_keeps {via : Binding} {command : Nat} {inst : Byte} {addr : Nat} {value : Nat} (h : Keeps r s) :
    Keeps r (State.vendorMessage s via command inst addr value) := by
  delta State.vendorMessage
  repeat' with_reducible first
    | assumption | apply State.getEvents_keeps | apply State.getPower_keeps | apply State.readRegister_keeps
    | apply State.respondVendor_keeps | apply State.setCap_keeps | apply State.writeRegister_keeps
    | (apply Keeps.snd; assumption) | apply Keeps.ite | intro _ | split | extract_lets

theorem execGetPower_keeps {via : Binding} {inst : Byte} (h : Keeps r s) : KeepsOut r (execGetPower via inst s) := by
  delta execGetPower
  repeat' with_reducible first
    | assumption | apply State.vendorMessage_keeps | apply KeepsOut.next | intro _ | split | extract_lets

theorem execSetCap_keeps {via : Binding} {inst : Byte} {cap : BitVec 16} (h : Keeps r s) :
    KeepsOut r (execSetCap via inst cap s) := by
  delta execSetCap
  repeat' with_reducible first
    | assumption | apply State.vendorMessage_keeps | apply KeepsOut.next | intro _ | split | extract_lets

theorem execReadReg_keeps {via : Binding} {inst : Byte} {addr : BitVec 64} (h : Keeps r s) :
    KeepsOut r (execReadReg via inst addr s) := by
  delta execReadReg
  repeat' with_reducible first
    | assumption | apply State.vendorMessage_keeps | apply KeepsOut.next | intro _ | split | extract_lets

theorem execWriteReg_keeps {via : Binding} {inst : Byte} {addr : BitVec 64} {value : BitVec 32} (h : Keeps r s) :
    KeepsOut r (execWriteReg via inst addr value s) := by
  delta execWriteReg
  repeat' with_reducible first
    | assumption | apply State.vendorMessage_keeps | apply KeepsOut.next | intro _ | split | extract_lets

theorem execGetEvents_keeps {via : Binding} {inst : Byte} (h : Keeps r s) :
    KeepsOut r (execGetEvents via inst s) := by
  delta execGetEvents
  repeat' with_reducible first
    | assumption | apply State.vendorMessage_keeps | apply KeepsOut.next | intro _ | split | extract_lets

theorem execSetEndpointId_keeps {via : Binding} {eid : Byte} (h : Keeps r s) :
    KeepsOut r (execSetEndpointId via eid s) := by
  delta execSetEndpointId
  repeat' with_reducible first
    | assumption | apply State.setEndpointId_keeps | apply KeepsOut.next | intro _ | split | extract_lets

theorem execGetEndpointId_keeps {via : Binding} (h : Keeps r s) : KeepsOut r (execGetEndpointId via s) := by
  delta execGetEndpointId
  repeat' with_reducible first
    | assumption | apply State.respondControl_keeps | apply KeepsOut.next | intro _ | split | extract_lets

theorem execGetMctpVersionSupport_keeps {via : Binding} (h : Keeps r s) :
    KeepsOut r (execGetMctpVersionSupport via s) := by
  delta execGetMctpVersionSupport
  repeat' with_reducible first
    | assumption | apply State.respondControl_keeps | apply KeepsOut.next | intro _ | split | extract_lets

theorem execGetMessageTypeSupport_keeps {via : Binding} (h : Keeps r s) :
    KeepsOut r (execGetMessageTypeSupport via s) := by
  delta execGetMessageTypeSupport
  repeat' with_reducible first
    | assumption | apply State.respondControl_keeps | apply KeepsOut.next | intro _ | split | extract_lets

theorem execGetVendorDefinedSupport_keeps {via : Binding} (h : Keeps r s) :
    KeepsOut r (execGetVendorDefinedSupport via s) := by
  delta execGetVendorDefinedSupport
  repeat' with_reducible first
    | assumption | apply State.respondControl_keeps | apply KeepsOut.next | intro _ | split | extract_lets

theorem execAlertResponse_keeps  (h : Keeps r s) : KeepsOut r (execAlertResponse s) := by
  delta execAlertResponse
  repeat' with_reducible first
    | assumption | apply State.emit_keeps | apply KeepsOut.next | apply Keeps.ite | intro _ | split | extract_lets

end Sys2Proof.Machine
end

