-- ==== Sys2Proof/Laws/KeepsSystemOps.lean ====
section
/-! SUPPORT. The operations of Machine/SystemOps.lean leave the queue and the clock alone and keep the invariant. -/

namespace Sys2Proof.Machine

variable {r s : State}

theorem Flow.protection_keeps {n : Nat} (h : Keeps r s) : KeepsFlow r (Flow.protection n s) := h

theorem CoreOk.frame {x : Core} (h : CoreOk x) {st : Half} {pc lk tsr : Addr} {ring mask : Nat}
    (ht : tsr.toNat % 64 = 0) :
    CoreOk { x with pc := pc, lk := lk, st := stWith st ring mask, tsr := tsr } :=
  ⟨stWith_reserved _ _ _, h.vbase, ht, h.ttbase, h.sync, h.tlb, h.stores⟩

theorem tsr_back {a : Addr} (h : a.toNat % 64 = 0) : (a - 64).toNat % 64 = 0 := by
  rw [BitVec.toNat_sub]
  have : (64 : Addr).toNat = 64 := rfl
  omega

theorem State.writeGateFrame_keeps {c : CoreId} {n : Nat} (h : Keeps r s) :
    Keeps r (State.writeGateFrame s c n).2 := by
  delta State.writeGateFrame
  repeat' with_reducible first
    | assumption | apply State.writeFrameWords_keeps | (apply Keeps.snd; assumption) | (apply Keeps.trd; assumption)
    | apply Keeps.ite | apply CoreOk.next | apply CoreOk.setGr | apply CoreOk.setAr | apply CoreOk.writeSpr
    | apply KeepsFlow.done | apply KeepsFlow.exc | exact KeepsFlow.wait _ | apply KeepsFlow.hold
    | apply Flow.protection_keeps | apply CoreOk.setFlags | intro _ | split | extract_lets

theorem State.gcallFrame_keeps {c : CoreId} {n : Nat} {ws : List Half} (h : Keeps r s) :
    KeepsFlow r (State.gcallFrame s c n ws) := by
  delta State.gcallFrame
  repeat' with_reducible first
    | assumption | apply State.modCore_keeps | apply State.putFrame_keeps | apply State.writeGateFrame_keeps
    | (apply Keeps.snd; assumption) | (apply CoreOk.same <;> first | assumption | rfl) | exact KeepsFlow.wait _
    | apply KeepsFlow.done | apply KeepsFlow.hold | apply KeepsFlow.exc | apply Keeps.ite | apply CoreOk.next
    | apply CoreOk.setGr | apply CoreOk.setAr | apply CoreOk.writeSpr | apply KeepsFlow.done | apply KeepsFlow.exc
    | exact KeepsFlow.wait _ | apply KeepsFlow.hold | apply Flow.protection_keeps | apply CoreOk.setFlags | intro _
    | split | extract_lets
    | exact (CoreOk.frame (pc := 0) (lk := 0) ‹_› (tsr_step (n := 64) (CoreOk.tsr ‹_›) (by decide))).same rfl rfl rfl rfl rfl rfl rfl

theorem State.gcall_keeps {c : CoreId} {n : Nat} (h : Keeps r s) : KeepsFlow r (State.gcall s c n) := by
  delta State.gcall
  repeat' with_reducible first
    | assumption | apply State.gcallFrame_keeps | apply State.loadWords_keeps | (apply Keeps.snd; assumption)
    | exact KeepsFlow.wait _ | apply KeepsFlow.done | apply KeepsFlow.hold | apply KeepsFlow.exc
    | (apply KeepsLoaded.of_ok; assumption) | (apply KeepsLoaded.of_hold; assumption)
    | (apply KeepsLoaded.of_exc; assumption) | apply Keeps.ite | apply CoreOk.next | apply CoreOk.setGr
    | apply CoreOk.setAr | apply CoreOk.writeSpr | apply KeepsFlow.done | apply KeepsFlow.exc | exact KeepsFlow.wait _
    | apply KeepsFlow.hold | apply Flow.protection_keeps | apply CoreOk.setFlags | intro _ | split | extract_lets
    | exact CoreOk.frame ‹_› (tsr_step (CoreOk.tsr ‹_›) (by decide))

theorem State.frameBelow_keeps {c : CoreId} {kind : Nat} {f : State → List Half → State} (h : Keeps r s) (hf : ∀ t ws, Keeps r t → Keeps r (f t ws)) :
    KeepsFlow r (State.frameBelow s c kind f) := by
  delta State.frameBelow
  repeat' with_reducible first
    | assumption | apply hf | apply State.loadWords_keeps | (apply Keeps.snd; assumption) | exact KeepsFlow.wait _
    | apply KeepsFlow.done | apply KeepsFlow.hold | apply KeepsFlow.exc | (apply KeepsLoaded.of_ok; assumption)
    | (apply KeepsLoaded.of_hold; assumption) | (apply KeepsLoaded.of_exc; assumption) | apply Keeps.ite
    | apply CoreOk.next | apply CoreOk.setGr | apply CoreOk.setAr | apply CoreOk.writeSpr | apply KeepsFlow.done
    | apply KeepsFlow.exc | exact KeepsFlow.wait _ | apply KeepsFlow.hold | apply Flow.protection_keeps
    | apply CoreOk.setFlags | intro _ | split | extract_lets

theorem State.gret_keeps {c : CoreId} (h : Keeps r s) : KeepsFlow r (State.gret s c) := by
  delta State.gret
  repeat' with_reducible first
    | assumption | apply State.frameBelow_keeps | apply State.modCore_keeps
    | (apply CoreOk.same <;> first | assumption | rfl) | exact KeepsFlow.wait _ | apply KeepsFlow.done
    | apply KeepsFlow.hold | apply KeepsFlow.exc | apply Keeps.ite | apply CoreOk.next | apply CoreOk.setGr
    | apply CoreOk.setAr | apply CoreOk.writeSpr | apply KeepsFlow.done | apply KeepsFlow.exc | exact KeepsFlow.wait _
    | apply KeepsFlow.hold | apply Flow.protection_keeps | apply CoreOk.setFlags | intro _ | split | extract_lets
    | exact CoreOk.frame (CoreOk.setAr ‹_› _ _) (tsr_back (CoreOk.tsr ‹_›))

theorem State.rete_keeps {c : CoreId} (h : Keeps r s) : KeepsFlow r (State.rete s c) := by
  unfold State.rete
  refine State.frameBelow_keeps h fun t ws ht => State.resumeEngines_keeps (State.modCore_keeps ht fun x => ?_)
  exact CoreOk.frame (CoreOk.foldl (CoreOk.foldl x _ _ fun y a hy => hy.setAr _ _) _ _ fun y a hy => hy.setGr _ _)
    (tsr_back x.tsr)

theorem State.mfs_keeps {c : CoreId} {reg : Nat} {n : Nat} (h : Keeps r s) : KeepsFlow r (State.mfs s c reg n) := by
  delta State.mfs
  repeat' with_reducible first
    | assumption | apply State.modCore_keeps | (apply Keeps.snd; assumption)
    | (apply CoreOk.same <;> first | assumption | rfl) | exact KeepsFlow.wait _ | apply KeepsFlow.done
    | apply KeepsFlow.hold | apply KeepsFlow.exc | apply Keeps.ite | apply CoreOk.next | apply CoreOk.setGr
    | apply CoreOk.setAr | apply CoreOk.writeSpr | apply KeepsFlow.done | apply KeepsFlow.exc | exact KeepsFlow.wait _
    | apply KeepsFlow.hold | apply Flow.protection_keeps | apply CoreOk.setFlags | intro _ | split | extract_lets

theorem State.mts_keeps {c : CoreId} {reg : Nat} {n : Nat} (h : Keeps r s) : KeepsFlow r (State.mts s c reg n) := by
  delta State.mts
  repeat' with_reducible first
    | assumption | apply State.modCore_keeps | (apply Keeps.snd; assumption)
    | (apply CoreOk.same <;> first | assumption | rfl) | exact KeepsFlow.wait _ | apply KeepsFlow.done
    | apply KeepsFlow.hold | apply KeepsFlow.exc | apply Keeps.ite | apply CoreOk.next | apply CoreOk.setGr
    | apply CoreOk.setAr | apply CoreOk.writeSpr | apply KeepsFlow.done | apply KeepsFlow.exc | exact KeepsFlow.wait _
    | apply KeepsFlow.hold | apply Flow.protection_keeps | apply CoreOk.setFlags | intro _ | split | extract_lets

theorem State.enqueue_keeps {c : Nat} {ch : Nat} {e : EngineCmd} {x4 : Engine} (h : Keeps r s) :
    Keeps r (State.enqueue s c ch e x4) := by
  delta State.enqueue
  repeat' with_reducible first
    | assumption | apply State.modChan_keeps | apply State.modMx_keeps | apply State.modVx_keeps
    | (apply Keeps.snd; assumption) | apply Keeps.ite | intro _ | split | extract_lets

theorem State.push_keeps {c : Nat} {eng : Engine} {words : List Half} (h : Keeps r s) :
    KeepsOpt r (State.push s c eng words) := by
  delta State.push
  repeat' with_reducible first
    | assumption | apply State.enqueue_keeps | apply State.setFlag_keeps | exact KeepsOpt.none _ | apply KeepsOpt.some
    | (apply Keeps.snd; assumption) | apply Keeps.ite | apply CoreOk.next | apply CoreOk.setGr | apply CoreOk.setAr
    | apply CoreOk.writeSpr | apply KeepsFlow.done | apply KeepsFlow.exc | exact KeepsFlow.wait _
    | apply KeepsFlow.hold | apply Flow.protection_keeps | apply CoreOk.setFlags | intro _ | split | extract_lets

theorem State.issue_keeps {c : Nat} {eng : Engine} {len : Bool} {words : List Half} (h : Keeps r s) :
    KeepsFlow r (State.issue s c eng len words) := by
  delta State.issue
  repeat' with_reducible first
    | assumption | apply State.modCore_keeps | apply State.push_keeps | (apply Keeps.snd; assumption)
    | (apply KeepsOpt.of; assumption) | (apply CoreOk.same <;> first | assumption | rfl) | exact KeepsFlow.wait _
    | apply KeepsFlow.done | apply KeepsFlow.hold | apply KeepsFlow.exc | apply Keeps.ite | apply CoreOk.next
    | apply CoreOk.setGr | apply CoreOk.setAr | apply CoreOk.writeSpr | apply KeepsFlow.done | apply KeepsFlow.exc
    | exact KeepsFlow.wait _ | apply KeepsFlow.hold | apply Flow.protection_keeps | apply CoreOk.setFlags | intro _
    | split | extract_lets

theorem State.waitOn_keeps {c : Nat} {glb : Bool} {ident : Nat} {amount : Nat} (h : Keeps r s) :
    Keeps r (State.waitOn s c glb ident amount) := by
  delta State.waitOn
  repeat' with_reducible first
    | assumption | apply State.modCore_keeps | apply State.sendWait_keeps | apply State.syncFault_keeps
    | (apply Keeps.snd; assumption) | (apply CoreOk.same <;> first | assumption | rfl) | apply Keeps.ite
    | apply CoreOk.next | apply CoreOk.setGr | apply CoreOk.setAr | apply CoreOk.writeSpr | apply KeepsFlow.done
    | apply KeepsFlow.exc | exact KeepsFlow.wait _ | apply KeepsFlow.hold | apply Flow.protection_keeps
    | apply CoreOk.setFlags | intro _ | split | extract_lets

theorem State.reservedEffect_keeps {c : CoreId} {ctx : Half} {x3 : Config.ReservedEffect} (h : Keeps r s) :
    Keeps r (State.reservedEffect s c ctx x3) := by
  delta State.reservedEffect
  repeat' with_reducible first
    | assumption | apply State.modCore_keeps | apply State.push_keeps | apply State.signal_keeps
    | apply State.storeWords_keeps | apply State.translateAll_keeps | apply KeepsOpt.getD
    | (apply Keeps.snd; assumption) | (apply Keeps.trd; assumption) | (apply KeepsOpt.of; assumption)
    | (apply CoreOk.same <;> first | assumption | rfl) | apply Keeps.ite | apply CoreOk.next | apply CoreOk.setGr
    | apply CoreOk.setAr | apply CoreOk.writeSpr | apply KeepsFlow.done | apply KeepsFlow.exc | exact KeepsFlow.wait _
    | apply KeepsFlow.hold | apply Flow.protection_keeps | apply CoreOk.setFlags | intro _ | split | extract_lets

theorem State.reserved_keeps {c : CoreId} (h : Keeps r s) : KeepsFlow r (State.reserved s c) := by
  delta State.reserved
  repeat' with_reducible first
    | assumption | apply State.modCore_keeps | apply State.reservedEffect_keeps | apply Keeps.fold | apply Keeps.fold2
    | apply Keeps.fold3 | (apply CoreOk.same <;> first | assumption | rfl) | exact KeepsFlow.wait _
    | apply KeepsFlow.done | apply KeepsFlow.hold | apply KeepsFlow.exc | apply Keeps.ite | apply CoreOk.next
    | apply CoreOk.setGr | apply CoreOk.setAr | apply CoreOk.writeSpr | apply KeepsFlow.done | apply KeepsFlow.exc
    | exact KeepsFlow.wait _ | apply KeepsFlow.hold | apply Flow.protection_keeps | apply CoreOk.setFlags | intro _
    | split | extract_lets | apply Keeps.upd | rfl

theorem State.fetchFault_keeps {c : CoreId} {k : Nat} (h : Keeps r s) : Keeps r (State.fetchFault s c k) := by
  delta State.fetchFault
  repeat' with_reducible first
    | assumption | apply State.fetchWord_keeps | apply State.fetchWords_keeps | apply State.goOnEntering_keeps
    | apply State.takeAsync_keeps | apply State.takeSync_keeps | apply KeepsOpt.getD | (apply Keeps.snd; assumption)
    | (apply KeepsOpt.of; assumption) | apply Keeps.ite | apply CoreOk.next | apply CoreOk.setGr | apply CoreOk.setAr
    | apply CoreOk.writeSpr | apply KeepsFlow.done | apply KeepsFlow.exc | exact KeepsFlow.wait _
    | apply KeepsFlow.hold | apply Flow.protection_keeps | apply CoreOk.setFlags | intro _ | split | extract_lets

theorem execZtrap_keeps {c : CoreId} (h : Keeps r s) : KeepsOut r (execZtrap c s) := by
  delta execZtrap
  repeat' with_reducible first
    | assumption | apply State.instr_keeps | apply KeepsOut.next | apply CoreOk.next | apply CoreOk.setGr
    | apply CoreOk.setAr | apply CoreOk.writeSpr | apply KeepsFlow.done | apply KeepsFlow.exc | exact KeepsFlow.wait _
    | apply KeepsFlow.hold | apply Flow.protection_keeps | apply CoreOk.setFlags | intro _ | split | extract_lets

theorem execNop_keeps {c : CoreId} (h : Keeps r s) : KeepsOut r (execNop c s) := by
  delta execNop id
  repeat' with_reducible first
    | assumption | apply State.instrCore_keeps | apply KeepsOut.next | apply CoreOk.next | apply CoreOk.setGr
    | apply CoreOk.setAr | apply CoreOk.writeSpr | apply KeepsFlow.done | apply KeepsFlow.exc | exact KeepsFlow.wait _
    | apply KeepsFlow.hold | apply Flow.protection_keeps | apply CoreOk.setFlags | intro _ | split | extract_lets
    | assumption

theorem execWfi_keeps {c : CoreId} (h : Keeps r s) : KeepsOut r (execWfi c s) := by
  delta execWfi
  repeat' with_reducible first
    | assumption | apply State.instr_keeps | apply State.modCore_keeps | apply KeepsOut.next
    | (apply CoreOk.same <;> first | assumption | rfl) | apply Keeps.ite | apply CoreOk.next | apply CoreOk.setGr
    | apply CoreOk.setAr | apply CoreOk.writeSpr | apply KeepsFlow.done | apply KeepsFlow.exc | exact KeepsFlow.wait _
    | apply KeepsFlow.hold | apply Flow.protection_keeps | apply CoreOk.setFlags | intro _ | split | extract_lets

theorem execFence_keeps {c : CoreId} {g : Bool} {d : Bool} {v : Bool} {m : Bool} {st : Bool} (h : Keeps r s) :
    KeepsOut r (execFence c g d v m st s) := by
  delta execFence
  repeat' with_reducible first
    | assumption | apply State.instr_keeps | apply State.modCore_keeps | apply KeepsOut.next
    | (apply CoreOk.same <;> first | assumption | rfl) | apply Keeps.ite | apply CoreOk.next | apply CoreOk.setGr
    | apply CoreOk.setAr | apply CoreOk.writeSpr | apply KeepsFlow.done | apply KeepsFlow.exc | exact KeepsFlow.wait _
    | apply KeepsFlow.hold | apply Flow.protection_keeps | apply CoreOk.setFlags | intro _ | split | extract_lets

theorem execGcall_keeps {c : CoreId} {gate : BitVec 8} (h : Keeps r s) : KeepsOut r (execGcall c gate s) := by
  delta execGcall
  repeat' with_reducible first
    | assumption | apply Flow.state_keeps | apply State.gcall_keeps | apply State.gcallFrame_keeps
    | apply State.instrLoad_keeps | apply KeepsOut.next | (apply Keeps.snd; assumption) | apply Keeps.ite
    | apply CoreOk.next | apply CoreOk.setGr | apply CoreOk.setAr | apply CoreOk.writeSpr | apply KeepsFlow.done
    | apply KeepsFlow.exc | exact KeepsFlow.wait _ | apply KeepsFlow.hold | apply Flow.protection_keeps
    | apply CoreOk.setFlags | intro _ | split | extract_lets

theorem execGret_keeps {c : CoreId} (h : Keeps r s) : KeepsOut r (execGret c s) := by
  delta execGret
  repeat' with_reducible first
    | assumption | apply State.gret_keeps | apply State.instrLoad_keeps | apply KeepsOut.next | apply CoreOk.next
    | apply CoreOk.setGr | apply CoreOk.setAr | apply CoreOk.writeSpr | apply KeepsFlow.done | apply KeepsFlow.exc
    | exact KeepsFlow.wait _ | apply KeepsFlow.hold | apply Flow.protection_keeps | apply CoreOk.setFlags | intro _
    | split | extract_lets

theorem execRete_keeps {c : CoreId} (h : Keeps r s) : KeepsOut r (execRete c s) := by
  delta execRete
  repeat' with_reducible first
    | assumption | apply State.instrLoad_keeps | apply State.rete_keeps | apply KeepsOut.next | apply CoreOk.next
    | apply CoreOk.setGr | apply CoreOk.setAr | apply CoreOk.writeSpr | apply KeepsFlow.done | apply KeepsFlow.exc
    | exact KeepsFlow.wait _ | apply KeepsFlow.hold | apply Flow.protection_keeps | apply CoreOk.setFlags | intro _
    | split | extract_lets

theorem execMfs_keeps {c : CoreId} {reg : BitVec 4} {spr : BitVec 8} (h : Keeps r s) :
    KeepsOut r (execMfs c reg spr s) := by
  delta execMfs
  repeat' with_reducible first
    | assumption | apply State.instr_keeps | apply State.mfs_keeps | apply KeepsOut.next | apply CoreOk.next
    | apply CoreOk.setGr | apply CoreOk.setAr | apply CoreOk.writeSpr | apply KeepsFlow.done | apply KeepsFlow.exc
    | exact KeepsFlow.wait _ | apply KeepsFlow.hold | apply Flow.protection_keeps | apply CoreOk.setFlags | intro _
    | split | extract_lets

theorem execMts_keeps {c : CoreId} {reg : BitVec 4} {spr : BitVec 8} (h : Keeps r s) :
    KeepsOut r (execMts c reg spr s) := by
  delta execMts
  repeat' with_reducible first
    | assumption | apply State.instr_keeps | apply State.mts_keeps | apply KeepsOut.next | apply CoreOk.next
    | apply CoreOk.setGr | apply CoreOk.setAr | apply CoreOk.writeSpr | apply KeepsFlow.done | apply KeepsFlow.exc
    | exact KeepsFlow.wait _ | apply KeepsFlow.hold | apply Flow.protection_keeps | apply CoreOk.setFlags | intro _
    | split | extract_lets

theorem execIsync_keeps {c : CoreId} (h : Keeps r s) : KeepsOut r (execIsync c s) := by
  delta execIsync id
  repeat' with_reducible first
    | assumption | apply State.instrCore_keeps | apply KeepsOut.next | apply CoreOk.next | apply CoreOk.setGr
    | apply CoreOk.setAr | apply CoreOk.writeSpr | apply KeepsFlow.done | apply KeepsFlow.exc | exact KeepsFlow.wait _
    | apply KeepsFlow.hold | apply Flow.protection_keeps | apply CoreOk.setFlags | intro _ | split | extract_lets
    | assumption

theorem execEis_keeps {c : CoreId} {eng : Engine} {len : Bool} {rg : BitVec 4} (h : Keeps r s) :
    KeepsOut r (execEis c eng len rg s) := by
  delta execEis
  repeat' with_reducible first
    | assumption | apply State.instr_keeps | apply State.issue_keeps | apply KeepsOut.next | apply Keeps.ite
    | apply CoreOk.next | apply CoreOk.setGr | apply CoreOk.setAr | apply CoreOk.writeSpr | apply KeepsFlow.done
    | apply KeepsFlow.exc | exact KeepsFlow.wait _ | apply KeepsFlow.hold | apply Flow.protection_keeps
    | apply CoreOk.setFlags | intro _ | split | extract_lets

theorem execEism_keeps {c : CoreId} {eng : Engine} {len : Bool} {ra : BitVec 3} (h : Keeps r s) :
    KeepsOut r (execEism c eng len ra s) := by
  delta execEism
  repeat' with_reducible first
    | assumption | apply State.instrLoad_keeps | apply State.issue_keeps | apply State.loadWords_keeps
    | apply State.modCore_keeps | apply KeepsOut.next | (apply Keeps.snd; assumption)
    | (apply CoreOk.same <;> first | assumption | rfl) | (apply KeepsLoaded.of_ok; assumption)
    | (apply KeepsLoaded.of_hold; assumption) | (apply KeepsLoaded.of_exc; assumption) | apply Keeps.ite
    | apply CoreOk.next | apply CoreOk.setGr | apply CoreOk.setAr | apply CoreOk.writeSpr | apply KeepsFlow.done
    | apply KeepsFlow.exc | exact KeepsFlow.wait _ | apply KeepsFlow.hold | apply Flow.protection_keeps
    | apply CoreOk.setFlags | intro _ | split | extract_lets

theorem execSig_keeps {c : CoreId} {glb : Bool} {p : BitVec 3} {ident : BitVec 10} (h : Keeps r s) :
    KeepsOut r (execSig c glb p ident s) := by
  delta execSig
  repeat' with_reducible first
    | assumption | apply State.instr_keeps | apply State.modCore_keeps | apply State.signal_keeps
    | apply KeepsOut.next | (apply CoreOk.same <;> first | assumption | rfl) | apply Keeps.ite | apply CoreOk.next
    | apply CoreOk.setGr | apply CoreOk.setAr | apply CoreOk.writeSpr | apply KeepsFlow.done | apply KeepsFlow.exc
    | exact KeepsFlow.wait _ | apply KeepsFlow.hold | apply Flow.protection_keeps | apply CoreOk.setFlags | intro _
    | split | extract_lets

theorem execWait_keeps {c : CoreId} {glb : Bool} {p : BitVec 3} {ident : BitVec 10} (h : Keeps r s) :
    KeepsOut r (execWait c glb p ident s) := by
  delta execWait
  repeat' with_reducible first
    | assumption | apply State.instr_keeps | apply State.waitOn_keeps | apply KeepsOut.next | apply Keeps.ite
    | apply CoreOk.next | apply CoreOk.setGr | apply CoreOk.setAr | apply CoreOk.writeSpr | apply KeepsFlow.done
    | apply KeepsFlow.exc | exact KeepsFlow.wait _ | apply KeepsFlow.hold | apply Flow.protection_keeps
    | apply CoreOk.setFlags | intro _ | split | extract_lets

theorem execReservedOpcode_keeps {c : CoreId} (h : Keeps r s) : KeepsOut r (execReservedOpcode c s) := by
  delta execReservedOpcode
  repeat' with_reducible first
    | assumption | apply State.instr_keeps | apply State.reserved_keeps | apply KeepsOut.next | apply CoreOk.next
    | apply CoreOk.setGr | apply CoreOk.setAr | apply CoreOk.writeSpr | apply KeepsFlow.done | apply KeepsFlow.exc
    | exact KeepsFlow.wait _ | apply KeepsFlow.hold | apply Flow.protection_keeps | apply CoreOk.setFlags | intro _
    | split | extract_lets

theorem execExceptionEntry_keeps {c : CoreId} {what : EntryKind} (h : Keeps r s) :
    KeepsOut r (execExceptionEntry c what s) := by
  delta execExceptionEntry
  repeat' with_reducible first
    | assumption | apply State.fetchFault_keeps | apply State.goOnEntering_keeps | apply State.takeAsync_keeps
    | apply KeepsOut.next | apply KeepsOpt.getD | (apply Keeps.snd; assumption) | (apply KeepsOpt.of; assumption)
    | apply Keeps.ite | apply CoreOk.next | apply CoreOk.setGr | apply CoreOk.setAr | apply CoreOk.writeSpr
    | apply KeepsFlow.done | apply KeepsFlow.exc | exact KeepsFlow.wait _ | apply KeepsFlow.hold
    | apply Flow.protection_keeps | apply CoreOk.setFlags | intro _ | split | extract_lets

end Sys2Proof.Machine
end

