-- ==== Sys2Proof/Laws/Exec.lean ====
section
/-! SUPPORT. What no command does, and what a step that only lets time pass does. -/

namespace Sys2Proof.Machine

/-- A command leaves the queue and the clock alone and keeps the invariant. -/
theorem exec_keeps (i : Instr) (s : State) : KeepsOut s (exec i s) := by
  cases i with
  | registerWrite _ _ _ _ => exact execRegisterWrite_keeps (Keeps.refl s)
  | registerReadClear _ _ _ => exact execRegisterReadClear_keeps (Keeps.refl s)
  | tcfg _ => exact execTcfg_keeps (Keeps.refl s)
  | tldR _ => exact execTldR_keeps (Keeps.refl s)
  | tldC _ => exact execTldC_keeps (Keeps.refl s)
  | tstR _ => exact execTstR_keeps (Keeps.refl s)
  | tstC _ => exact execTstC_keeps (Keeps.refl s)
  | mmaT _ _ => exact execMmaT_keeps (Keeps.refl s)
  | mmaS _ _ => exact execMmaS_keeps (Keeps.refl s)
  | azero _ => exact execAzero_keeps (Keeps.refl s)
  | amovC _ => exact execAmovC_keeps (Keeps.refl s)
  | amovL _ => exact execAmovL_keeps (Keeps.refl s)
  | amovS _ => exact execAmovS_keeps (Keeps.refl s)
  | acvtS _ => exact execAcvtS_keeps (Keeps.refl s)
  | acvtT _ => exact execAcvtT_keeps (Keeps.refl s)
  | mmaWriteBack _ => exact execMmaWriteBack_keeps (Keeps.refl s)
  | matrixFault _ => exact execMatrixFault_keeps (Keeps.refl s)
  | mxAbandon _ _ => exact execMxAbandon_keeps (Keeps.refl s)
  | mxSave _ _ => exact execMxSave_keeps (Keeps.refl s)
  | mxRestore _ _ => exact execMxRestore_keeps (Keeps.refl s)
  | saveRestoreComplete _ _ => exact execSaveRestoreComplete_keeps (Keeps.refl s)
  | vopAdd _ => exact execVopAdd_keeps (Keeps.refl s)
  | vopSub _ => exact execVopSub_keeps (Keeps.refl s)
  | vopMul _ => exact execVopMul_keeps (Keeps.refl s)
  | vopFma _ => exact execVopFma_keeps (Keeps.refl s)
  | vopMin _ => exact execVopMin_keeps (Keeps.refl s)
  | vopMax _ => exact execVopMax_keeps (Keeps.refl s)
  | vopAbs _ => exact execVopAbs_keeps (Keeps.refl s)
  | vopNeg _ => exact execVopNeg_keeps (Keeps.refl s)
  | cpsgn _ => exact execCpsgn_keeps (Keeps.refl s)
  | cmpeq _ => exact execCmpeq_keeps (Keeps.refl s)
  | cmplt _ => exact execCmplt_keeps (Keeps.refl s)
  | cmple _ => exact execCmple_keeps (Keeps.refl s)
  | cmpun _ => exact execCmpun_keeps (Keeps.refl s)
  | sel _ => exact execSel_keeps (Keeps.refl s)
  | vopMov _ => exact execVopMov_keeps (Keeps.refl s)
  | vopAnd _ => exact execVopAnd_keeps (Keeps.refl s)
  | vopOr _ => exact execVopOr_keeps (Keeps.refl s)
  | vopXor _ => exact execVopXor_keeps (Keeps.refl s)
  | vopShl _ => exact execVopShl_keeps (Keeps.refl s)
  | vopShr _ => exact execVopShr_keeps (Keeps.refl s)
  | vcvt _ => exact execVcvt_keeps (Keeps.refl s)
  | exp2 _ => exact execExp2_keeps (Keeps.refl s)
  | log2 _ => exact execLog2_keeps (Keeps.refl s)
  | rcp _ => exact execRcp_keeps (Keeps.refl s)
  | rsqrt _ => exact execRsqrt_keeps (Keeps.refl s)
  | vredSum _ => exact execVredSum_keeps (Keeps.refl s)
  | vredMax _ => exact execVredMax_keeps (Keeps.refl s)
  | vredMin _ => exact execVredMin_keeps (Keeps.refl s)
  | argmax _ => exact execArgmax_keeps (Keeps.refl s)
  | vbc _ => exact execVbc_keeps (Keeps.refl s)
  | vld _ => exact execVld_keeps (Keeps.refl s)
  | vst _ => exact execVst_keeps (Keeps.refl s)
  | vstrm _ => exact execVstrm_keeps (Keeps.refl s)
  | vtopkS _ => exact execVtopkS_keeps (Keeps.refl s)
  | vectorFault _ => exact execVectorFault_keeps (Keeps.refl s)
  | vxAbandon _ _ => exact execVxAbandon_keeps (Keeps.refl s)
  | vxSave _ _ => exact execVxSave_keeps (Keeps.refl s)
  | vxRestore _ _ => exact execVxRestore_keeps (Keeps.refl s)
  | apertureWrite _ _ => exact execApertureWrite_keeps (Keeps.refl s)
  | remoteRead _ _ => exact execRemoteRead_keeps (Keeps.refl s)
  | eccWriteBack _ => exact execEccWriteBack_keeps (Keeps.refl s)
  | apertureOpen _ _ _ _ => exact execApertureOpen_keeps (Keeps.refl s)
  | apertureClose _ _ _ _ => exact execApertureClose_keeps (Keeps.refl s)
  | apertureClosed _ _ => exact execApertureClosed_keeps (Keeps.refl s)
  | spRelease _ _ _ => exact execSpRelease_keeps (Keeps.refl s)
  | slotReleaseEffect _ => exact execSlotReleaseEffect_keeps (Keeps.refl s)
  | slotWaitTimeout _ _ => exact execSlotWaitTimeout_keeps (Keeps.refl s)
  | heldWriteTimeout _ _ _ => exact execHeldWriteTimeout_keeps (Keeps.refl s)
  | dgo _ _ => exact execDgo_keeps (Keeps.refl s)
  | descriptorStart _ _ => exact execDescriptorStart_keeps (Keeps.refl s)
  | dmaPageFault _ _ => exact execDmaPageFault_keeps (Keeps.refl s)
  | chainComplete _ _ => exact execChainComplete_keeps (Keeps.refl s)
  | dmResume _ _ _ => exact execDmResume_keeps (Keeps.refl s)
  | dmAbandon _ _ _ => exact execDmAbandon_keeps (Keeps.refl s)
  | remoteAckTimeout _ _ => exact execRemoteAckTimeout_keeps (Keeps.refl s)
  | outputBeat _ _ _ => exact execOutputBeat_keeps (Keeps.refl s)
  | inputBeat _ _ _ => exact execInputBeat_keeps (Keeps.refl s)
  | streamBeatServe _ => exact execStreamBeatServe_keeps (Keeps.refl s)
  | mark _ => exact execMark_keeps (Keeps.refl s)
  | servicePacket _ => exact execServicePacket_keeps (Keeps.refl s)
  | readResponse _ => exact execReadResponse_keeps (Keeps.refl s)
  | acknowledgement _ => exact execAcknowledgement_keeps (Keeps.refl s)
  | refusal _ => exact execRefusal_keeps (Keeps.refl s)
  | stall _ => exact execStall_keeps (Keeps.refl s)
  | pop _ => exact execPop_keeps (Keeps.refl s)
  | openContext _ _ => exact execOpenContext_keeps (Keeps.refl s)
  | park _ _ => exact execPark_keeps (Keeps.refl s)
  | resumeContext _ _ => exact execResumeContext_keeps (Keeps.refl s)
  | dropContext _ _ => exact execDropContext_keeps (Keeps.refl s)
  | claim _ _ => exact execClaim_keeps (Keeps.refl s)
  | assign _ _ => exact execAssign_keeps (Keeps.refl s)
  | cxInDb _ _ _ _ => exact execCxInDb_keeps (Keeps.refl s)
  | cxOutDb _ _ _ _ => exact execCxOutDb_keeps (Keeps.refl s)
  | recordWrite _ _ _ _ => exact execRecordWrite_keeps (Keeps.refl s)
  | closeStep => exact execCloseStep_keeps (Keeps.refl s)
  | gatherTimeout => exact execGatherTimeout_keeps (Keeps.refl s)
  | compose => exact execCompose_keeps (Keeps.refl s)
  | release => exact execRelease_keeps (Keeps.refl s)
  | followerRelease => exact execFollowerRelease_keeps (Keeps.refl s)
  | slotMapPart _ _ _ _ => exact execSlotMapPart_keeps (Keeps.refl s)
  | mapCredit _ _ => exact execMapCredit_keeps (Keeps.refl s)
  | mapResend _ => exact execMapResend_keeps (Keeps.refl s)
  | ztrap _ => exact execZtrap_keeps (Keeps.refl s)
  | nop _ => exact execNop_keeps (Keeps.refl s)
  | wfi _ => exact execWfi_keeps (Keeps.refl s)
  | fence _ _ _ _ _ _ => exact execFence_keeps (Keeps.refl s)
  | gcall _ _ => exact execGcall_keeps (Keeps.refl s)
  | gret _ => exact execGret_keeps (Keeps.refl s)
  | rete _ => exact execRete_keeps (Keeps.refl s)
  | mfs _ _ _ => exact execMfs_keeps (Keeps.refl s)
  | mts _ _ _ => exact execMts_keeps (Keeps.refl s)
  | isync _ => exact execIsync_keeps (Keeps.refl s)
  | mov _ _ _ => exact execMov_keeps (Keeps.refl s)
  | add _ _ _ => exact execAdd_keeps (Keeps.refl s)
  | adc _ _ _ => exact execAdc_keeps (Keeps.refl s)
  | sub _ _ _ => exact execSub_keeps (Keeps.refl s)
  | sbc _ _ _ => exact execSbc_keeps (Keeps.refl s)
  | cmp _ _ _ => exact execCmp_keeps (Keeps.refl s)
  | and _ _ _ => exact execAnd_keeps (Keeps.refl s)
  | or _ _ _ => exact execOr_keeps (Keeps.refl s)
  | xor _ _ _ => exact execXor_keeps (Keeps.refl s)
  | tst _ _ _ => exact execTst_keeps (Keeps.refl s)
  | shl _ _ _ => exact execShl_keeps (Keeps.refl s)
  | shr _ _ _ => exact execShr_keeps (Keeps.refl s)
  | sar _ _ _ => exact execSar_keeps (Keeps.refl s)
  | rol _ _ _ => exact execRol_keeps (Keeps.refl s)
  | mull _ _ _ => exact execMull_keeps (Keeps.refl s)
  | mulhu _ _ _ => exact execMulhu_keeps (Keeps.refl s)
  | movi _ _ _ => exact execMovi_keeps (Keeps.refl s)
  | addi _ _ _ => exact execAddi_keeps (Keeps.refl s)
  | adci _ _ _ => exact execAdci_keeps (Keeps.refl s)
  | subi _ _ _ => exact execSubi_keeps (Keeps.refl s)
  | sbci _ _ _ => exact execSbci_keeps (Keeps.refl s)
  | cmpi _ _ _ => exact execCmpi_keeps (Keeps.refl s)
  | andi _ _ _ => exact execAndi_keeps (Keeps.refl s)
  | ori _ _ _ => exact execOri_keeps (Keeps.refl s)
  | xori _ _ _ => exact execXori_keeps (Keeps.refl s)
  | tsti _ _ _ => exact execTsti_keeps (Keeps.refl s)
  | shlImmediate _ _ _ => exact execShlImmediate_keeps (Keeps.refl s)
  | shrImmediate _ _ _ => exact execShrImmediate_keeps (Keeps.refl s)
  | sarImmediate _ _ _ => exact execSarImmediate_keeps (Keeps.refl s)
  | rolImmediate _ _ _ => exact execRolImmediate_keeps (Keeps.refl s)
  | mulli _ _ _ => exact execMulli_keeps (Keeps.refl s)
  | mulhui _ _ _ => exact execMulhui_keeps (Keeps.refl s)
  | movq _ _ _ => exact execMovq_keeps (Keeps.refl s)
  | addq _ _ _ => exact execAddq_keeps (Keeps.refl s)
  | not _ _ => exact execNot_keeps (Keeps.refl s)
  | neg _ _ => exact execNeg_keeps (Keeps.refl s)
  | swapb _ _ => exact execSwapb_keeps (Keeps.refl s)
  | zxb _ _ => exact execZxb_keeps (Keeps.refl s)
  | sxb _ _ => exact execSxb_keeps (Keeps.refl s)
  | clz _ _ => exact execClz_keeps (Keeps.refl s)
  | popc _ _ => exact execPopc_keeps (Keeps.refl s)
  | shli _ _ _ => exact execShli_keeps (Keeps.refl s)
  | shri _ _ _ => exact execShri_keeps (Keeps.refl s)
  | sari _ _ _ => exact execSari_keeps (Keeps.refl s)
  | roli _ _ _ => exact execRoli_keeps (Keeps.refl s)
  | amov _ _ _ => exact execAmov_keeps (Keeps.refl s)
  | aadd _ _ _ => exact execAadd_keeps (Keeps.refl s)
  | aaddp _ _ _ => exact execAaddp_keeps (Keeps.refl s)
  | aaddi _ _ _ => exact execAaddi_keeps (Keeps.refl s)
  | amovi _ _ _ => exact execAmovi_keeps (Keeps.refl s)
  | apc _ _ _ => exact execApc_keeps (Keeps.refl s)
  | amovg _ _ _ => exact execAmovg_keeps (Keeps.refl s)
  | gmova _ _ _ => exact execGmova_keeps (Keeps.refl s)
  | acmp _ _ _ => exact execAcmp_keeps (Keeps.refl s)
  | ld _ _ _ _ _ _ => exact execLd_keeps (Keeps.refl s)
  | ldP _ _ _ _ _ _ => exact execLdP_keeps (Keeps.refl s)
  | ldQ _ _ _ _ _ _ => exact execLdQ_keeps (Keeps.refl s)
  | ldA _ _ _ _ _ _ => exact execLdA_keeps (Keeps.refl s)
  | st _ _ _ _ _ => exact execSt_keeps (Keeps.refl s)
  | stP _ _ _ _ _ => exact execStP_keeps (Keeps.refl s)
  | stQ _ _ _ _ _ => exact execStQ_keeps (Keeps.refl s)
  | stA _ _ _ _ _ => exact execStA_keeps (Keeps.refl s)
  | shortBranch _ _ _ => exact execShortBranch_keeps (Keeps.refl s)
  | jcc _ _ _ => exact execJcc_keeps (Keeps.refl s)
  | call _ _ => exact execCall_keeps (Keeps.refl s)
  | jmpa _ _ => exact execJmpa_keeps (Keeps.refl s)
  | calla _ _ => exact execCalla_keeps (Keeps.refl s)
  | ret _ => exact execRet_keeps (Keeps.refl s)
  | lmov _ _ _ _ => exact execLmov_keeps (Keeps.refl s)
  | ladd _ _ _ _ => exact execLadd_keeps (Keeps.refl s)
  | lsub _ _ _ _ => exact execLsub_keeps (Keeps.refl s)
  | lcmp _ _ _ _ => exact execLcmp_keeps (Keeps.refl s)
  | land _ _ _ _ => exact execLand_keeps (Keeps.refl s)
  | lor _ _ _ _ => exact execLor_keeps (Keeps.refl s)
  | lxor _ _ _ _ => exact execLxor_keeps (Keeps.refl s)
  | lneg _ _ _ => exact execLneg_keeps (Keeps.refl s)
  | lshl _ _ _ _ => exact execLshl_keeps (Keeps.refl s)
  | lshr _ _ _ _ => exact execLshr_keeps (Keeps.refl s)
  | lsar _ _ _ _ => exact execLsar_keeps (Keeps.refl s)
  | lmulu _ _ _ _ => exact execLmulu_keeps (Keeps.refl s)
  | lmulhu _ _ _ _ => exact execLmulhu_keeps (Keeps.refl s)
  | lmulhs _ _ _ _ => exact execLmulhs_keeps (Keeps.refl s)
  | lsxw _ _ _ _ => exact execLsxw_keeps (Keeps.refl s)
  | eis _ _ _ _ => exact execEis_keeps (Keeps.refl s)
  | eism _ _ _ _ => exact execEism_keeps (Keeps.refl s)
  | sig _ _ _ _ => exact execSig_keeps (Keeps.refl s)
  | wait _ _ _ _ => exact execWait_keeps (Keeps.refl s)
  | reservedOpcode _ => exact execReservedOpcode_keeps (Keeps.refl s)
  | exceptionEntry _ _ => exact execExceptionEntry_keeps (Keeps.refl s)
  | tableWalk _ _ _ _ => exact execTableWalk_keeps (Keeps.refl s)
  | timer _ => exact execTimer_keeps (Keeps.refl s)
  | timerArm _ _ _ _ => exact execTimerArm_keeps (Keeps.refl s)
  | softwareInterrupt _ _ => exact execSoftwareInterrupt_keeps (Keeps.refl s)
  | invpage _ _ => exact execInvpage_keeps (Keeps.refl s)
  | invall _ _ => exact execInvall_keeps (Keeps.refl s)
  | lineFill _ _ => exact execLineFill_keeps (Keeps.refl s)
  | storeAcknowledgement _ => exact execStoreAcknowledgement_keeps (Keeps.refl s)
  | cacheEnable _ _ _ => exact execCacheEnable_keeps (Keeps.refl s)
  | rangeOperation _ _ _ => exact execRangeOperation_keeps (Keeps.refl s)
  | rangeComplete _ => exact execRangeComplete_keeps (Keeps.refl s)
  | counterSignal _ => exact execCounterSignal_keeps (Keeps.refl s)
  | waitComplete _ => exact execWaitComplete_keeps (Keeps.refl s)
  | contextNotice _ _ => exact execContextNotice_keeps (Keeps.refl s)
  | localNodeArrival _ => exact execLocalNodeArrival_keeps (Keeps.refl s)
  | dieNodeArrival _ => exact execDieNodeArrival_keeps (Keeps.refl s)
  | barrierArrival _ _ _ => exact execBarrierArrival_keeps (Keeps.refl s)
  | barrierRelease _ _ => exact execBarrierRelease_keeps (Keeps.refl s)
  | handSetting _ _ => exact execHandSetting_keeps (Keeps.refl s)
  | translationWrite _ _ => exact execTranslationWrite_keeps (Keeps.refl s)
  | refreshDue _ => exact execRefreshDue_keeps (Keeps.refl s)
  | refreshOperation _ => exact execRefreshOperation_keeps (Keeps.refl s)
  | scrub _ => exact execScrub_keeps (Keeps.refl s)
  | training _ _ => exact execTraining_keeps (Keeps.refl s)
  | selfRefreshExit _ _ _ => exact execSelfRefreshExit_keeps (Keeps.refl s)
  | flitSend _ _ => exact execFlitSend_keeps (Keeps.refl s)
  | flitReceive _ _ _ => exact execFlitReceive_keeps (Keeps.refl s)
  | laserFailover _ => exact execLaserFailover_keeps (Keeps.refl s)
  | narrow _ _ => exact execNarrow_keeps (Keeps.refl s)
  | widthChange _ => exact execWidthChange_keeps (Keeps.refl s)
  | leaveService _ _ => exact execLeaveService_keeps (Keeps.refl s)
  | retrain _ _ => exact execRetrain_keeps (Keeps.refl s)
  | portTraining _ _ => exact execPortTraining_keeps (Keeps.refl s)
  | linkLost _ => exact execLinkLost_keeps (Keeps.refl s)
  | hubLookup _ => exact execHubLookup_keeps (Keeps.refl s)
  | heartbeat _ => exact execHeartbeat_keeps (Keeps.refl s)
  | nonce _ _ => exact execNonce_keeps (Keeps.refl s)
  | reportPart _ _ _ => exact execReportPart_keeps (Keeps.refl s)
  | verdict _ _ => exact execVerdict_keeps (Keeps.refl s)
  | notReady _ => exact execNotReady_keeps (Keeps.refl s)
  | attestationTimeout _ => exact execAttestationTimeout_keeps (Keeps.refl s)
  | epochReport _ _ => exact execEpochReport_keeps (Keeps.refl s)
  | epochNotice _ _ => exact execEpochNotice_keeps (Keeps.refl s)
  | arm _ => exact execArm_keeps (Keeps.refl s)
  | go _ => exact execGo_keeps (Keeps.refl s)
  | routeTableWrite _ _ => exact execRouteTableWrite_keeps (Keeps.refl s)
  | drainEnd => exact execDrainEnd_keeps (Keeps.refl s)
  | configurationRequest _ _ _ => exact execConfigurationRequest_keeps (Keeps.refl s)
  | bar0Access _ _ _ _ => exact execBar0Access_keeps (Keeps.refl s)
  | hostWrite _ _ _ _ _ _ _ _ => exact execHostWrite_keeps (Keeps.refl s)
  | hostRead _ _ _ _ _ _ => exact execHostRead_keeps (Keeps.refl s)
  | hostWindowWrite _ => exact execHostWindowWrite_keeps (Keeps.refl s)
  | hostCompletion _ _ _ _ => exact execHostCompletion_keeps (Keeps.refl s)
  | completionTimeout _ _ => exact execCompletionTimeout_keeps (Keeps.refl s)
  | portLost _ => exact execPortLost_keeps (Keeps.refl s)
  | hostHeartbeat _ _ _ => exact execHostHeartbeat_keeps (Keeps.refl s)
  | perstN _ => exact execPerstN_keeps (Keeps.refl s)
  | hotReset _ => exact execHotReset_keeps (Keeps.refl s)
  | linkDisable _ => exact execLinkDisable_keeps (Keeps.refl s)
  | flr _ _ => exact execFlr_keeps (Keeps.refl s)
  | linkUp _ _ _ => exact execLinkUp_keeps (Keeps.refl s)
  | beginWrite _ => exact execBeginWrite_keeps (Keeps.refl s)
  | chunk _ => exact execChunk_keeps (Keeps.refl s)
  | dramchunk _ => exact execDramchunk_keeps (Keeps.refl s)
  | commit _ => exact execCommit_keeps (Keeps.refl s)
  | enrol _ => exact execEnrol_keeps (Keeps.refl s)
  | transfer _ => exact execTransfer_keeps (Keeps.refl s)
  | attest _ => exact execAttest_keeps (Keeps.refl s)
  | extend _ => exact execExtend_keeps (Keeps.refl s)
  | unlock _ => exact execUnlock_keeps (Keeps.refl s)
  | lock _ => exact execLock_keeps (Keeps.refl s)
  | abort _ => exact execAbort_keeps (Keeps.refl s)
  | operationComplete => exact execOperationComplete_keeps (Keeps.refl s)
  | serviceLevel0 _ => exact execServiceLevel0_keeps (Keeps.refl s)
  | selectAndLoad => exact execSelectAndLoad_keeps (Keeps.refl s)
  | serviceLevel2 => exact execServiceLevel2_keeps (Keeps.refl s)
  | serviceLevel3 => exact execServiceLevel3_keeps (Keeps.refl s)
  | railStart => exact execRailStart_keeps (Keeps.refl s)
  | vinLow => exact execVinLow_keeps (Keeps.refl s)
  | vaonPresent => exact execVaonPresent_keeps (Keeps.refl s)
  | pwrEnDeassert => exact execPwrEnDeassert_keeps (Keeps.refl s)
  | telemetry _ _ _ => exact execTelemetry_keeps (Keeps.refl s)
  | controlTick _ => exact execControlTick_keeps (Keeps.refl s)
  | activityStep => exact execActivityStep_keeps (Keeps.refl s)
  | testStrip _ => exact execTestStrip_keeps (Keeps.refl s)
  | capmiss => exact execCapmiss_keeps (Keeps.refl s)
  | capWrite _ _ => exact execCapWrite_keeps (Keeps.refl s)
  | getPower _ _ => exact execGetPower_keeps (Keeps.refl s)
  | setCap _ _ _ => exact execSetCap_keeps (Keeps.refl s)
  | readReg _ _ _ => exact execReadReg_keeps (Keeps.refl s)
  | writeReg _ _ _ _ => exact execWriteReg_keeps (Keeps.refl s)
  | getEvents _ _ => exact execGetEvents_keeps (Keeps.refl s)
  | setEndpointId _ _ => exact execSetEndpointId_keeps (Keeps.refl s)
  | getEndpointId _ => exact execGetEndpointId_keeps (Keeps.refl s)
  | getMctpVersionSupport _ => exact execGetMctpVersionSupport_keeps (Keeps.refl s)
  | getMessageTypeSupport _ => exact execGetMessageTypeSupport_keeps (Keeps.refl s)
  | getVendorDefinedSupport _ => exact execGetVendorDefinedSupport_keeps (Keeps.refl s)
  | dipHold _ => exact execDipHold_keeps (Keeps.refl s)
  | dipHoldEnd => exact execDipHoldEnd_keeps (Keeps.refl s)
  | temperatureSample _ _ => exact execTemperatureSample_keeps (Keeps.refl s)
  | thermalHoldEnd => exact execThermalHoldEnd_keeps (Keeps.refl s)
  | densitometer _ => exact execDensitometer_keeps (Keeps.refl s)
  | run _ => exact execRun_keeps (Keeps.refl s)
  | densitometerStep _ _ => exact execDensitometerStep_keeps (Keeps.refl s)
  | warm _ => exact execWarm_keeps (Keeps.refl s)
  | cold _ => exact execCold_keeps (Keeps.refl s)
  | standby _ => exact execStandby_keeps (Keeps.refl s)
  | wake _ => exact execWake_keeps (Keeps.refl s)
  | clearret _ => exact execClearret_keeps (Keeps.refl s)
  | mrstNAssert => exact execMrstNAssert_keeps (Keeps.refl s)
  | warmReset => exact execWarmReset_keeps (Keeps.refl s)
  | lockupDelay => exact execLockupDelay_keeps (Keeps.refl s)
  | stroke _ _ => exact execStroke_keeps (Keeps.refl s)
  | slwarn => exact execSlwarn_keeps (Keeps.refl s)
  | safelightExpiry => exact execSafelightExpiry_keeps (Keeps.refl s)
  | alertResponse => exact execAlertResponse_keeps (Keeps.refl s)
  | mrstNDeassert => exact execMrstNDeassert_keeps (Keeps.refl s)
  | perstNDeassert _ => exact execPerstNDeassert_keeps (Keeps.refl s)
  | dataLinkLayerDown _ => exact execDataLinkLayerDown_keeps (Keeps.refl s)
  | vaonLoss => exact execVaonLoss_keeps (Keeps.refl s)
  | notReadyNotice _ => exact execNotReadyNotice_keeps (Keeps.refl s)
  | sliceSlot _ => exact execSliceSlot_keeps (Keeps.refl s)

/-- What the ports do of themselves after the clock has counted on. -/
theorem State.tick_keeps (s : State) : Keeps { s with clock := s.clock + 1 } s.tick :=
  State.serveWaiting_keeps (State.serveWaiting_keeps (State.portDrains_keeps (State.portDrains_keeps (Keeps.refl _))))

/-- A microsecond that passes counts the clock on by one. -/
theorem State.tick_clock (s : State) : s.tick.clock = s.clock + 1 := s.tick_keeps.clock

/-- A microsecond that passes leaves the queue alone. -/
theorem State.tick_pending (s : State) : s.tick.pending = s.pending := s.tick_keeps.pending

/-- A microsecond that passes keeps the invariant. -/
theorem State.tick_inv {s : State} (h : s.Inv) : s.tick.Inv :=
  s.tick_keeps.inv ⟨h.cores, h.dram, h.sram, h.sp, h.counters, h.level, h.resets, Nat.le_succ_of_le h.now⟩

end Sys2Proof.Machine
end

