-- ==== Sys2Proof/WellFormed.lean ====
section
/-! DEFINITION. Well-formed commands: the operands whose types do not bound them have the lengths and the ranges that
the spec gives them. A command that is not well-formed still has its meaning; no sender forms one. -/

namespace Sys2Proof

/-- Whether a command is well-formed: a line address is a multiple of 64 below 2^47 (R10, R263), a slot-map part is 128
bytes (R357), a flit 256 (R328), a nonce 32 (R349), a report part 1 to 128 (R334), a host write has one byte enable for
each byte (R370), and power, temperature and path results cover the clusters and the layers (R417, R426, R428). -/
def Instr.wf : Instr → Bool
  | .registerWrite .. => true
  | .registerReadClear .. => true
  | .tcfg .. => true
  | .tldR .. => true
  | .tldC .. => true
  | .tstR .. => true
  | .tstC .. => true
  | .mmaT .. => true
  | .mmaS .. => true
  | .azero .. => true
  | .amovC .. => true
  | .amovL .. => true
  | .amovS .. => true
  | .acvtS .. => true
  | .acvtT .. => true
  | .mmaWriteBack .. => true
  | .matrixFault .. => true
  | .mxAbandon .. => true
  | .mxSave .. => true
  | .mxRestore .. => true
  | .saveRestoreComplete .. => true
  | .vopAdd .. => true
  | .vopSub .. => true
  | .vopMul .. => true
  | .vopFma .. => true
  | .vopMin .. => true
  | .vopMax .. => true
  | .vopAbs .. => true
  | .vopNeg .. => true
  | .cpsgn .. => true
  | .cmpeq .. => true
  | .cmplt .. => true
  | .cmple .. => true
  | .cmpun .. => true
  | .sel .. => true
  | .vopMov .. => true
  | .vopAnd .. => true
  | .vopOr .. => true
  | .vopXor .. => true
  | .vopShl .. => true
  | .vopShr .. => true
  | .vcvt .. => true
  | .exp2 .. => true
  | .log2 .. => true
  | .rcp .. => true
  | .rsqrt .. => true
  | .vredSum .. => true
  | .vredMax .. => true
  | .vredMin .. => true
  | .argmax .. => true
  | .vbc .. => true
  | .vld .. => true
  | .vst .. => true
  | .vstrm .. => true
  | .vtopkS .. => true
  | .vectorFault .. => true
  | .vxAbandon .. => true
  | .vxSave .. => true
  | .vxRestore .. => true
  | .apertureWrite .. => true
  | .remoteRead .. => true
  | .eccWriteBack .. => true
  | .apertureOpen .. => true
  | .apertureClose .. => true
  | .apertureClosed .. => true
  | .spRelease .. => true
  | .slotReleaseEffect .. => true
  | .slotWaitTimeout .. => true
  | .heldWriteTimeout .. => true
  | .dgo .. => true
  | .descriptorStart .. => true
  | .dmaPageFault .. => true
  | .chainComplete .. => true
  | .dmResume .. => true
  | .dmAbandon .. => true
  | .remoteAckTimeout .. => true
  | .outputBeat .. => true
  | .inputBeat .. => true
  | .streamBeatServe .. => true
  | .mark .. => true
  | .servicePacket .. => true
  | .readResponse .. => true
  | .acknowledgement .. => true
  | .refusal .. => true
  | .stall .. => true
  | .pop .. => true
  | .openContext .. => true
  | .park .. => true
  | .resumeContext .. => true
  | .dropContext .. => true
  | .claim .. => true
  | .assign .. => true
  | .cxInDb .. => true
  | .cxOutDb .. => true
  | .recordWrite .. => true
  | .closeStep .. => true
  | .gatherTimeout .. => true
  | .compose .. => true
  | .release .. => true
  | .followerRelease .. => true
  | .slotMapPart _ _ _ data => data.length == 128
  | .mapCredit .. => true
  | .mapResend .. => true
  | .ztrap .. => true
  | .nop .. => true
  | .wfi .. => true
  | .fence .. => true
  | .gcall .. => true
  | .gret .. => true
  | .rete .. => true
  | .mfs .. => true
  | .mts .. => true
  | .isync .. => true
  | .mov .. => true
  | .add .. => true
  | .adc .. => true
  | .sub .. => true
  | .sbc .. => true
  | .cmp .. => true
  | .and .. => true
  | .or .. => true
  | .xor .. => true
  | .tst .. => true
  | .shl .. => true
  | .shr .. => true
  | .sar .. => true
  | .rol .. => true
  | .mull .. => true
  | .mulhu .. => true
  | .movi .. => true
  | .addi .. => true
  | .adci .. => true
  | .subi .. => true
  | .sbci .. => true
  | .cmpi .. => true
  | .andi .. => true
  | .ori .. => true
  | .xori .. => true
  | .tsti .. => true
  | .shlImmediate .. => true
  | .shrImmediate .. => true
  | .sarImmediate .. => true
  | .rolImmediate .. => true
  | .mulli .. => true
  | .mulhui .. => true
  | .movq .. => true
  | .addq .. => true
  | .not .. => true
  | .neg .. => true
  | .swapb .. => true
  | .zxb .. => true
  | .sxb .. => true
  | .clz .. => true
  | .popc .. => true
  | .shli .. => true
  | .shri .. => true
  | .sari .. => true
  | .roli .. => true
  | .amov .. => true
  | .aadd .. => true
  | .aaddp .. => true
  | .aaddi .. => true
  | .amovi .. => true
  | .apc .. => true
  | .amovg .. => true
  | .gmova .. => true
  | .acmp .. => true
  | .ld .. => true
  | .ldP .. => true
  | .ldQ .. => true
  | .ldA .. => true
  | .st .. => true
  | .stP .. => true
  | .stQ .. => true
  | .stA .. => true
  | .shortBranch .. => true
  | .jcc .. => true
  | .call .. => true
  | .jmpa .. => true
  | .calla .. => true
  | .ret .. => true
  | .lmov .. => true
  | .ladd .. => true
  | .lsub .. => true
  | .lcmp .. => true
  | .land .. => true
  | .lor .. => true
  | .lxor .. => true
  | .lneg .. => true
  | .lshl .. => true
  | .lshr .. => true
  | .lsar .. => true
  | .lmulu .. => true
  | .lmulhu .. => true
  | .lmulhs .. => true
  | .lsxw .. => true
  | .eis .. => true
  | .eism .. => true
  | .sig .. => true
  | .wait .. => true
  | .reservedOpcode .. => true
  | .exceptionEntry .. => true
  | .tableWalk .. => true
  | .timer .. => true
  | .timerArm .. => true
  | .softwareInterrupt .. => true
  | .invpage .. => true
  | .invall .. => true
  | .lineFill _ line => line % 64 == 0 && decide (line < 2 ^ 47)
  | .storeAcknowledgement .. => true
  | .cacheEnable .. => true
  | .rangeOperation .. => true
  | .rangeComplete .. => true
  | .counterSignal .. => true
  | .waitComplete .. => true
  | .contextNotice .. => true
  | .localNodeArrival .. => true
  | .dieNodeArrival .. => true
  | .barrierArrival .. => true
  | .barrierRelease .. => true
  | .handSetting .. => true
  | .translationWrite .. => true
  | .refreshDue .. => true
  | .refreshOperation .. => true
  | .scrub .. => true
  | .training .. => true
  | .selfRefreshExit .. => true
  | .flitSend .. => true
  | .flitReceive _ words _ => words.length == 8 && words.all fun w => w.length == 544 && w.all fun a => decide (a < 1024)
  | .laserFailover .. => true
  | .narrow .. => true
  | .widthChange .. => true
  | .leaveService .. => true
  | .retrain .. => true
  | .portTraining .. => true
  | .linkLost .. => true
  | .hubLookup .. => true
  | .heartbeat .. => true
  | .nonce _ value => value.length == 32
  | .reportPart _ _ data => decide (0 < data.length) && decide (data.length ≤ 128)
  | .verdict .. => true
  | .notReady .. => true
  | .attestationTimeout .. => true
  | .epochReport .. => true
  | .epochNotice .. => true
  | .arm .. => true
  | .go .. => true
  | .routeTableWrite .. => true
  | .drainEnd .. => true
  | .configurationRequest .. => true
  | .bar0Access .. => true
  | .hostWrite _ _ _ _ data be _ _ => decide (0 < data.length) && data.length == be.length
  | .hostRead _ _ _ _ len be => decide (0 < len) && be.length == len
  | .hostWindowWrite .. => true
  | .hostCompletion .. => true
  | .completionTimeout .. => true
  | .portLost .. => true
  | .hostHeartbeat .. => true
  | .perstN .. => true
  | .hotReset .. => true
  | .linkDisable .. => true
  | .flr .. => true
  | .linkUp .. => true
  | .beginWrite .. => true
  | .chunk .. => true
  | .dramchunk .. => true
  | .commit .. => true
  | .enrol .. => true
  | .transfer .. => true
  | .attest .. => true
  | .extend .. => true
  | .unlock .. => true
  | .lock .. => true
  | .abort .. => true
  | .operationComplete .. => true
  | .serviceLevel0 .. => true
  | .selectAndLoad .. => true
  | .serviceLevel2 .. => true
  | .serviceLevel3 .. => true
  | .railStart .. => true
  | .vinLow .. => true
  | .vaonPresent .. => true
  | .pwrEnDeassert .. => true
  | .telemetry .. => true
  | .controlTick est => est.length == 24
  | .activityStep .. => true
  | .testStrip .. => true
  | .capmiss .. => true
  | .capWrite .. => true
  | .getPower .. => true
  | .setCap .. => true
  | .readReg .. => true
  | .writeReg .. => true
  | .getEvents .. => true
  | .setEndpointId .. => true
  | .getEndpointId .. => true
  | .getMctpVersionSupport .. => true
  | .getMessageTypeSupport .. => true
  | .getVendorDefinedSupport .. => true
  | .dipHold .. => true
  | .dipHoldEnd .. => true
  | .temperatureSample junctions layers => junctions.length == 24 && layers.length == 192 && layers.all fun l => l.length == 4
  | .thermalHoldEnd .. => true
  | .densitometer slack => slack.length == 24
  | .run .. => true
  | .densitometerStep .. => true
  | .warm .. => true
  | .cold .. => true
  | .standby .. => true
  | .wake .. => true
  | .clearret .. => true
  | .mrstNAssert .. => true
  | .warmReset .. => true
  | .lockupDelay .. => true
  | .stroke .. => true
  | .slwarn .. => true
  | .safelightExpiry .. => true
  | .alertResponse .. => true
  | .mrstNDeassert .. => true
  | .perstNDeassert .. => true
  | .dataLinkLayerDown .. => true
  | .vaonLoss .. => true
  | .notReadyNotice .. => true
  | .sliceSlot .. => true

end Sys2Proof
end

