-- ==== Sys2Proof/Tests/Slice0.lean ====
section
/-! SUPPORT. Tests: one witness for the hypotheses of each statement, and single commands on small states with what the
spec says of them. -/

namespace Sys2Proof.Tests

open Sys2Proof Sys2Proof.Machine

set_option Elab.async false

/-! ### Small states -/

/-- A core with one page of its own scratchpad in its TLB. -/
def core0 : Core :=
  { tlb := [⟨0, 0x400000000000, 3, true, true, true⟩]
    g := [(0, 0x1234), (1, 0x8001), (2, 5), (3, 0xFFFF), (4, 0x10), (5, 0x700), (6, 9), (7, 0x7FFF)]
    a := [(0, 0x40), (1, 0x7FFF), (2, 0x123456789), (3, 0x100)], pc := 0x10, vbase := 0x200, tsr := 0x400, gtbase := 0x800
    st := 0x380A }

/-- Every vector of core 0 at level 1. -/
def levels (s : State) : State := (List.range 4).foldl (fun t n => t.setReg .xcVlvl 0 n 0x11111111) s

/-- A device at level 3 whose core 0 runs. -/
def st0 : State := { State.reset with level := 3, level0 := true }.setCore 0 core0

/-- The same with task-state room for core 0. -/
def st1 : State := st0.setReg .xcTslimLo 0 0 0x2000

/-- A supervisor core at ring 0. -/
def sup : Requester := .core 768

/-- The state that a command answers. -/
def after (i : Instr) (s : State) : Option State :=
  match exec i s with
  | .next t => some t
  | _ => none

/-- Whether a command answers a state that passes a test. -/
def leaves (i : Instr) (s : State) (f : State → Bool) : Bool := (after i s).any f

def goes (s : State) (c : CoreId) (n : Nat) : Bool :=
  match s.begin c n with
  | .go _ => true
  | _ => false

def loadedBy (o : Loaded) : Bool :=
  match o with
  | .ok _ _ => true
  | _ => false

def gotIt {α : Type} (r : Got α × State) : Bool :=
  match r with
  | (.ok _, _) => true
  | _ => false

def replied {α : Type} (r : Reply α × State) : Bool :=
  match r with
  | (.ok _, _) => true
  | _ => false

/-- Words in the scratchpad of core 0 from a word address on. -/
def withWords (s : State) (w : Nat) (l : List Half) : State := s.spStore 0 (2 * w) (l.flatMap fun h => leBytes 2 h.toNat)

/-! ### Ill-formed commands are refused by the check -/

theorem test_wf_flit : (Instr.flitReceive 0 [] 19).wf = false := by decide
theorem test_wf_part : (Instr.slotMapPart 1 2 3 []).wf = false := by decide
theorem test_wf_line : (Instr.lineFill .l2 63).wf = false ∧ (Instr.lineFill .l2 (2 ^ 47)).wf = false := by decide
theorem test_wf_nonce : (Instr.nonce 0 [1]).wf = false := by decide
theorem test_wf_report : (Instr.reportPart 0 0 []).wf = false ∧ (Instr.reportPart 0 0 (List.replicate 129 0)).wf = false := by
  decide +kernel
theorem test_wf_host : (Instr.hostWrite .A 0 .bar4 0 [1] [] false false).wf = false ∧
    (Instr.hostWrite .A 0 .bar4 0 [] [] false false).wf = false ∧ (Instr.hostRead .A 0 .bar4 0 0 []).wf = false ∧
    (Instr.hostRead .A 0 .bar2 0 4 [true]).wf = false := by decide
theorem test_wf_samples : (Instr.controlTick [1]).wf = false ∧ (Instr.temperatureSample [] []).wf = false ∧
    (Instr.densitometer []).wf = false := by decide

/-! ### The framework -/

theorem test_idle_tick : step State.reset = .next { State.reset with clock := 1 } := rfl

theorem test_met_StepKeepsInvariant : st0.Inv ∧ ∃ t, step st0 = .next t := by
  refine ⟨⟨fun c => ?_, by decide, by decide, fun k => rfl, fun p => Nat.zero_le _, by decide, by decide, by decide⟩, st0.tick, rfl⟩
  by_cases h : c = 0
  · subst h; constructor <;> decide
  · have e : st0.core c = {} := by
      show Machine.get ({} : Core) (put {} [] 0 core0) c = {}
      rw [get_put_ne {} [] 0 c core0 h]; rfl
    rw [e]; constructor <;> decide

/-! ### The scalar cores -/

/-- One to four words of an instruction can be fetched: the hypothesis of every statement about a scalar instruction. -/
theorem test_met_begin : goes st0 0 1 ∧ goes st0 0 2 ∧ goes st0 0 3 ∧ goes st0 0 4 := by decide +kernel

/-- R223: 0x1234 + 0x8001 = 0x9235, negative, no carry, no overflow. -/
theorem test_add : leaves (.add 0 0 1) st0 (fun t => get 0 (t.core 0).g 0 == 0x9235 && (t.core 0).st == 0x3808 && (t.core 0).pc == 0x11) := by
  decide +kernel

/-- R223: 5 − 9 borrows. -/
theorem test_sub : leaves (.sub 0 2 6) st0 (fun t => get 0 (t.core 0).g 2 == 0xFFFC && (t.core 0).st == 0x380A) := by decide +kernel

/-- R227: a taken branch. -/
theorem test_branch : leaves (.shortBranch 0 7 0xFE) st0 (fun t => (t.core 0).pc == 0xF) := by decide +kernel

theorem test_met_AddressResults : goes st0 0 1 ∧ goes st0 0 2 ∧ goes st0 0 3 ∧ goes st0 0 4 ∧
    (2 : BitVec 4).toNat % 2 = 0 ∧ (12 : BitVec 4).toNat % 4 = 0 ∧ 4 ≤ (4 : BitVec 3).toNat ∧ (15 : BitVec 4).toNat % 2 ≠ 0 ∧
    (14 : BitVec 4).toNat % 4 ≠ 0 := by decide +kernel

theorem test_met_LongResults : 0xFFFF < 0x10000 ^ 1 ∧ goes st0 0 1 ∧ (true = true → (3 : BitVec 3).toNat < 4 ∧ (0 : BitVec 3).toNat < 4) := by
  decide +kernel

theorem test_met_InstructionBegins : (1 ≤ st0.level ∧ st0.rs.standby = false ∧ (st0.core 0).locked = none ∧
    (st0.core 0).hostLoads = [] ∧ (st0.core 0).frameWrite = none ∧ (st0.core 0).entering = none ∧ st0.deliverable 0 = none ∧ (st0.core 0).waiting = .no ∧
    gotIt (st0.fetchWords 0 0 (wordsFrom (st0.core 0).pc 4))) ∧
    ((st0.setCore 0 { core0 with locked := some (1, 0) }).core 0).locked ≠ none ∧
    ((st0.setCore 0 { core0 with waiting := .wfi }).deliverable 0 = none ∧ core0.entering = none ∧
      ((st0.setCore 0 { core0 with waiting := .wfi }).core 0).waiting ≠ .no) := by decide +kernel

theorem test_met_LoadStoreResults : goes st0 0 1 ∧ goes st0 0 2 ∧
    (∀ n ∈ [1, 2, 3, 4], loadedBy (st0.loadWords 0 true (eaOf core0 2 1 0x8001) n 0)) ∧ (14 : BitVec 4).toNat % 2 = 0 ∧
    (12 : BitVec 4).toNat % 4 = 0 ∧
    (∀ ws ∈ [[1], [1, 2], [1, 2, 3], [1, 2, 3, 4]], gotIt (st0.storeWords 0 (eaOf core0 2 1 0x8001) ws 0)) := by decide +kernel

/-- R226: a load with the address updated first, and a store that waits in the buffer. -/
theorem test_load : leaves (.ld 0 false 2 5 0 4) (withWords st0 0x44 [0xBEEF]) (fun t =>
    get 0 (t.core 0).g 5 == 0xBEEF && get 0 (t.core 0).a 0 == 0x44 && (t.core 0).pc == 0x12) := by decide +kernel
theorem test_store : leaves (.st 0 0 0 3 0) st0 (fun t => (t.core 0).stores.length == 1 && decide (t.sp = st0.sp)) := by decide +kernel

/-- A core whose store buffer holds a store to its scratchpad, or to DRAM. -/
def stores (la : Nat) : State := st0.setCore 0 { core0 with stores := [{ va := 0, la := la, bytes := [1, 2], ring := 0 }] }

theorem test_met_StoreBuffer : gotIt (st0.storeWords 0 0x40 [1, 2, 3] 0) ∧
    (targetOf 0x4000000FFFFE = .scratchpad (0 : CoreId).val 0xFFFFE ∧ (stores 0x4000000FFFFE).cores ≠ [] ∧
      ((stores 0x4000000FFFFE).core 0).stores.length = 1 ∧ ((stores 0x4000000FFFFE).spOf 0).code = [] ∧
      ((stores 0x4000000FFFFE).core 0).stores.all (!·.sent)) ∧
    (∀ la ∈ [0, 0x4000000FFFFE], ((stores la).core 0).stores.any ((stores la).requestsBefore 0) = false) ∧ (stores 0).crossingBeats 0 + 1 ≤ 4 ∧
    spansWindows (piecesOf 0x40 [0x400000000080, 0x400000000082]) = false ∧ (stores 0).slices = [] ∧
    (targetOf 0 = .dram ∧ 2 ≤ (stores 0).level ∧ ((stores 0).core 0).stores.all (!·.sent)) := by decide +kernel

theorem test_met_clean_granules (g : Nat) : (stores 0x4000000FFFFE).codeOf 0 g ≠ .poisoned :=
  fun h => GranuleCode.noConfusion (h : GranuleCode.good = .poisoned)

theorem test_acknowledged : leaves (.storeAcknowledgement 0) (stores 0x400000000040) (fun t =>
    get 0 (t.spOf 0).mem 0x40 == 1 && get 0 (t.spOf 0).mem 0x41 == 2 && (t.core 0).stores.isEmpty) := by decide +kernel

/-- R246, R247: ZTRAP enters vector 1 at VBASE + 8: ring 0, mask 7, TSR one block on. -/
theorem test_ztrap : leaves (.ztrap 0) (levels (st1.setCore 0 { core0 with st := 0x000A })) (fun t => (t.core 0).pc == 0x208 && (t.core 0).tsr == 0x440 &&
    (t.core 0).st == 0x380A) := by decide +kernel

theorem test_met_SpecialRegisters : goes st0 0 2 ∧ narrowSpr core0 0 0 0x03 = some 0 ∧ wideSpr core0 0x0B = some 0 ∧
    (7 : BitVec 4).toNat < 8 ∧ 8 ≤ (8 : BitVec 4).toNat ∧ narrowSpr core0 0 0 0x06 = none ∧ wideSpr core0 0x06 = none ∧
    ringOfSt core0.st = 0 ∧ ringOfSt 0xC00A ≠ 0 := by decide +kernel

/-- A gate entry at GTBASE: target 0x333322221111, valid, for ring e[3:2] and callers to ring e[1:0]. -/
def gated (e : Half) (tslim : Nat) : State := (withWords st0 0x800 [0x1111, 0x2222, 0x3333, e]).setReg .xcTslimLo 0 0 tslim

theorem test_met_GateCall : goes (gated 0x8000 0x4C0) 0 1 ∧ loadedBy ((gated 0x8000 0x4C0).loadWords 0 false 0x800 4 0) ∧
    gotIt ((gated 0x8000 0x4C0).writeGateFrame 0 0) ∧ 0x400 + 192 ≤ (gated 0x8000 0x4C0).tslim 0 ∧
    ¬0x400 + 192 ≤ (gated 0x8000 0x4BF).tslim 0 := by decide +kernel

theorem test_gcall : leaves (.gcall 0 0) (gated 0x8003 0x2000) (fun t => (t.core 0).pc == 0x333322221111 && (t.core 0).tsr == 0x440) := by
  decide +kernel

/-- Frames below TSR: an exception frame to ring 0, and a gate frame to ring 3. -/
def framed (kind st : Half) : State := withWords st1 0x3C0 ([kind, 0, 0x10, 0, 0, st] ++ List.replicate 58 7)

theorem test_met_Returns : loadedBy ((framed 0x1000 0x3800).loadWords 0 false 0x3C0 64 0) ∧ goes (framed 0x2000 0xC000) 0 1 := by decide +kernel

theorem test_rete : leaves (.rete 0) (framed 0x1000 0xC80F) (fun t => (t.core 0).pc == 0x10 && (t.core 0).st == 0xC80F &&
    get 0 (t.core 0).g 3 == 7 && (t.core 0).tsr == 0x3C0) := by decide +kernel

theorem test_gret : leaves (.gret 0) (framed 0x2000 0xC000) (fun t => (t.core 0).pc == 0x10 && (t.core 0).st == 0xF80A &&
    get 0 (t.core 0).a 7 == 0x000700070007) := by decide +kernel

/-- Core 0 with mask level 0 and events of vectors 7 and 6 pending. -/
def eventful : State := levels (st1.setCore 0 { core0 with st := 0, pend := [⟨13, 2, 0, 0⟩, ⟨12, 7, 0, 0⟩] })

theorem test_met_EventEntry : (eventful.deliverable 0).isSome ∧ 1 ≤ eventful.level ∧ eventful.rs.standby = false ∧
    (eventful.core 0).locked = none ∧ (eventful.core 0).hostLoads = [] ∧ (eventful.core 0).frameWrite = none ∧ (eventful.core 0).entering = none ∧
    (eventful.core 0).waiting = .no ∧
    st0.deliverable 0 = none ∧ ¬gotIt ((st0.setCore 0 { core0 with pc := 0x8000 }).fetchWord 0 0x8000 0) := by decide +kernel

/-- R243: at one level the lower vector is taken first. -/
theorem test_event_order : (eventful.deliverable 0).any (·.vec == 12) := by decide +kernel

/-- A store that waits where the frame goes. -/
def onFrame : State := eventful.setCore 0
  { eventful.core 0 with stores := [{ va := 0x400, la := 0x400000000800, bytes := [1, 2], ring := 0 }] }

/-- A state in which an escalation tries its entry, and one with room for one frame only. -/
def counted (s : State) : State := (s.holdEngines 0).count fXC_ESC_COUNT 0
def short : State := eventful.setReg .xcTslimLo 0 0 0x450

theorem test_met_ExceptionEntered : (¬(true = true ∧ eventful.level_ 0 5 ≤ (eventful.core 0).mask) ∧
      (eventful.core 0).tsr.toNat + 128 ≤ eventful.tslim 0 ∧ replied ((eventful.holdEngines 0).tryEntry 0 0 5 5 0 0 0)) ∧
    ((st1.level_ 0 5 ≤ (st1.core 0).mask) ∧ (st1.core 0).tsr.toNat + 64 ≤ st1.tslim 0 ∧ replied ((counted st1).tryEntry 0 0 0 5 0 0 0) ∧
      replied ((counted st1).tryEntry 0 0 0 5 1 0 0)) ∧
    ((counted onFrame).tryEntry 0 0 0 5 0 0 0).1 = .wait ∧ (short.level_ 0 5 > (short.core 0).mask ∧
      (short.core 0).tsr.toNat + 64 ≤ short.tslim 0 ∧ short.tslim 0 < (short.core 0).tsr.toNat + 128) ∧
    (st0.tslim 0 < (st0.core 0).tsr.toNat + 64) ∧
    ((onFrame.holdEngines 0).core 0).tsr.toNat + 128 ≤ onFrame.tslim 0 ∧
    ((onFrame.holdEngines 0).tryEntry 0 0 5 5 0 0 0).1 = .wait ∧ (15 < 16 ∧ 31 < 32 ∧ 1 < 2 ∧ 255 < 256) := by decide +kernel

/-- The engine commands' words: LEN 0 and LEN 1. -/
def issuing (w : Half) : State := st0.setCore 0 { core0 with g := [(8, w)] }

theorem test_met_EngineIssue : (0 : CoreId).val < 768 ∧ goes (issuing 0x0400) 0 1 ∧ (8 : BitVec 4).toNat % 8 = 0 ∧ (9 : BitVec 4).toNat % 4 ≠ 0 ∧
    loadedBy ((issuing 0).loadWords 0 false 0x40 8 0) ∧ ((issuing 0x0400).chan 0 0).queue.length < 8 ∧
    goes (st0.setCore 768 { core0 with tlb := [⟨0, 0, 3, true, true, true⟩] }) 768 1 ∧ 768 ≤ (768 : CoreId).val := by
  decide +kernel

theorem test_eis : leaves (.eis 0 .matrix true 8) (issuing 0x0400) (fun t => (t.mxOf 0).queue.length == 1 && (t.core 0).pc == 0x11) := by
  decide +kernel

/-- A core whose GLB identifier 3 names a counter, and amounts in p0. -/
def signalling (amount : Nat) : State :=
  { st0 with sync := { st0.sync with xlatGlb := [(3, 0x8005)] } }.setCore 0 ({ core0 with g := [] }.setGrs 0 2 amount)

theorem test_met_SignalAndWait : goes (signalling 0xFFFFFF) 0 2 ∧ (signalling 0xFFFFFF).syncTarget 0 0 true 3 = some (.counter 5) ∧
    (signalling 0).syncTarget 0 0 true 4 = none ∧
    ((signalling 0xFFFFFF).core 0).gr 0 + 0x10000 * ((signalling 0xFFFFFF).core 0).gr 1 ≤ 0xFFFFFF ∧
    0xFFFFFF < ((signalling 0x1000000).core 0).gr 0 + 0x10000 * ((signalling 0x1000000).core 0).gr 1 := by decide +kernel

/-- The clauses of a wait: behind a signal of its core, with a context that is free, and with one that is open. -/
theorem test_met_waits : sigNode ⟨0, .counter 5, 7, false⟩ = 5 % 24 ∧ ((signalling 7).nodeView 5 0).1 = .free ∧
    (({ st0 with ctx := [(0, { state := .running })] } : State).nodeView 5 0).1 ≠ .free := by decide +kernel

theorem test_sig : leaves (.sig 0 true 0 3) (signalling 7) (fun t => t.sync.sigs == [⟨0, .counter 5, 7, false⟩]) := by decide +kernel
theorem test_wait : leaves (.wait 0 true 0 3) (signalling 7) (fun t => decide ((t.core 0).waiting = .counter 5)) := by decide +kernel

/-! ### Registers, timers, caches -/

theorem test_met_RegisterAccess : st0.mayAccess (.core 0) 10 0x80008 true 0 = true ∧ st0.mayAccess (.core 1) 10 0x20 true 0 = false ∧
    0xFF < 0x100 ∧ 775 < 776 ∧ (0x3FF < 0x400 ∧ 0x3FF ≠ 0x40) := by decide +kernel

theorem test_denied : leaves (.vxAbandon (.core 1) 0) st0 (fun t => decide (t.out = [.accessError (.core 1) 0x60000F000004 1])) := by
  decide +kernel

theorem test_met_WriteByAccessCode : 31 < 32 ∧ 0xFFFFFFFF < 2 ^ 32 ∧
    (∀ h l ok, (RegId.xcDevroute, h, l, ok) ∉ boundedFields) ∧ (RegId.olTimers, 31, 16, fun x => x != 0) ∈ boundedFields ∧
    ∀ h l ok, (RegId.olTimers, h, l, ok) ∈ boundedFields → l ≤ 16 ∧ h ≤ 31 := by
  refine ⟨by decide, by decide, by simp [boundedFields], by simp [boundedFields], fun h l ok m => ?_⟩
  simp [boundedFields] at m
  omega

/-- R4: values at the ends of the ranges that the tables give, in one write with a field that takes effect. -/
theorem test_bounded : mergeWrite .cxGather 7 1000 true true = 1000 ∧ mergeWrite .cxGather 7 1001 true true = 7 ∧
    mergeWrite .drScrubper 2 168 true true = 168 ∧ mergeWrite .drScrubper 2 169 true true = 2 ∧ mergeWrite .drScrubper 2 0 true true = 2 ∧
    mergeWrite .olTimers 0x10002 0x30000 true true = 0x30002 ∧ mergeWrite .olTimers 0x10002 0x30004 true false = 0x10004 ∧
    bits (mergeWrite .msPeekSel 0 0x30000001 true true) 29 28 = 0 ∧ bits (mergeWrite .msPeekSel 0 0x20000001 true true) 29 28 = 2 ∧
    bits (mergeWrite .pxHwCtl 3 16 true true) 4 0 = 16 ∧ bits (mergeWrite .pxHwCtl 3 17 true true) 4 0 = 3 ∧
    mergeWrite .spTimeout 5 0 true true = 5 ∧ mergeWrite .rsLockdly 5 0 true true = 5 := by decide +kernel

theorem test_met_RegisterAccesses : (0x60000A000028#48).toNat = regAddr 10 0x28 ∧ 10 ≤ 16 ∧ 0x28 < 0x1000000 ∧ 0x28 % 4 = 0 ∧
    st0.mayAccess (.core 0) 10 0x28 false 0 = true ∧ findReg 10 0x28 = some (.xcTcmpHi, 0, 0) ∧ RegId.xcTcmpHi ∉ [RegId.msRate, .mxStatus, .vxStatus] ∧
    findReg 14 0 = some (.mxStatus, 0, 0) ∧ st0.mayAccess (.core 0) 14 0 false 0 = true ∧
    (0x60000A00002A#48).toNat = regAddr 10 0x2A ∧ 0x2A % 4 ≠ 0 ∧ st0.mayAccess (.core 1) 10 0x28 true 0 = false ∧
    st0.mayAccess (.core 0) 10 0x28 true 0 = true ∧
    (0x29 % 2 ≠ 0 ∧ 0x2A % 2 = 0 ∧ 0x2A / 2 % 2 = 1 ∧ 0x2A / 4 * 4 = 0x28 ∧ 0x28 + 4 < 0x1000000) ∧
    (st0.mayAccess (.core 0) 10 0x24 false 0 = true ∧ findReg 10 0x24 = some (.xcTcmpLo, 0, 0) ∧ accMask .xcTcmpLo .rc = 0 ∧
      accMask .xcTcmpHi .rc = 0) ∧ (∃ f ∈ regFields .xcTcmpHi, f.acc ≠ .wo) ∧
    ((∀ f ∈ regFields .rsCmd, f.acc = .wo) ∧ ∀ f ∈ regFields .rsCmd, f.hi < 16) ∧
    ((∀ f ∈ regFields .spRelease, f.acc = .wo) ∧ ¬∀ f ∈ regFields .spRelease, f.hi < 16) ∧
    findReg 13 0x40 = some (.spRelease, 0, 0) ∧ st0.mayAccess (.core 0) 13 0x40 true 0 = true ∧ RegId.spRelease ≠ .pxHbeat := by decide +kernel

/-- R3, R5: a 16-bit read clears its half, a 64-bit read is two, and a 16-bit write leaves the other half. -/
theorem test_sizes : leaves (.registerReadClear (.core 0) 0x60000B00000C .b16) (st0.setReg .trStatus 0 0 0x00050003) (fun t =>
      t.reg .trStatus 0 0 == 0x00050000 && decide (t.out = [.regData (.core 0) 0x60000B00000C 3])) ∧
    leaves (.registerReadClear (.core 0) 0x60000A000024 .b64) ((st0.setReg .xcTcmpLo 0 0 2).setReg .xcTcmpHi 0 0 1) (fun t =>
      decide (t.out = [.regData (.core 0) 0x60000A000024 0x100000002])) ∧
    leaves (.registerWrite (.core 0) 0x60000A000026 .b16 7) (st0.setReg .xcTcmpLo 0 0 2) (fun t => t.reg .xcTcmpLo 0 0 == 0x00070002) ∧
    leaves (.registerWrite (.core 0) 0x60000D000040 .b16 7) st0 (fun t => (t.spOf 0).releases.isEmpty) := by decide +kernel

theorem test_read_size : leaves (.registerReadClear .management 0x600000000000 .b8) st0 (fun t =>
    decide (t.out = [.accessError .management 0x600000000000 2])) := by decide +kernel

/-- A due timer: TEN is set, TCMP is 0. -/
def due : State := (st0.setFlag fXC_CTRL_TEN true 0).setReg .xcTcmpLo 0 0 0

/-- Page 1 of core 0 stands in tables in its scratchpad. -/
def mapped : State := withWords (withWords (st0.setCore 0 { core0 with ttbase := 0x400000000000 }) 0 [0x8000, 0, 0x4000, 0x8000])
  0x4004 [0xF8, 1, 0x4000, 0x8000]

theorem test_walk : replied (mapped.walkEntries 0 1) ∧ leaves (.tableWalk 0 0x8000 .write 3) mapped (fun t =>
    t.fld fTR_STATUS_WALKS 0 == 1 && (t.core 0).tlb.head? == some ⟨1, 0x400000010000, 3, true, true, true⟩) := by decide +kernel

/-- A walk whose tables lie in DRAM waits before level 2. -/
theorem test_met_walk_waits : (({ st0 with level := 1 } : State).walkEntries 0 1).1 = .wait ∧ 2 ^ 39 ≤ (0x8000000000#48).toNat := by
  decide +kernel

theorem test_met_TimersAndTlb : due.flag fXC_CTRL_TEN 0 = true ∧ due.tcmp 0 ≤ due.clock - due.resetAt ∧ (due.core 0).timerRaised = false ∧
    ¬(st0.flag fXC_CTRL_TEN 0 = true) ∧ st0.mayAccess (.core 0) 10 0x24 true 1 = true ∧ st0.mayAccess (.core 0) 10 0x80008 true 775 = true ∧
    775 % 1024 < 776 ∧ 776 ≤ 776 % 1024 ∧ st0.mayAccess (.core 0) 11 0 true 1 = true ∧ (0x7FFFFFFFFF#48).toNat < 2 ^ 39 ∧
    (∀ e ∈ core0.tlb, e.page ≠ 2 * (0x7FFFFFFFFF#48).toNat / 0x10000) ∧
    ¬replied (st0.walkEntries 0 3) := by decide +kernel

theorem test_timer : leaves (.timer 0) due (fun t => (t.core 0).pend.any (fun e => e.vec == 12 && e.src == 7)) := by decide +kernel
theorem test_invall : leaves (.invall (.core 0) 0) st0 (fun t => (t.core 0).tlb.isEmpty) := by decide +kernel

/-- The L2 with a fill on its way. -/
def filling : State := { st0 with l2 := { miss := [{ line := 64, data := List.replicate 64 1 }] } }.setFlag fCF_L2CTRL_EN true

theorem test_met_CacheCommands : st0.mayAccess (.core 0) 12 0 true 3 = true ∧ st0.mayAccess .management 12 0x80000 true 1 = true ∧
    ((filling.cache .l2).miss.find? (·.line == 64)).isSome ∧ (st0.cache .l2).miss.find? (·.line == 64) = none ∧ filling.cacheOn .l2 = true ∧
    st0.mayAccess (.core 0) 12 0x14 true 1 = true ∧ (st0.core 0).range = none ∧ (1#32).getLsbD 0 = true ∧
    ((st0.setCore 0 { core0 with range := some { i := true, d := false, l2 := false, all := true } }).core 0).range.any (·.ahead.isEmpty) := by decide +kernel

theorem test_fill : leaves (.lineFill .l2 64) filling (fun t => ((t.cache .l2).lines (cacheSet .l2 64)).length == 1 && t.l2.miss.isEmpty) := by
  decide +kernel

/-! ### Counters, waits, barriers -/

/-- A signal at the last amount that a counter holds, with a wait pending. -/
def counting : State := { st0 with sync := { st0.sync with
  sigs := [⟨0, .counter 5, 0xFFFFFF, false⟩, ⟨0, .counter 5, 1, false⟩], counters := [(5, { count := 1, waits := [{ who := 0, amount := 2, tag := none }] }),
    (28, { count := 4, waits := [{ who := 3, amount := 3, tag := some 1 }] }),
    (29, { count := 4, waits := [{ who := 1, amount := 3, tag := some 1, frozen := true }, { who := 2, amount := 2, tag := some 1, frozen := true }] })]
  wakes := [⟨0, 3, 0x3FFF⟩, ⟨776, 0, 0⟩], notices := [⟨5, 1, .running, .parked, 0⟩, ⟨4, 1, .free, .running, 0⟩] } }

theorem test_met_CountersAndWaits : counting.sync.sigs[0]? = some ⟨0, .counter 5, 0xFFFFFF, false⟩ ∧ counting.sigReady 0 = true ∧
    counting.sigReady 1 = false ∧ 0xFFFFFF < (counting.ctr 5).count + 0xFFFFFF ∧ counting.sync.wakes[0]? = some ⟨0, 3, 0x3FFF⟩ ∧
    counting.sync.wakes[1]? = some ⟨776, 0, 0⟩ ∧
    counting.sync.notices.find? (fun n => n.node == (5 : ClusterId).val && n.ctx == (1 : CtxId).val) = some ⟨5, 1, .running, .parked, 0⟩ ∧
    29 % 24 = (5 : ClusterId).val ∧ 28 % 24 = (4 : ClusterId).val ∧ (∃ w ∈ (counting.ctr 29).waits, w.tag = some (1 : CtxId).val) ∧
    (∃ w ∈ (counting.ctr 28).waits, w.tag = some (1 : CtxId).val) := by decide +kernel

/-- R295: re-armed waits complete in registration order; those of a freed context end with STATUS 2 and take nothing. -/
theorem test_notice_waits : leaves (.contextNotice 5 1) counting (fun t => (t.ctr 29).count == 1 && (t.ctr 29).waits.map (·.who) == [2] &&
      t.sync.wakes.getLast? == some ⟨1, 0, 29⟩) ∧
    leaves (.contextNotice 4 1) counting (fun t => (t.ctr 28).count == 4 && (t.ctr 28).waits.isEmpty && t.sync.wakes.getLast? == some ⟨3, 2, 28⟩) := by
  decide +kernel

theorem test_counter : leaves (.counterSignal 0) counting (fun t => (t.ctr 5).count == 0xFFFFFD && t.sync.wakes.getLast? == some ⟨0, 0, 5⟩ &&
    (t.core 768).pend.any (·.vec == 11)) := by decide +kernel
theorem test_wake : leaves (.waitComplete 0) counting (fun t => (t.core 0).wres == 0xFFFF && (t.core 0).pc == 0x12) := by decide +kernel

/-- Barrier 1 expects 2 arrivals at the local node of core 0, and has a child on link 3 and a round that went up. -/
def gathering : State := { st0 with sync := { st0.sync with
  bars := [(1, { exp := [(0, 2)] }), (2, { children := [3] }), (4, { pendingUp := [false] })]
  sigs := [⟨0, .barrier 1, 2, false⟩, ⟨31, .barrier 9, 1, false⟩], dieArrivals := [(1, 0, 1)] } }

theorem test_met_BarrierArrivals : gathering.sync.sigs[0]? = some ⟨0, .barrier 1, 2, false⟩ ∧ gathering.sigReady 0 = true ∧
    get 0 (gathering.bar 9).exp 0 = 0 ∧ get 0 (gathering.bar 1).exp 0 ≤ 2 ∧ gathering.sync.dieArrivals[0]? = some (1, 0, 1) ∧
    (gathering.bar 1).children = [] ∧ (gathering.bar 1).parent = none ∧ (gathering.bar 1).locals = 1 ∧
    (gathering.bar 1).lostParent = false ∧ (gathering.bar 1).die < 0xFFFFFF ∧ (gathering.bar 1).die < (gathering.bar 1).locals ∧
    (gathering.bar 2).die = 0 ∧ (gathering.bar 2).kids = [] ∧ (gathering.bar 2).lostKids = [] ∧ (gathering.bar 2).lostParent = false ∧
    (3 : LinkId).val ∈ (gathering.bar 2).children ∧ (gathering.bar 2).children = [3] ∧ (gathering.bar 2).locals = 0 ∧
    (gathering.bar 4).pendingUp = [false] ∧ (gathering.bar 1).pendingUp = [] := by decide +kernel

theorem test_local : leaves (.localNodeArrival 0) gathering (fun t => t.sync.dieArrivals == [(1, 0, 1), (1, 0, 1)]) := by decide +kernel
theorem test_die : leaves (.dieNodeArrival 0) gathering (fun t => (t.bar 1).rounds == 1 && t.sync.sigs.getLast? == some ⟨777, .counter 0, 0, false⟩) := by
  decide +kernel
theorem test_child : leaves (.barrierArrival 3 2 true) gathering (fun t => (t.bar 2).lastLost) := by decide +kernel

theorem test_met_SyncRegisterWrites : st0.mayAccess .management 5 0x14 true 1 = true ∧
    { st0 with sec := { st0.sec with debug := true } }.mayAccess .management 5 8 true 1 = true ∧ st0.flag fSY_XLAT_SEL_GLB = false ∧
    (st0.setFlag fSY_XLAT_SEL_GLB true).flag fSY_XLAT_SEL_GLB = true := by decide +kernel

theorem test_met_TorusNeighbours : ([2, 16, 1, 3] : List Nat).length = 4 ∧ (∀ n ∈ [2, 16, 1, 3], 1 ≤ n ∧ n ≤ 16) ∧ 7 < 8 ∧ 0x1F02 < 0x10000 ∧
    ∀ d, d < 4 → coordOf 0x1F02 d < ([2, 16, 1, 3] : List Nat).getD d 1 := by decide

/-- R340: across L2, the link + of dimension 1 of size 16, 15 wraps to 0. -/
theorem test_torus : torusNeighbour [2, 16, 1, 3] 0x1F02 2 = 0x1002 := by decide


/-! ### Engines -/

/-- An engine command of ring 0. -/
def cmd (l : List Half) : EngineCmd := { words := l, ring := 0 }

def vxWith (x : Vx) : State := st0.setVx 0 x
def mxWith (x : Mx) : State := st0.setMx 0 x

/-- A vector engine with one command; every element of V1 is −1, of V2 the largest number of 32 bits. -/
def vecs (c : EngineCmd) : Vx :=
  { queue := [c], v := [(1, ofBytes 0 (List.replicate 256 0xFF)), (2, ofBytes 0 (leBytes 4 0x7FFFFFFF))] }

theorem not_restoring {o : Option SaveJob} (h : o = none) : ∀ j, o = some j → j.restore = false := by
  subst h; nofun

def isOwn (p : PageIs) : Bool :=
  match p with
  | .own _ => true
  | _ => false

theorem of_isOwn {p : PageIs} (h : isOwn p = true) : ∃ o, p = PageIs.own o := by
  cases p <;> simp_all [isOwn]

def piecesMet (pt : List (Nat × PageIs)) (ps : List (Nat × Nat)) : Bool :=
  pt.all (fun e => decide (e.2 ≠ .outside)) && ps.all fun p => (cutPages p.1 p.2).all fun q => isOwn (placeByte pt q.1)

theorem ownPieces_of {pt : List (Nat × PageIs)} {ps : List (Nat × Nat)} (h : piecesMet pt ps = true) : ownPieces pt ps := by
  simp only [piecesMet, Bool.and_eq_true, List.all_eq_true, decide_eq_true_eq] at h
  exact ⟨h.1, fun p hp q hq => of_isOwn (h.2 p hp q hq)⟩

/-- A check of vxSpans that can be evaluated. -/
def spansMet (s : State) (k : Nat) (c : EngineCmd) : Bool :=
  match s.vxPages k c with
  | (some (rd, wr), t) =>
    piecesMet rd (vxReadPieces c) && piecesMet wr (vxWritePieces c) && t.slotsFull k (rowsRect rd (vxReadPieces c)).toList &&
      t.sbAdmits k (rowsRect rd (vxReadPieces c)).toList (rowsRect wr (vxWritePieces c)) && decide ((t.spOf k).code = []) &&
      decide (vxFirst (t.vxOf k) c < vxChunks c)
  | _ => false

theorem spans_of {s : State} {k : Nat} {c : EngineCmd} (h : spansMet s k c = true) :
    ∃ rd wr t, vxSpans s k c rd wr t ∧ vxFirst (t.vxOf k) c < vxChunks c := by
  unfold spansMet at h
  split at h
  · rename_i rd wr t e
    simp only [Bool.and_eq_true, decide_eq_true_eq] at h
    obtain ⟨⟨⟨⟨⟨h1, h2⟩, h3⟩, h4⟩, h5⟩, h6⟩ := h
    exact ⟨rd, wr, t, ⟨e, ownPieces_of h1, ownPieces_of h2, h3, h4, h5⟩, h6⟩
  · cases h

/-- VADD of V3 = V1 + V2, FMA, a conversion, a broadcast, a reduction. -/
def vadd : EngineCmd := cmd [0x01C0, 0x0C22, 0, 0]

theorem head_of (c : EngineCmd) (hc : vxCheck c = 0) : vxHead (vxWith (vecs c)) 0 c [] :=
  ⟨rfl, rfl, not_restoring rfl, hc⟩

theorem test_met_VectorRegisters : (vxHead (vxWith (vecs vadd)) 0 vadd [] ∧ ((vxWith (vecs vadd)).spOf 0).scoreboard.length < 16 ∧
      vadd.opcode = 0 ∧ vadd.vfmt = some .i32 ∧ (vopForms 0 .i32 0 0 0)[0]? = some (.vopAdd 0, 0, (0, false)) ∧ vadd.vfunc = 0) ∧
    (∀ c ∈ [cmd [0x21C0, 0x0C20, 0, 0], cmd [0x0900, 0x0C20, 0x3000, 0], cmd [0x0880, 0x0C20, 0x4004, 0], cmd [0x1103, 0x0C20, 0, 0], cmd [0x19C3, 0x0C20, 0, 0]],
      vxHead (vxWith (vecs c)) 0 c [] ∧ ((vxWith (vecs c)).spOf 0).scoreboard.length < 16 ∧ c.vfmt.isSome) := by
  refine ⟨⟨head_of _ (by decide), by decide, by decide, by decide, by decide +kernel, by decide⟩, fun c hc => ?_⟩
  simp only [List.mem_cons, List.not_mem_nil, or_false] at hc
  rcases hc with rfl | rfl | rfl | rfl | rfl <;> exact ⟨head_of _ (by decide), by decide, by decide⟩

/-- R80: −1 + 0x7FFFFFFF in the first lane, −1 + 0 in the others; the element −0x80000000 negated saturates. -/
theorem test_vadd : leaves (.vopAdd 0) (vxWith (vecs vadd)) (fun t => ((t.vxOf 0).elems 3 .i32).take 2 == [0x7FFFFFFE, 0xFFFFFFFF] &&
    (t.vxOf 0).queue.isEmpty && !t.flag fVX_STATUS_SAT 0) := by decide +kernel
theorem test_vsub_saturates : leaves (.vopSub 0) (vxWith (vecs (cmd [0x01C1, 0x0C41, 0, 0]))) (fun t =>
    ((t.vxOf 0).elems 3 .i32).take 2 == [0x7FFFFFFF, 1] && t.flag fVX_STATUS_SAT 0) := by decide +kernel

/-- VLD and VST of two chunks, VSTRM of one to itself, VTOPK.S of one. -/
def vmem : List EngineCmd :=
  [cmd [0x4401, 0x0C02, 0, 0, 0x40, 0, 0, 0], cmd [0x4C01, 0x0402, 0, 0, 0x40, 0, 0, 0], cmd [0x6680, 0x0C20, 0, 0, 0x40, 0, 0, 0],
   cmd [0x6C00, 0x0C00, 0, 0, 0x40, 0, 0, 0]]

theorem test_met_VectorMemory : vmem.map (·.opcode) = [8, 9, 0xC, 0xD] ∧ ∀ c ∈ vmem, vxHead (vxWith (vecs c)) 0 c [] ∧
    ∃ rd wr t, vxSpans (vxWith (vecs c)) 0 c rd wr t ∧ vxFirst (t.vxOf 0) c < vxChunks c := by
  refine ⟨by decide, fun c hc => ?_⟩
  simp only [vmem, List.mem_cons, List.not_mem_nil, or_false] at hc
  rcases hc with rfl | rfl | rfl | rfl <;> exact ⟨head_of _ (by decide), spans_of (by decide +kernel)⟩

/-- R88: VLD of two chunks 256 bytes apart. -/
theorem test_vld : leaves (.vld 0) ((vxWith (vecs (cmd [0x4401, 0x0C02, 0, 0, 0x40, 0, 0, 0]))).spStore 0 0x180 [9]) (fun t =>
    get 0 ((t.vxOf 0).reg 4) 0 == 9 && get 0 ((t.vxOf 0).reg 3) 0 == 0) := by decide +kernel

/-- Held engines: the head commands break a check, or a save runs. -/
def badCmd : EngineCmd := cmd [0x3800, 0, 0, 0]

theorem test_met_EngineStops : ((vxWith { queue := [badCmd] }).vxOf 0).queue = [badCmd] ∧ ((vxWith { queue := [badCmd] }).vxOf 0).held = false ∧
    ((vxWith { queue := [badCmd] }).vxOf 0).saving = none ∧ vxCheck badCmd ≠ 0 ∧ ((mxWith { queue := [badCmd] }).mxOf 0).queue = [badCmd] ∧
    mxCheck ((mxWith { queue := [badCmd] }).mxOf 0) badCmd ≠ 0 ∧ ((vxWith { queue := [badCmd], held := true }).vxOf 0).held = true ∧
    (st0.mxOf 0).queue = [] := by decide +kernel

/-- R46, R78: one command per cause, and one that breaks two checks. -/
theorem test_causes : [badCmd, cmd [0x11C0, 0x0C20, 0, 0], cmd [0x4401, 0x7C02, 0, 0, 0x40], cmd [0x4401, 0x0C02, 0, 0, 0x41],
      cmd [0x4401, 0x7C02, 0, 0, 0x41]].map vxCheck = [1, 2, 3, 4, 3] ∧
    [badCmd, cmd [0x4600, 0x0004, 0, 0, 0], cmd [0, 1, 64, 17], cmd [0x0C00, 2, 0x41], cmd [0x1400, 0x0301, 0x41]].map (mxCheck {}) = [1, 2, 3, 4, 3] := by
  decide +kernel

theorem test_vectorFault : leaves (.vectorFault 0) (vxWith { queue := [badCmd] }) (fun t => (t.vxOf 0).held && t.reg .vxFault 0 0 == 0x89C00000) := by
  decide +kernel

/-- Engines of core 0 that are held, and a save base. -/
def heldEngines (base : Nat) (image : List Byte) : State :=
  (((vxWith { held := true, queue := [vadd] }).setMx 0 { held := true, queue := [badCmd] }).setFld fVX_SAVE_BASE_ROW base 0
    |>.setFld fMX_SAVE_BASE_ROW base 0).spStore 0 (base * 128) image

theorem test_met_EngineControls : (∀ w ∈ [1, 2, 4], (heldEngines 8 []).mayAccess (.core 0) 15 4 true w = true ∧ (heldEngines 8 []).mayAccess (.core 0) 14 4 true w = true) ∧
    ((heldEngines 8 []).vxOf 0).saving = none ∧ (heldEngines 8125 []).fld fVX_SAVE_BASE_ROW 0 + 67 = 8192 ∧
    8192 < (heldEngines 8126 []).fld fVX_SAVE_BASE_ROW 0 + 67 ∧ ((heldEngines 8 []).mxOf 0).held = true ∧
    ((heldEngines 8 []).spOf 0).code = [] ∧
    byteWord (getBytes 0 ((heldEngines 8 [1, 0, 16, 0, 0, 0]).spOf 0).mem (8 * 128) 128) 1 ≤ 16 ∧
    (let s := (st0.setVx 0 { saving := some ⟨true, 8, 67, [1, 0]⟩ }).setSp 0 { scoreboard := [⟨.saveVector, [], none⟩] }
     (s.vxOf 0).saving = some ⟨true, 8, 67, [1, 0]⟩ ∧ (s.spOf 0).scoreboard.any (·.owner == .saveVector) = true) := by decide +kernel

theorem test_met_VectorAbandon : (heldEngines 8 []).mayAccess (.core 0) 15 4 true 1 = true ∧ ((heldEngines 8 []).vxOf 0).held = true ∧
    (st0.vxOf 0).held = false := by decide +kernel
theorem test_abandon : leaves (.vxAbandon (.core 0) 0) (heldEngines 8 []) (fun t => (t.vxOf 0).queue.isEmpty && (t.vxOf 0).held) := by decide +kernel


/-- A check of mxSpan that can be evaluated. -/
def spanMet (s : State) (k : Nat) (c : EngineCmd) : Bool :=
  let ps := mxPieces (s.mxOf k) c
  match s.pageTable k (spanPages ps) (if mxWrites c then .write else .read) c.ring.toNat with
  | (some pt, t) =>
    piecesMet pt ps && (mxWrites c || t.slotsFull k (rowsRect pt ps).toList) &&
      t.sbAdmits k (if mxWrites c then [] else (rowsRect pt ps).toList) (if mxWrites c then rowsRect pt ps else none) &&
      decide ((t.spOf k).code = [])
  | _ => false

theorem span_of {s : State} {k : Nat} {c : EngineCmd} (h : spanMet s k c = true) : ∃ pt t, mxSpan s k c pt t := by
  rcases e : s.pageTable k (spanPages (mxPieces (s.mxOf k) c)) (if mxWrites c then .write else .read) c.ring.toNat with ⟨_ | pt, t⟩
  · simp only [spanMet, e] at h; cases h
  · simp only [spanMet, e, Bool.and_eq_true, Bool.or_eq_true, decide_eq_true_eq] at h
    obtain ⟨⟨⟨h1, h2⟩, h3⟩, h4⟩ := h
    exact ⟨pt, t, e, ownPieces_of h1, fun e => h2.resolve_left (by simp [e]), h3, h4⟩

theorem mxHead_of (c : EngineCmd) (h : mxCheck { queue := [c] } c = 0) : mxHead (mxWith { queue := [c] }) 0 c [] :=
  ⟨rfl, rfl, not_restoring rfl, h, by
    show Mx.free { queue := [c] } c = true
    simp [Mx.free]⟩

theorem test_met_MatrixRegisters : ∀ c ∈ [cmd [0, 0x0301, 64, 16], cmd [0x8000], cmd [0x8810], cmd [0xA800, 0x3000]],
    mxHead (mxWith { queue := [c] }) 0 c [] ∧ ((mxWith { queue := [c] }).spOf 0).scoreboard.length < 16 := by
  intro c hc
  simp only [List.mem_cons, List.not_mem_nil, or_false] at hc
  rcases hc with rfl | rfl | rfl | rfl <;> exact ⟨mxHead_of _ (by decide +kernel), by decide⟩

/-- R44: the largest shapes of 4,096 bytes, and one over. -/
theorem test_tcfg : leaves (.tcfg 0) (mxWith { queue := [cmd [0, 1, 64, 16]] }) (fun t => ((t.mxOf 0).tile 0).rows == 64) ∧
    mxCheck {} (cmd [0, 1, 64, 17]) = 3 := by decide +kernel

/-- Tile and accumulator transfers of rows one apart. -/
def mmem : List EngineCmd :=
  [cmd [0x0C00, 2, 0x40], cmd [0x1400, 1, 0x40], cmd [0x1C00, 2, 0x40], cmd [0x2400, 1, 0x40], cmd [0x9400, 2, 0x40], cmd [0x9C00, 2, 0x40],
   cmd [0xA400, 0x3002, 0x40]]

theorem test_met_MatrixMemory : mmem.map (·.opcode) = [1, 2, 3, 4, 0x12, 0x13, 0x14] ∧
    ∀ c ∈ mmem, mxHead (mxWith { queue := [c] }) 0 c [] ∧ ∃ pt t, mxSpan (mxWith { queue := [c] }) 0 c pt t := by
  refine ⟨by decide, fun c hc => ?_⟩
  simp only [mmem, List.mem_cons, List.not_mem_nil, or_false] at hc
  rcases hc with rfl | rfl | rfl | rfl | rfl | rfl | rfl <;>
    exact ⟨mxHead_of _ (by decide +kernel), span_of (by decide +kernel)⟩

/-- R50: row view of rows two scratchpad rows apart. -/
theorem test_tld : leaves (.tldR 0) ((mxWith { queue := [cmd [0x0C00, 2, 0x40]] }).spStore 0 0x180 [9]) (fun t =>
    get 0 ((t.mxOf 0).tile 0).data 256 == 9 && ((t.mxOf 0).tile 0).inUse) := by decide +kernel

/-- Integer MMAs of one product, of tiles and with a streamed B. -/
def mmas : List EngineCmd := [cmd [0x4600, 0x5504, 0, 0, 0], cmd [0x4E00, 0x5500, 0, 0, 0, 0x40, 0, 0]]

theorem test_met_MatrixMultiply : mmas.map (·.opcode) = [8, 9] ∧ (∀ c ∈ mmas, (mmaFields c).formats = some (.i8, .i8)) ∧
    (∀ c ∈ mmas, mxHead (mxWith { queue := [c] }) 0 c [] ∧ ∃ pt t, mxSpan (mxWith { queue := [c] }) 0 c pt t) ∧
    ((mxWith { writeBacks := [⟨3, [], [0]⟩] }).mxOf 0).writeBacks = [⟨3, [], [0]⟩] := by
  refine ⟨by decide, by decide, fun c hc => ?_, by decide⟩
  simp only [mmas, List.mem_cons, List.not_mem_nil, or_false] at hc
  rcases hc with rfl | rfl <;> exact ⟨mxHead_of _ (by decide +kernel), span_of (by decide +kernel)⟩

/-- R54: 3 × −2. -/
theorem test_mma : leaves (.mmaT 0 .clean) (mxWith { queue := [cmd [0x4600, 0x5504, 0, 0, 0]], tiles :=
      [(0, { data := [(0, 3)] }), (1, { data := [(0, 0xFE)] })] }) (fun t =>
    getBytes 0 (t.mxOf 0).cells 0 4 == [0xFA, 0xFF, 0xFF, 0xFF] && (t.mxOf 0).resident == some 0) := by decide +kernel
theorem test_met_NibbleElements : 0 < ([0x5A] : List Byte).length ∧ nibbleAt [0x5A] 0 = 0xA ∧ nibbleAt [0x5A] 1 = 5 := by decide


/-! ### Scratchpads and DMA -/

/-- Aperture 1 of core 0: rows 8 to 11, every granule, every sender; slots of one row. -/
def apWith (mode : Nat) (a : Aperture) : State :=
  (((((st0.setFld fSP_AP_RECT_ROW0 8 0 1).setFld fSP_AP_RECT_NROWSM1 3 0 1).setFld fSP_AP_SHAPE_NGM1 31 0 1).setFld fSP_AP_CTRL_MODE mode 0 1)
    |>.setFld fSP_AP_REQ_REQHI 1023 0 1).setAp 0 1 a

/-- What has arrived on plane V. -/
def arrived (s : State) (m : Msg) : State := s.setSp 0 { s.spOf 0 with arrivals := [(3, [m])] }

def wr4 : Msg := { kind := .write, addr := 8 * 128, data := [1, 2, 3, 4], be := [true, true, true, true] }
def rd4 : Msg := { kind := .readReq, addr := 8 * 128, len := 4 }

theorem test_met_ScratchpadArrivals :
    (get [] ((arrived (apWith 0 { state := .opened }) wr4).spOf 0).arrivals (3 : Fin 4)).head? = some wr4 ∧
    ((arrived (apWith 0 { state := .opened }) wr4).spOf 0).held = [] ∧ ((arrived (apWith 0 { state := .opened }) wr4).spOf 0).code = [] ∧
    (∀ mode ∈ [0, 1, 2], (apWith mode { state := .opened }).writeTest 0 1024 wr4 = (0, 1) ∧ ((apWith mode { state := .opened }).apDesc 0 1).mode = mode) ∧
    ((apWith 0 { state := .closing }).writeTest 0 1024 wr4).1 = 1 ∧
    ((apWith 0 { state := .opened }).writeTest 0 (1024 + 126) { wr4 with addr := 1024 + 126 }).1 = 2 ∧
    (get {} ((apWith 2 { state := .opened, slots := [(0, ⟨true, 0⟩)] }).ap 0 1).slots 0).full = true ∧
    (apWith 0 { state := .opened }).apCovering 0 8 0 = some 1 ∧ (apWith 0 { state := .opened }).apCovering 0 7 0 = none ∧
    ((apWith 0 { state := .opened }).apDesc 0 1).admits 0 0 = true ∧ (1024 + rd4.len - 1) / 128 = 8 ∧
    (((apWith 0 { state := .opened }).setFlag fSP_AP_CTRL_RREAD true 0 1).apDesc 0 1).rread = true := by decide +kernel

/-- R117: the write that fills a slot of 32 granules. -/
theorem test_slot_fills : leaves (.apertureWrite 0 3) (arrived (apWith 2 { state := .opened, slots := [(0, ⟨false, 31⟩)] }) wr4) (fun t =>
    get {} (t.ap 0 1).slots 0 == ⟨true, 0⟩ && get 0 (t.spOf 0).mem 1026 == 3 && t.vResp.length == 1) := by decide +kernel

/-- A slotted aperture with a full slot, a held write at it, a release that waits, a corrected granule. -/
def slotted : State :=
  let s := apWith 2 { state := .opened, slots := [(0, ⟨true, 0⟩)] }
  s.setSp 0 { s.spOf 0 with releases := [⟨1, 0, 1⟩], corrected := [5], code := [(5, .single)] }

theorem test_met_ApertureCommands : (apWith 2 {}).mayAccess (.core 0) 13 0x230 true 0x20 = true ∧
    ((apWith 2 {}).ap 0 1).state = .closed ∧ ((apWith 2 {}).setReg .spApCtrl 0 1 0x20).apCanOpen 0 1 = true ∧
    ((apWith 2 {}).setReg .spApCtrl 0 1 0x30).apCanOpen 0 1 = false ∧ ((apWith 2 { state := .closing }).ap 0 1).state = .closing ∧
    ((apWith 2 { state := .closing }).spOf 0).held = [] ∧ slotted.mayAccess (.core 0) 13 0x40 true 0x01000000 = true ∧
    (slotted.ap 0 1).state = .opened ∧ (slotted.apDesc 0 1).mode = 2 ∧ (slotted.spOf 0).releases = [⟨1, 0, 1⟩] ∧
    slotted.releaseReady 0 ⟨1, 0, 1⟩ = true ∧ (slotted.spOf 0).held = [] ∧ (slotted.spOf 0).corrected = [5] ∧
    (0 : Fin 2).val < 2 ∧ ([⟨1, 0, 3, wr4⟩] : List HeldWrite).find? (fun h => h.ap == (1 : Fin 16).val && h.slot == 0) = some ⟨1, 0, 3, wr4⟩ := by
  decide +kernel

/-- Engines and channels that wait for slot 1 of an aperture, which is not full (R119). -/
def waiting : State :=
  let s := apWith 2 { state := .opened }
  let s := s.setMx 0 { queue := [cmd [0x0C00, 1, 0x200]] }
  let s := s.setVx 0 { queue := [cmd [0x4400, 0x0C02, 0, 0, 0x200, 0, 0, 0]] }
  s.setChan 0 0 { queue := [cmd [0x0401, 0x200, 0, 0, 0, 0, 0, 0]] }

theorem test_met_slot_waits : (waiting.mxGate 0).isSome ∧ (waiting.vxGate 0).isSome ∧ (waiting.chanGate 0 0).isSome := by decide +kernel

theorem test_slot_timeout : leaves (.slotWaitTimeout 0 .matrix) waiting (fun t => (t.mxOf 0).held && (t.core 0).pend.any (·.vec == 8)) := by
  decide +kernel
theorem test_release : leaves (.slotReleaseEffect 0) slotted (fun t => get {} (t.ap 0 1).slots 0 == {} && (t.spOf 0).releases.isEmpty) := by
  decide +kernel

/-- Page 0 is the own scratchpad and page 1 DRAM. -/
def dmaCore : Core := { core0 with tlb := [⟨0, 0x400000000000, 3, true, true, true⟩, ⟨1, 0, 3, true, true, true⟩] }
def dgoCmd : EngineCmd := cmd [0x0400, 0x20, 0, 0, 0, 0, 0, 0]
/-- A descriptor of plane V that moves 128 bytes between byte addresses of this device. -/
def desc (w0 src dst : Nat) : List Half :=
  [BitVec.ofNat 16 w0, 0, 0, BitVec.ofNat 16 src, BitVec.ofNat 16 (src / 0x10000), 0, 0, BitVec.ofNat 16 dst, BitVec.ofNat 16 (dst / 0x10000), 0, 127, 0, 0, 0, 0, 0]
def channel (c : Chan) : State := (st0.setCore 0 dmaCore).setChan 0 0 c
def chained (w : List Half) : State := channel { dgo := some dgoCmd, chain := [w] }

/-- What kind a descriptor's single piece has. -/
def pieceKind (s : State) (w : List Half) (f : SideAt → SideAt → Bool) : Bool :=
  match s.descPlan 0 0 dgoCmd w with
  | (some r, t) =>
    !r.buffered && t.slotsFull 0 r.reads.toList && t.sbAdmits 0 r.reads.toList r.writes && decide ((t.spOf 0).code = []) &&
      (t.spOf 0).scoreboard.isEmpty && (match r.x.foresee t r.plan with
        | [(_, [p])] => f p.src p.dst && p.n == 128
        | _ => false)
  | _ => false

theorem test_met_DmaChannels : ((channel { queue := [dgoCmd] }).chan 0 0).queue = [dgoCmd] ∧ ((channel {}).chan 0 0).halted = false ∧
    ((channel {}).chan 0 0).stop = none ∧ ((channel {}).dmOf 0).held = false ∧ ((channel {}).chan 0 0).stopped = false ∧
    ((channel {}).chan 0 0).stopping = false ∧ Chan.reading {} = false ∧ Chan.settled {} = true ∧
    State.dgo.wellShaped1 dgoCmd = true ∧ 2 * addrAt dgoCmd.words 1 % 32 = 0 ∧ State.dgo.wellShaped1 (cmd [0x0C00]) = false ∧
    ((channel { queue := [dgoCmd] }).pageIs 0 0 .read 0).1 = some (.own 0) ∧
    ((chained (desc 0x300 0 0x400)).chan 0 0).chain[0]? = some (desc 0x300 0 0x400) ∧ (descOf (desc 0x300 0 0)).malformed = false ∧
    (descOf (desc 0x300 0 0)).refusedAtStart 0 = false ∧ (descOf (desc 0xC300 0 0)).malformed = true ∧
    (descOf (desc 0xB300 0 0)).malformed = false ∧ (descOf (desc 0xB300 0 0)).refusedAtStart 0 = true ∧
    (pieceKind (chained (desc 0x300 0 0x400)) (desc 0x300 0 0x400) fun a b => a == .place (.own 0) && b == .place (.own 0x400)) ∧
    (pieceKind (chained (desc 0x300 0 0x10000)) (desc 0x300 0 0x10000) fun a b => a == .place (.own 0) && b == .place (.onDie 0)) ∧
    (pieceKind (chained (desc 0x300 0x10000 0)) (desc 0x300 0x10000 0) fun a b => a == .place (.onDie 0) && b == .place (.own 0)) ∧
    Chan.complete { dgo := some dgoCmd } = true ∧ Chan.complete { dgo := some dgoCmd, unacked := 1 } = false ∧
    (∀ w ∈ [1, 2, 4, 8], st0.mayAccess (.core 0) 16 4 true w = true) ∧
    ((channel { stop := some (.page 4 0) }).chan 0 0).stop = some (.page 4 0) ∧
    Chan.settled { stop := some (.page 4 0), unacked := 1 } = false ∧ (channel { finishing := true, halted := true }).chan 0 0 =
      { finishing := true, halted := true } ∧
    ((channel { remoteOut := [⟨0, 1, 0, 0⟩] }).chan 0 0).remoteOut = [⟨0, 1, 0, 0⟩] := by decide +kernel

/-- R132: 128 bytes move from row 0 to row 8. -/
theorem test_descriptor : leaves (.descriptorStart 0 0) ((chained (desc 0x300 0 0x400)).spStore 0 127 [7]) (fun t =>
    get 0 (t.spOf 0).mem (0x400 + 127) == 7 && (t.chan 0 0).didx == 1) := by decide +kernel


/-! ### Planes -/

/-- Plane V with one packet. -/
def packet (m : Msg) : State := { st0 with vReq := [m] }
def reply (m : Msg) (c : Chan) : State := { st0.setChan 0 0 c with vResp := [m] }
def owedRead : PendingRead :=
  { tag := 9, remote := false, dst := .own 0x80, desc := desc 0x300 0x10000 0, didx := 0, dev := 0, addr := 0, off := 0, len := 4 }

/-- A core whose oldest store goes to the home of a packet, and has gone before it or not. -/
def behindStore (hop gone : Nat) : State :=
  let m : Msg := { wr4 with hop := hop, stores := gone }
  { (packet m) with cores := (put {} (packet m).cores 0 { core0 with stores := [{ va := 0, la := 0x400, bytes := [1, 2], ring := 0 }] }) }

theorem test_met_PlaneV : inOrder st0.requestDest [wr4] 0 = true ∧ inOrder st0.requestDest [wr4, wr4] 1 = false ∧
    wr4.ddev = st0.ol.devId ∧ targetOf (0x400000000000 + 0x80) = .scratchpad 0 0x80 ∧ (get [] ((packet wr4).spOf 0).arrivals 3).length < 4 ∧
    targetOf wr4.addr = .dram ∧ (packet wr4).sliceServesV (dramPlace wr4.addr).1 = true ∧ (1 : Half) ≠ st0.ol.devId ∧
    targetOf 0x600000000000 = .register ∧ targetOf 0x500000001000 = .sram 0x1000 ∧
    replied (((packet wr4).takeReq 0).dramWrite wr4.addr wr4.data wr4.be) ∧
    replied (((packet rd4).takeReq 0).dramRead rd4.addr rd4.len) ∧
    replied (((packet wr4).takeReq 0).sramWrite 0x1000 wr4.data wr4.be) ∧
    inOrder responseDest [{ wr4 with kind := .ack }] 0 = true ∧ wr4.chan < 2 ∧ owedRead.orphan = false ∧
    ([owedRead].find? fun r => r.remote == false && r.tag == 9) = some owedRead ∧ owedRead.dst = .own 0x80 ∧
    (descOf owedRead.desc).cvt = false ∧ (descOf owedRead.desc).acc = false ∧
    (Chan.readOf {} { kind := .readResp } (decide ((0 : Half) ≠ st0.ol.devId))).isNone := by decide +kernel

/-- A packet that stands before its home, one that a packet of another home in the latch before it holds up, an arrival
that no channel awaits, and a channel that has come to its stop. -/
theorem test_met_PlaneV_ways : (packet { wr4 with hop := 2 }).vNext false { wr4 with hop := (vPath false 0 (st0.requestDest wr4)).length } = none ∧
    ((packet wr4).vTravel false 0).1.isSome = true ∧ (packet wr4).storesBefore wr4 = false ∧
    inOrder st0.requestDest [{ wr4 with hop := 2 }, { wr4 with addr := 0, hop := 1 }] 1 = true ∧
    (({ st0 with vReq := [{ wr4 with hop := 2 }, { wr4 with addr := 0, hop := 1 }] } : State).vTravel false 1).1 = none ∧
    packetBeats wr4 = 1 ∧ 4 < (([{ wr4 with data := List.replicate 129 0 }, { wr4 with data := List.replicate 129 0 }] : List Msg).map packetBeats).sum + packetBeats wr4 ∧
    (Chan.readOf {} { kind := .readResp } false).isNone ∧ Chan.settled { stopping := true } = true ∧
    Chan.behind {} owedRead = false ∧ owedRead.got = none := by decide +kernel

/-- A packet behind a store of its core to the same home waits, and the store goes; a store behind a packet waits. -/
theorem test_met_store_and_packet : (behindStore 1 1).storesBefore { wr4 with hop := 1, stores := 1 } = true ∧
    (let s := behindStore 1 0; s.requestsBefore 0 ⟨0, 0x400, [1, 2], 0, false, none⟩ = true) ∧
    leaves (.servicePacket 0) (behindStore 0 0) (fun t => t.vReq.map (·.stores) == [1] && t.dram.isEmpty) ∧
    leaves (.storeAcknowledgement 0) (behindStore 1 1) (fun t => get 0 t.dram 0x401 == 2) ∧
    leaves (.storeAcknowledgement 0) (behindStore 1 0) (fun t => (t.core 0).stores.length == 1) := by decide +kernel

theorem test_service_write : leaves (.servicePacket 0) (packet wr4) (fun t => t.vReq.isEmpty && get 0 t.dram 1025 == 2 &&
    t.vResp.any (fun m => m.kind == .ack && m.count == 1)) := by decide +kernel
theorem test_response : leaves (.readResponse (.service 0)) (reply { kind := .readResp, tag := 9, data := [5, 6, 7, 8] } { reads := [owedRead] })
    (fun t => get 0 (t.spOf 0).mem 0x81 == 6 && (t.chan 0 0).reads.isEmpty) := by decide +kernel

/-- A router whose plane 0 passes one beat from input N to output L and on, and its slice's schedule. -/
def routing : State :=
  { st0 with
    tables := [((sideKey 0 0 0 false) * 256, 0xD0000000), ((sideKey 0 0 4 true) * 256, 0xC0000000)]
    sides := [(sideKey 0 0 0 false, { latch := some wr4 })] }

/-- The same for the link from router 1 to router 0, and for slice 0 an entry of a kind. -/
def inbound : State :=
  { st0 with tables := [((sideKey 0 0 1 false) * 256, 0xD0000000)], sides := [(sideKey 1 0 3 true, { latch := some wr4 })] }
def schedule (e : Nat) (x : Slice) : State :=
  { st0 with schedules := [(0, BitVec.ofNat 32 (e ^^^ defaultSchedule 0))] }.setSlice 0 x

theorem test_met_StreamPlanes : (routing.current (sideKey 0 0 4 true)).isSome ∧
    (routing.current (sideKey 0 0 0 false)).any (fun x => x.1.latch == some wr4 && x.1.taken.isEmpty && (bits x.2 29 24).testBit 4) ∧
    bits ((routing.current (sideKey 0 0 4 true)).map (·.2) |>.getD 9) 29 27 = 0 ∧ routing.outputFree 0 0 4 = true ∧
    (inbound.current (sideKey 0 0 1 false)).any (fun x => x.1.latch.isNone) ∧ neighbour 0 1 = some 1 ∧
    (inbound.sideOf (sideKey 1 0 3 true)).latch = some wr4 ∧
    ((schedule 0 { inq := [(0, [rd4])] }).sliceNow 0).any (fun x => bits x.2 31 29 == 0) ∧ (dramPlace rd4.addr).1 = 4 ∧
    (get [] (({} : Slice).relaySeq) 0 = [] ∧ (get [] (({} : Slice).outq) 0).length < 4 ∧ rd4.relay = 0) ∧
    4 ≤ (get [] (({ outq := [(0, List.replicate 4 rd4)] } : Slice).outq) 0).length ∧ (({} : Slice).merging = [] ∧ replied (st0.dramRead rd4.addr 64)) ∧
    (let g : MergeUnit := ⟨0, (dramPlace rd4.addr).2 / 64, 0⟩; g.plane = 0 ∧ st0.clock ≤ g.at_ + 1) ∧
    ((schedule 0x60000005 {}).sliceNow 0).any (fun x => bits x.2 31 29 == 3) ∧
    (routing.sideOf (sideKey 0 0 0 false)).recorded = false ∧ (routing.sideWaits 0 0 0 false).isSome ∧
    st0.mayAccess sup 6 0 true 1 = true := by decide +kernel

theorem test_beat : leaves (.outputBeat 0 0 4) routing (fun t => (t.sideOf (sideKey 0 0 0 false)).taken == [4] &&
    get [] (t.spOf 0).arrivals 0 == [wr4]) := by decide +kernel
theorem test_mark : leaves (.mark 0) (schedule 0x60000005 {}) (fun t => (t.slice 0).phase == 5) := by decide +kernel


/-! ### Contexts -/

/-- Context 1 with one input waiting, owned by function 0 of port A. -/
def ctx1 (st : CtxState) : CtxRec := { state := st, func := 0, inTail := 1 }
def hasCtx (x : CtxRec) : State := st0.setRec 1 x
/-- Both ports serve the frames of their functions 0 and 2. -/
def framesOpen (s : State) : State :=
  let x : PxPort := { linkUp := true, vfEnable := true, numVfs := 2, fns := [(0, { mse := true }), (2, { mse := true })] }
  (s.setPx 0 x).setPx 1 x
def phased (p : CxPhase) (s : State) : State := { s with cx := { s.cx with phase := p } }

theorem test_met_ContextCommands : 2 ≤ st0.level ∧ (phased .composing st0).cx.phase = .composing ∧ (hasCtx (ctx1 .idle)).cx.phase ≠ .composing ∧
    (∀ st ∈ [CtxState.idle, .ready, .running, .parked], ((hasCtx (ctx1 st)).ctxRec 1).ownedBy false 0 = true ∧
      ((hasCtx (ctx1 st)).ctxRec 1).state = st) ∧ (ctx1 .parked).eligible = true ∧
    CtxRec.eligible { state := .parked, func := 0 } = false ∧ (ctx1 .free).ownedBy false 0 = false ∧ st0.follower = false ∧
    (st0.setFlag fCX_CFG_ROLE true).follower = true ∧ (ctx1 .idle).ownedBy true 0 = false ∧
    st0.mayAccess sup 4 0x60 true 0 = true ∧ (16 < (17 : BitVec 5).toNat ∧ ¬16 < (16 : BitVec 5).toNat) ∧
    (framesOpen st0).reaches 0 0 = true ∧ (framesOpen st0).servesMemory = true ∧ (framesOpen st0).portBusy 0 = false ∧
    ((framesOpen st0).pxOf 0).linkUp = true ∧ 4 ≤ ((framesOpen st0).fnCfg 0 0).mps ∧ (framesOpen st0).reaches 0 1 = false ∧
    (phased .closing st0).cx.phase = .closing ∧
    ((ctx1 .idle).inCount ≤ (128 + 256 - (ctx1 .idle).inHead) % 256 ∧ (128 + 256 - (ctx1 .idle).inHead) % 256 ≤ 128) ∧
    ¬(129 + 256 - (ctx1 .idle).inHead) % 256 ≤ 128 ∧ ((ctx1 .idle).outTail + 256 - 0) % 256 ≤ (ctx1 .idle).outCount ∧
    (ctx1 .idle).outCount < ((ctx1 .idle).outTail + 256 - 1) % 256 := by decide +kernel

theorem test_doorbell : leaves (.cxInDb .A 0 1 1) (framesOpen (hasCtx { state := .idle, func := 0 })) (fun t => (t.ctxRec 1).state == .ready && (t.ctxRec 1).inTail == 1) := by
  decide +kernel
theorem test_claim : leaves (.claim (.frame .B 2) 1) (framesOpen (hasCtx { ctx1 .idle with handover := true })) (fun t => (t.ctxRec 1).portB && (t.ctxRec 1).func == 2 &&
    !(t.ctxRec 1).handover) := by decide +kernel

/-- A step that has ended, with context 1 in slot 0. -/
def ended : State :=
  { hasCtx (ctx1 .running) with cx := { phase := .closing, done := true, released := true, occ := [(0, 2)] } }

/-- A gather with one ready context and a batch of 1. -/
def gatherReady : State := phased .gathering (hasCtx (ctx1 .ready))
def followerState (x : CxEngine) : State := { st0.setFlag fCX_CFG_ROLE true with cx := x }
def sentMap : SentMap := ⟨1, 4, List.replicate 32 [0]⟩

/-- A step that has ended with context 1 in slot 0, which emits an output, and context 2, which is to be dropped, in slot
42; slot 42's output entry is poisoned. -/
def twoSlots : State :=
  { (hasCtx (ctx1 .running)).setRec 2 { ctx1 .running with dropReq := true } with
    cx := { phase := .closing, done := true, released := true, occ := [(0, 2), (42, 3)] }, dram := [(2, 1)] }
def spoiled (a : Nat) (s : State) : State :=
  s.setSlice (dramPlace a).1 { s.slice (dramPlace a).1 with poisoned := [((dramPlace a).2 / 64, true)] }

/-- Contexts 1 and 2 are ready, context 2 before, and context 1 has slot 1 of the step just closed, or of the one that a
warm reset interrupted. -/
def twoReady (x : CxEngine) : State :=
  { ((hasCtx { ctx1 .ready with slotV := true, slot := 1, prio := 1 }).setRec 2 { ctx1 .ready with prio := 3 }).setFld fCX_CFG_SM1 1 with
    cx := { x with phase := .gathering } }

theorem errorFree_of (s : State) (h : s.slices = []) : errorFree s := by
  intro sl
  have e : s.slice sl = {} := by unfold State.slice; rw [h]; rfl
  rw [e]
  exact ⟨rfl, rfl, rfl⟩

theorem test_met_StepCycle : (twoSlots.cx.phase = .closing ∧ 3 ≤ twoSlots.level ∧ twoSlots.cx.deferred = [] ∧
      (twoSlots.cx.occ.map (·.1)).Nodup ∧ (twoSlots.cx.occ.map (·.2)).Nodup ∧ (∀ e ∈ twoSlots.cx.occ, 1 ≤ e.2) ∧
      (∀ e ∈ twoSlots.cx.occ, ∀ g ∈ twoSlots.cx.occ, ∀ u ∈ unitsOf (outEntry twoSlots e.1) 64,
        u ∉ unitsOf (ringEntry twoSlots (g.2 - 1)) 64)) ∧ errorFree twoSlots ∧ (twoSlots.ctxRec 1).dropReq = false ∧
    (leNat (((getBytes 0 twoSlots.dram (outEntry twoSlots 0) 64).drop 2).take 2)).testBit 0 = true ∧
    poisonedAt (spoiled (outEntry twoSlots 42) twoSlots) (outEntry twoSlots 42) ∧
    (gatherReady.cx.phase = .gathering ∧ gatherReady.follower = false ∧ gatherReady.readyList = [1] ∧
      gatherReady.batch ≤ gatherReady.readyList.length) ∧ errorFree gatherReady ∧
    poisonedAt (spoiled (gatherReady.ringAddr 1 0) gatherReady) (gatherReady.ringAddr 1 (64 * ((gatherReady.ctxRec 1).inHead % 128))) ∧
    (keepsSlot (twoReady { occ := [(1, 2)] }) 1 = true ∧ keepsSlot (twoReady { kept := [(1, 2)] }) 1 = true ∧
      keepsSlot (twoReady { occ := [(1, 2)] }) 2 = false ∧ selectedBefore (twoReady {}) 2 1) ∧
    ((phased .composing st0).cx.deferred = [] ∧ ∀ i < 4, st0.flag fCX_FWD_VALID 0 i = false) ∧
    ((followerState { heldMap := some (5, []) }).cx.heldMap = some (5, []) ∧ (followerState {}).follower = true ∧
      (followerState {}).cx.released = false ∧ (followerState {}).reg .cxStep 0 0 < 1) ∧
    (¬(∀ n < 32, get [] (put [] ([] : SMap (List Byte)) (1 * 32 + 31) [0]) (1 * 32 + n) ≠ [])) ∧
    (([sentMap].filter (·.dev == 1)) = [sentMap] ∧ sentMap.dev = 1 ∧ sentMap.stepNo = 4) := by
  refine ⟨by decide +kernel, errorFree_of _ rfl, by decide, by decide +kernel, by unfold poisonedAt; decide +kernel, by decide +kernel, errorFree_of _ rfl,
    by unfold poisonedAt; decide +kernel, ⟨by decide +kernel, by decide +kernel, by decide +kernel, ?_⟩, by decide +kernel, by decide +kernel, by decide +kernel,
    by decide +kernel⟩
  unfold selectedBefore
  decide +kernel

theorem test_close : leaves .closeStep ended (fun t => t.cx.phase == .gathering && (t.ctxRec 1).state == .idle && (t.ctxRec 1).inHead == 1) := by
  decide +kernel
/-- R202: the output goes to the ring; R188: a dropped context is free. -/
theorem test_close_two : leaves .closeStep twoSlots (fun t => (t.ctxRec 1).outTail == 1 && get 0 t.dram (ringEntry twoSlots 1 + 2) == 1 &&
    t.ctxRec 2 == {}) := by decide +kernel
/-- R198: context 1 keeps slot 1, and context 2 takes slot 0. -/
theorem test_compose_two : leaves .compose (twoReady { occ := [(1, 2)] }) (fun t => get 0 t.cx.occ 0 == 3 && get 0 t.cx.occ 1 == 2) ∧
    leaves .compose (twoReady { kept := [(1, 2)] }) (fun t => get 0 t.cx.occ 0 == 3 && get 0 t.cx.occ 1 == 2) := by decide +kernel
theorem test_compose : leaves .compose gatherReady (fun t => t.cx.phase == .composing && get 0 t.cx.occ 0 == 2) := by decide +kernel

/-! ### Power and management -/

def powered (f : Pw → Pw) : State := { st0 with pw := f { st0.pw with railsOn := true } }

theorem test_met_PowerControl : (powered id).pw.railsOn = true ∧ st0.pw.railsOn = false ∧
    10 ≤ (powered fun p => { p with missMs := 10 }).pw.missMs ∧ (powered id).pw.capMissed = false ∧ (powered id).pw.missMs < 10 ∧
    2048 ≤ st0.fld fPW_K_K ∧ st0.fld fPW_K_K ≤ 8192 ∧ st0.mayAccess .management 3 4 true 150 = true ∧
    (150 ≤ 150 % 1024 ∧ 600 ≤ 600 ∧ ¬601 % 1024 ≤ 600) ∧ (powered id).pw.dipHold = false ∧
    (powered fun p => { p with dipHold := true }).pw.dipHold = true ∧ signedOf 8 (st0.fld fPW_THERM_JMAX) ≤ 100 ∧
    signedOf 8 ((st0.setFld fPW_THERM_JMAX 101).fld fPW_THERM_JMAX) = 101 ∧ (List.replicate 24 (105 : Int)).length = 24 ∧
    (∀ j ∈ List.replicate 24 (105 : Int), -128 ≤ j ∧ j < 115) ∧ 115 ≤ (115 : Int) ∧ (∃ l ∈ [[105]], ∃ d ∈ l, 105 ≤ d) ∧
    (∃ l ∈ [[96, 20]], ∃ d ∈ l, (95 : Int) < d) ∧ (∀ d ∈ [83, 20], (d : Int) ≤ 83) ∧ ((∀ d ∈ [85], (d : Int) ≤ 85) ∧ ∃ d ∈ [84], (83 : Int) < d) ∧
    (powered id).pw.hold = false ∧ (get {} (powered id).pw.learned 0).hint = false ∧
    (powered fun p => { p with learned := [(0, { hint := true })] }).pw.learned = [(0, { hint := true })] ∧
    (powered fun p => { p with occupied := [(0, { begun := true })] }).pw.occupied = [(0, { begun := true })] := by decide +kernel

/-- R427: a junction at 115 °C trips; a layer at 96 °C holds. -/
theorem test_trip : leaves (.temperatureSample (115 :: List.replicate 23 20) []) (powered id) (fun t => t.pw.tripped && !t.pw.railsOn && t.rs.last == 2) ∧
    leaves (.temperatureSample (List.replicate 24 20) [[20, 96]]) (powered id) (fun t => t.pw.holdLayer && !t.pw.tripped && (t.slice 0).hot) := by
  decide +kernel

/-- R411: the limit moves by one unit. -/
theorem test_activity : leaves .activityStep (powered fun p => { p with act := 64, goal := 65 }) (fun t => t.pw.act == 65) := by decide +kernel
theorem test_dip : leaves (.dipHold 40) (powered fun p => { p with goal := 200 }) (fun t => t.pw.dipHold && t.pw.goal == 64 &&
    t.flag fPW_EVSTAT_DIP) := by decide +kernel
/-- R426: the junctions' reason ends at 100 °C, and a layer at 91 °C keeps its own. -/
theorem test_thermal_hold_end : leaves .thermalHoldEnd (((powered fun p => { p with holdJunction := true, holdLayer := true }).setFld
    fPW_THERM_JMAX 100).setFld fPW_THERM_DMAX 91) (fun t => !t.pw.holdJunction && t.pw.holdLayer) := by decide +kernel

/-- SMBus answers after level 0. -/
theorem test_met_AgeingAndManagement : (List.replicate 24 19).length = 24 ∧ (powered id).pw.hold = false ∧
    (powered fun p => { p with holdJunction := true }).pw.hold = true ∧ get false (powered fun p => { p with lowering := [(3, true)] }).pw.lowering (3 : ClusterId) = true ∧
    get false st0.pw.lowering (3 : ClusterId) = false ∧ st0.mayAccess .management 3 0x2C true 0x40000000 = true ∧
    st0.bindingUp .smbus = true ∧ State.reset.bindingUp .smbus = false ∧ (150 ≤ (600 : BitVec 16).toNat ∧ (600 : BitVec 16).toNat ≤ 600) ∧
    (0x600000000000 + 3 * 0x1000000 + 4 : BitVec 64).toNat = regAddr 3 4 ∧ st0.mayAccess .management 3 4 false 0 = true ∧
    (findReg 3 4).isSome ∧ st0.mayAccess .management 14 4 false 0 = false ∧ (6 : Nat) ∉ [1, 2, 3, 4, 5] ∧
    (powered fun p => { p with measured := true }).pw.densBusy = false ∧ (8 : Byte) ≠ 0 ∧ (8 : Byte) ≠ 0xFF ∧
    (st0.setFlag fMG_STAGE_UNCONF true).alertSrc &&& ((st0.setFlag fMG_STAGE_UNCONF true).setReg .mgAlertEn 0 0 0x80).reg .mgAlertEn 0 0 ≠ 0 ∧
    st0.alertSrc &&& st0.reg .mgAlertEn 0 0 = 0 := by decide +kernel

theorem test_getEndpointId : leaves (.getEndpointId .smbus) st0 (fun t => t.out.head? == some (.mctpControl .smbus 2 [0, 0, 0, 0])) := by decide +kernel
theorem test_setCap : leaves (.setCap .smbus 3 601) st0 (fun t => t.out.head? == some (.mctp .smbus 2 3 2 [])) ∧
    leaves (.setCap .smbus 3 600) st0 (fun t => t.fld fPW_CAP_W == 600) := by decide +kernel


/-! ### Links and DRAM -/

def ported (x : OPort) : State := st0.setPort 0 x
def linked (l : OLink) : State := (ported { state := .inService, noticeEpoch := some 0 }).setLink 0 l

theorem test_met_PortCommands : (∀ st ∈ [PortState.training, .attesting, .ready, .inService], st ≠ .dark ∧ st ≠ .unused ∧ st ≠ .outOfService) ∧
    (OPort.locked { state := .attesting } = true) ∧ ((ported { state := .ready, width := 1 }).port 0).width = 1 ∧
    st0.mayAccess .management 8 0x200 true 1 = true ∧ group 0xFF 4 = some [0, 1, 2, 3] ∧ (2 : BitVec 8).toNat.testBit 1 = true ∧
    widthAtMost 0xFD (4 / 2) = some 2 ∧ widthAtMost 0 2 = none ∧ (∀ k ∈ List.range 9, Nat.testBit 0xFD k = (Nat.testBit 0xFF k && !Nat.testBit 2 k)) ∧
    (((ported { nextWidth := some 2 }).port 0).nextWidth = some 2 ∧ ((ported { nextWidth := some 2 }).port 0).blockCount =
      ((ported { nextWidth := some 2 }).port 0).boundary) ∧ ((ported { nextWidth := some 2, boundary := 9 }).port 0).blockCount ≠
      ((ported { nextWidth := some 2, boundary := 9 }).port 0).boundary ∧ st0.ol.workingFailed.getLsbD 7 = false ∧
    (0x80 : BitVec 8).getLsbD (7 : Fin 8) = true ∧ (st0.port 0).state = .dark ∧ ((powered id).pw.railsOn = true ∧ (powered id).pw.mrst = false ∧ (powered id).rs.retired = false ∧
      (powered id).rs.standby = false) ∧ ({ powered id with rs := { st0.rs with retired := true } } : State).rs.retired = true ∧ st0.ol.workingFailed = 0 ∧
    widthAtMost (0xFF : BitVec 8).toNat 8 = some 8 := by decide +kernel

theorem test_narrow : leaves (.narrow 0 2) (ported { state := .inService, width := 4, lanes := [0, 1, 2, 3], waves := 0xFF }) (fun t => (t.port 0).nextWidth == some 2 &&
    (t.port 0).waves == 0xFD) := by decide +kernel
theorem test_leave : leaves (.leaveService 0 .noBlock) (ported { state := .inService, width := 2 }) (fun t => (t.port 0).downCause == 1 &&
    t.flag fOL_EVSTAT_PORTDOWN) := by decide +kernel

theorem test_met_AttestationAndEpochs : OPort.locked {} = false ∧ OPort.locked { state := .attesting } = true ∧ State.reset.level = 0 ∧
    OPort.locked { state := .ready, accepted := true } = true ∧ st0.ol.adopted = false ∧
    ((ported { state := .attesting, ownNonce := some [] }).port 0).ownNonce.isSome = true ∧
    (put [] ([] : SMap (List Byte)) (0 : Fin 74) (fit 128 [1])).length < 74 ∧ 0 + 40000 ≤ { st0 with clock := 40000 }.clock ∧
    st0.clock < 0 + 40000 ∧ (1 + 0x10000 - st0.ol.epoch) % 0x10000 = 1 ∧ st0.ol.armed = true ∧
    (2 ≤ (0x7FFF + 0x10000 - st0.ol.epoch) % 0x10000 ∧ (0x7FFF + 0x10000 - st0.ol.epoch) % 0x10000 < 0x8000) ∧
    0x8000 ≤ (0x8000 + 0x10000 - st0.ol.epoch) % 0x10000 ∧ (∀ w ∈ [1, 2], st0.mayAccess .management 8 8 true w = true) ∧
    st0.mayAccess .management 8 0x24 true 0x80 = true ∧ st0.ol.draining = false ∧
    (let s := { st0 with ol := { st0.ol with draining := true, drainAt := 7 }, clock := 7 + st0.fld fOL_TIMERS_DRAINUS }
     s.ol.draining = true ∧ s.ol.drainAt + s.fld fOL_TIMERS_DRAINUS ≤ s.clock) := by decide +kernel

/-- R355: the drain of a plan lasts OL_TIMERS.DRAINUS. -/
theorem test_drain : leaves .drainEnd ({ st0 with ol := { st0.ol with draining := true, drainAt := 7, prev := [(1, 2)] }, clock := 7 }.setFld fOL_TIMERS_DRAINUS 1) (fun t =>
    t.ol.draining && t.ol.prev.length == 1) := by decide +kernel
/-- R327: a port changes its width at the agreed block boundary only. -/
theorem test_width_change : leaves (.widthChange 0) (ported { state := .inService, width := 4, waves := 0xFD, nextWidth := some 2, boundary := 9 }) (fun t =>
      (t.port 0).width == 4) ∧
    leaves (.widthChange 0) (ported { state := .inService, width := 4, waves := 0xFD, nextWidth := some 2, boundary := 9, blockCount := 9 }) (fun t =>
      (t.port 0).width == 2 && (t.port 0).nextWidth.isNone && t.flag fOL_EVSTAT_NARROW) := by decide +kernel

theorem test_notice : leaves (.epochNotice 0 1) (ported { state := .inService }) (fun t => t.ol.epoch == 1 && !t.ol.armed && t.ol.draining) := by
  decide +kernel
theorem test_limit : leaves (.attestationTimeout 0) { ported { state := .attesting, ownNonce := some [] } with clock := 40000 } (fun t =>
    (t.port 0).attCause == 7 && (t.port 0).downCause == 4) := by decide +kernel

/-- A hub that routes device 1 over link 2, device 2 to itself and device 3 nowhere. -/
def hubbed (m : Msg) : State :=
  let s := { st0 with ol := { st0.ol with hub := [m], cur := [(1, 0x82), (2, 0xC0), (4, 0xA2)] } }
  s.setLink 2 { role := 1, state := .inService }

def idleFlit : List Byte := ({ kind := 1, lane := 0, vc := 0, nak := false, used := 0, seq := 0, ackSeq := 0, ackV := false, crLane := 0, crVc := 0, crCnt := 0 } : FlitHead).bytes []
def dataFlit : List Byte := ({ kind := 0, lane := 0, vc := 0, nak := false, used := 32, seq := 0, ackSeq := 0, ackV := false, crLane := 0, crVc := 0, crCnt := 0 } : FlitHead).bytes
  (Msg.bytes { wr4 with data := [1, 2, 3, 4], ddev := 1 })

/-- Horner's rule, step by step from the highest power on. -/
def horner (f : GField) (x : Nat) : List Nat → Nat → Nat
  | [], v => v
  | c :: r, v => cond (Nat.beq v 0) (horner f x r c) (horner f x r (f.mul v x ^^^ c))

theorem mul_zero_left (f : GField) (x : Nat) : f.mul 0 x = 0 := by
  have h (n m : Nat) : Nat.rec (motive := fun _ => Nat) 0 (fun k v => f.twice v ^^^ x / 2 ^ (m - 1 - k) % 2 * 0) n = 0 := by
    induction n with
    | zero => rfl
    | succ n ih => show f.twice (Nat.rec (motive := fun _ => Nat) 0 _ n) ^^^ _ = 0; rw [ih]; simp [GField.twice]
  exact h f.m f.m

theorem horner_eq (f : GField) (x : Nat) : ∀ l v, horner f x l v = l.foldl (fun v c => f.mul v x ^^^ c) v
  | [], v => rfl
  | c :: r, v => by
    rw [horner, List.foldl_cons]
    cases h : Nat.beq v 0
    · exact horner_eq f x r _
    · rw [Nat.eq_of_beq_eq_true h, mul_zero_left, Nat.zero_xor]; exact horner_eq f x r c

/-- Whether a word has no syndrome other than 0. -/
def codeword (f : GField) (nk : Nat) (w : List Nat) : Bool := (f.powers nk).all fun x => horner f x w 0 == 0

theorem message_of {w : List Nat} (l : w.length = 544) (h : codeword blockField 30 (w.map (· % 1024)) = true) :
    wordMessage w = some (ofSymbols ((w.map (· % 1024)).take 514), false) := by
  have e : (blockField.syndromes 30 (w.map (· % 1024))).all (· == 0) = true := by
    rw [GField.syndromes, List.all_map]
    refine Eq.trans (congrArg (List.all _) (funext fun x => ?_)) h
    show (blockField.eval _ x == 0) = _
    rw [horner_eq, GField.eval, List.foldr_reverse]
  rw [wordMessage, if_neg (by rw [l]; decide)]
  unfold GField.decode
  rw [show blockChecks = 30 from rfl, if_pos e]
  rfl

/-- The last codeword of a block whose last two flits are the ones above: message bits, then check symbols. -/
def lastWord : List Nat := symbolsOf 514 (2 ^ 1044 * leNat (idleFlit ++ dataFlit)) ++
  [171, 680, 331, 565, 696, 939, 65, 723, 956, 309, 822, 472, 229, 648, 646, 545, 907, 626, 799, 63, 343, 557, 848, 726,
   271, 239, 446, 736, 426, 536]
def lastBlock : List (List Nat) := List.replicate 7 (List.replicate 544 0) ++ [lastWord]

theorem lastMessage : wordMessage lastWord = some (2 ^ 1044 * leNat (idleFlit ++ dataFlit), false) := by
  rw [message_of (by decide +kernel) (by decide +kernel)]
  exact congrArg (fun n => some (n, false)) (by decide +kernel)

/-- R326: the flits of the block, and a word of no codeword. -/
theorem flit_18 : (blockFlit lastBlock 18).bytes = some idleFlit := by
  show (match [(7, wordMessage lastWord)] with | got => _) = _
  rw [lastMessage]
  decide +kernel
theorem flit_19 : blockFlit lastBlock 19 = ⟨some dataFlit, 0, 0⟩ := by
  show (match [(7, wordMessage lastWord)] with | got => _) = _
  rw [lastMessage]
  decide +kernel
theorem flit_none : blockFlit [] 0 = ⟨none, 0, 1⟩ := by decide

theorem test_met_LinksAndHub : (hubbed { wr4 with ddev := 1 }).ol.hub[0]? = some { wr4 with ddev := 1 } ∧ wr4.kind ≠ .void ∧
    (hubbed wr4).hubTable wr4 = some [(1, 0x82), (2, 0xC0), (4, 0xA2)] ∧ (hubbed wr4).hubTable { wr4 with ep := true } = none ∧
    (hubbed wr4).entryValid 0x82 = true ∧ (hubbed wr4).entryValid 0 = false ∧ (hubbed wr4).entryValid 0xC0 = true ∧
    Nat.testBit 0xC0 6 = true ∧ Nat.testBit 0xA2 5 = true ∧ ((hubbed wr4).link 2).state ≠ .lost ∧ 0x82 % 8 = 2 ∧
    ((((st0.setLink 0 { state := .inService })).link 0).state = .inService ∧ (st0.port 0).state ≠ .inService) ∧
    ((linked {}).port 0).locked = true ∧ ((linked {}).link 0).owed = [] ∧ ((linked {}).link 0).rxNext < 4096 ∧
    (linked { role := 1, state := .inService, txq := [(channelKey 0 0, [(wr4, wr4.bytes)])] }).nextChannel 0 = some (channelKey (0 : Fin 4) (0 : Fin 4)) ∧
    (linked { role := 1, state := .inService }).carries 0 0 = true ∧
    flitGood idleFlit = true ∧ (FlitHead.of idleFlit).kind ≠ 0 ∧ flitGood [] = false ∧
    flitGood dataFlit = true ∧ (FlitHead.of dataFlit).kind = 0 ∧ (FlitHead.of dataFlit).seq = 0 ∧ (FlitHead.of dataFlit).lane ≠ 3 ∧
    ((cutTransactions 2 ((dataFlit.drop 8).take 32)).1.map (·.kind)) = [.write] := by decide +kernel

theorem test_route : leaves (.hubLookup 0) (hubbed { wr4 with ddev := 1 }) (fun t => t.ol.hub.isEmpty && (t.link 2).txq.length == 1) ∧
    leaves (.hubLookup 0) (hubbed { wr4 with ddev := 3 }) (fun t => t.fld fOL_DROPS_NOROUTE == 1) := by decide +kernel
theorem test_receive : leaves (.flitReceive 0 lastBlock 19) (linked { role := 1, state := .inService }) (fun t =>
    t.ol.hub.map (·.data) == [[1, 2, 3, 4]] && (t.link 0).rxNext == 1) := by
  show (some (State.flitReceive _ 0 lastBlock 19)).any _ = true
  unfold State.flitReceive
  rw [flit_19]
  decide +kernel

theorem test_met_DramUpkeep : (2 ≤ st0.level ∧ (st0.slice 0).selfRef = false) ∧ (st0.slice 0).debt = 0 ∧
    ((schedule 0x40000007 { debt := 1 }).sliceNow 0).any (fun x => bits x.2 31 29 == 2 && decide (x.1.moved + 8 ≤ x.2 % 0x10000 + 1)) ∧
    ((schedule 0 { debt := 1 }).sliceNow 0).any (fun x => bits x.2 31 29 == 0 && (get [] x.1.inq 0).isEmpty) ∧
    ((schedule 0x20000037 {}).sliceNow 0).any (fun x => bits x.2 31 29 == 1) ∧
    ((st0.setFlag fDR_CTRL_SCRUBEN true).flag fDR_CTRL_SCRUBEN = true ∧ (schedule 0x20000037 {}).sliceServesV 0 = true ∧
      (schedule 0x60000037 {}).sliceServesV 0 = false) ∧
    st0.level0 = true ∧ (st0.slice 0).trained = false ∧ (st0.slice 0).trfail = false ∧
    (((([0, 287, 288, 0] : List (BitVec 9)).map (·.toNat)).filter (· < 288)).eraseDups.length ≤ 4) ∧
    4 < (((([0, 1, 2, 3, 4] : List (BitVec 9)).map (·.toNat)).filter (· < 288)).eraseDups.length) ∧
    ((schedule 0 { selfRef := true }).slice 0).selfRef = true ∧ (st0.rs.retired = false ∧ st0.rs.standby = false) ∧
    ({ st0 with rs := { st0.rs with standby := true } } : State).rs.standby = true ∧ State.reset.level0 = false := by decide +kernel

theorem test_debt : leaves (.refreshDue 0) (schedule 0 { debt := 15 }) (fun t => t.flag fDR_EVSTAT_DEBT && (t.slice 0).debt == 16) := by decide +kernel
theorem test_training : leaves (.training 0 [1, 2, 3, 4, 5]) st0 (fun t => (t.slice 0).trfail && t.fld fDR_SSTATUS_NERASE == 4) := by decide +kernel


/-! ### Security and negatives -/

/-- SHAKE256 of nothing begins 46 B9 DD 2B 0B A8 8D 13 (FIPS 202's example). -/
theorem test_shake : (shake256 64 []).take 8 = [0x46, 0xB9, 0xDD, 0x2B, 0x0B, 0xA8, 0x8D, 0x13] := by decide +kernel

/-! Lengths of digests. -/

/-- Five rows of five lanes. -/
def square (rows : List (List Nat)) : Prop := rows.map List.length = [5, 5, 5, 5, 5]

theorem chunks_square (l : List Nat) (h : l.length = 25) : square (chunks 5 5 l) := by
  match l, h with
  | [_, _, _, _, _, _, _, _, _, _, _, _, _, _, _, _, _, _, _, _, _, _, _, _, _], _ => rfl

theorem rotateLeft_length (l : List Nat) (n : Nat) : (l.rotateLeft n).length = l.length := by
  unfold List.rotateLeft
  dsimp only
  split
  · rfl
  · simp only [List.length_append, List.length_drop, List.length_take]; omega

theorem chi_length (row : List Nat) : (chi row).length = row.length := by simp [chi, xorRow, rotateLeft_length]

theorem round_square (rows : List (List Nat)) (rc : Nat) : square (keccakRound rows rc) := by
  have h := chunks_square (laneMoves.map fun m => rol64 ((theta rows).flatten.getD m.1 0) m.2)
    (by rw [List.length_map]; decide +kernel)
  have e : (keccakRound rows rc).map List.length = ((moveLanes (theta rows)).map chi).map List.length := by
    unfold keccakRound
    cases (moveLanes (theta rows)).map chi <;> simp
  unfold square
  rw [e, List.map_map, ← h]
  exact List.map_congr_left fun r _ => chi_length r

theorem keccakF_square (rows : List (List Nat)) : square (keccakF rows) := by
  have e : ∃ l c, roundConstants 24 1 = l ++ [c] := ⟨(roundConstants 24 1).take 23, (roundConstants 24 1).getLastD 0, by decide +kernel⟩
  obtain ⟨l, c, e⟩ := e
  unfold keccakF
  rw [e, List.foldl_append]
  exact round_square _ _

theorem leBytes_length (n v : Nat) : (leBytes n v).length = n := by
  induction n generalizing v with
  | zero => rfl
  | succ n ih => simp [leBytes, ih]

theorem lanes_length (l : List Nat) : (l.flatMap (leBytes 8)).length = 8 * l.length := by
  induction l with
  | nil => rfl
  | cons w r ih => rw [List.flatMap_cons, List.length_append, ih, leBytes_length, List.length_cons]; omega

theorem spongeBytes_length {rows : List (List Nat)} (h : square rows) : (spongeBytes rows).length = 200 := by
  unfold spongeBytes
  rw [lanes_length, List.length_flatten, show rows.map List.length = _ from h]
  rfl

theorem absorbed_square (rate : Nat) (l : List (List Byte)) :
    ∀ rows, square rows → square (l.foldl (absorb rate) rows) := by
  induction l with
  | nil => exact fun _ h => h
  | cons b r ih => exact fun _ _ => ih _ (keccakF_square _)

theorem shake256_length {n : Nat} (h : n ≤ 136) (m : List Byte) : (shake256 n m).length = n := by
  unfold shake256 shake squeeze
  have e := spongeBytes_length (absorbed_square 136 (chunks 136 ((spongePad 136 m).length / 136) (spongePad 136 m))
    (List.replicate 5 (List.replicate 5 0)) rfl)
  simp only [if_pos h, List.length_take, e]
  omega

/-! A key and a signature that verify: a public key whose t is 0, and a response of 0. -/

@[irreducible] def key0 : List Byte := List.replicate 1952 0

theorem ntt_length (n : Nat) : ∀ m l, l.length = 2 ^ n → (ntt n m l).length = 2 ^ n := by
  induction n with
  | zero => exact fun _ _ h => h
  | succ n ih =>
    intro m l h
    have k : 2 ^ (n + 1) = 2 ^ n + 2 ^ n := by omega
    rw [ntt, List.length_append, ih, ih, k]
    all_goals simp [dsaAdd, dsaSub, dsaScale, h, k]

theorem foldl_length {β : Type} (f : DsaPoly × List Byte → β → DsaPoly × List Byte)
    (hf : ∀ a b, (f a b).1.length = a.1.length) (l : List β) : ∀ a, (l.foldl f a).1.length = a.1.length := by
  induction l with
  | nil => exact fun _ => rfl
  | cons b r ih => exact fun a => (ih _).trans (hf a b)

theorem challenge_length (digest : List Byte) : (challenge digest).length = 256 := by
  unfold challenge
  refine (foldl_length _ (fun a b => ?_) _ _).trans (List.length_replicate ..)
  simp only [List.length_set]

theorem dot_zero (c : DsaPoly) (h : c.length = 256) : dsaDot c dsaZero = dsaZero := by
  refine List.ext_getElem (by simp only [dsaDot, dsaZero, List.length_zipWith, List.length_replicate, h, Nat.min_self]) fun i hi hj => ?_
  simp only [dsaDot, dsaZero, List.getElem_zipWith, List.getElem_replicate, Nat.mul_zero, Nat.zero_mod]

theorem toNtt_zero : toNtt dsaZero = dsaZero := by decide +kernel

/-- What a verifier computes under this key from a response of 0, whatever the challenge. -/
def computed0 : List DsaPoly :=
  List.zipWith (fun p _ => ofNtt (dsaSub p dsaZero)) (dsaMatrix (expandA (key0.take 32)) ((List.replicate 5 dsaZero).map toNtt))
    (List.replicate 6 dsaZero)

@[irreducible] def digest0 (m : List Byte) : List Byte :=
  shake256 48 (messageDigest key0 m ++ packHigh (List.zipWith (List.zipWith useHint) (List.replicate 6 dsaZero) computed0))
@[irreducible] def tail0 : List Byte := (List.replicate 640 [0x00, 0x00, 0x08, 0x00, 0x80]).flatten ++ List.replicate 61 0
def signature0 (m : List Byte) : List Byte := digest0 m ++ tail0

theorem digest0_length (m : List Byte) : (digest0 m).length = 48 := by
  unfold digest0
  exact shake256_length (by decide) _
theorem signature0_length (m : List Byte) : (signature0 m).length = 3309 := by
  rw [signature0, List.length_append, digest0_length]; decide +kernel

theorem response0 (m : List Byte) : ((List.range 5).map fun r => unpackZ (((signature0 m).drop (48 + 640 * r)).take 640)) =
    List.replicate 5 dsaZero := by
  have e (r : Nat) : (signature0 m).drop (48 + 640 * r) = tail0.drop (640 * r) := by
    rw [signature0, List.drop_append, List.drop_eq_nil_of_le (by rw [digest0_length]; omega), digest0_length]
    simp
  simp only [e]
  decide +kernel

theorem verifies0 (m : List Byte) : mldsaVerify key0 m (signature0 m) = true := by
  have hint : unpackHint ((signature0 m).drop 3248) = some (List.replicate 6 dsaZero) := by
    rw [signature0, List.drop_append, List.drop_eq_nil_of_le (by rw [digest0_length]; omega), digest0_length]
    decide +kernel
  have t : ((List.range dsaK).map fun r => (unpackBits 10 256 ((key0.drop (32 + 320 * r)).take 320)).map (· * 8192)) =
      List.replicate 6 dsaZero := by decide +kernel
  have d : (signature0 m).take 48 = digest0 m := by
    rw [signature0, List.take_append_of_le_length (Nat.le_of_eq (digest0_length m).symm), List.take_of_length_le (Nat.le_of_eq (digest0_length m))]
  have z := response0 m
  have dot (c : List Byte) : dsaDot (toNtt (challenge c)) (toNtt dsaZero) = dsaZero := by
    rw [toNtt_zero]; exact dot_zero _ (ntt_length 8 1 _ (challenge_length c))
  have w : List.zipWith (fun p t => ofNtt (dsaSub p (dsaDot (toNtt (challenge (digest0 m))) (toNtt t))))
      (dsaMatrix (expandA (key0.take 32)) ((List.replicate 5 dsaZero).map toNtt)) (List.replicate 6 dsaZero) = computed0 := by
    unfold computed0
    refine List.ext_getElem (by simp) fun i hi hj => ?_
    simp only [List.getElem_zipWith, List.getElem_replicate, dot]
  have b : dsaBelow (dsaG1 - dsaBeta) (List.replicate 5 dsaZero) = true := by decide +kernel
  have l : key0.length = 1952 := by decide +kernel
  unfold mldsaVerify
  simp only [hint, d, show dsaL = 5 from rfl, z, b, t, w, l, signature0_length]
  simp only [ne_eq, not_true_eq_false, Bool.not_true, Bool.false_eq_true, or_self, if_false]
  unfold digest0
  exact beq_self_eq_true _

/-- A bank header: magic, version 1, SEQ 1, length 1024, SVN 1, six entries, the key's digest, its signature. -/
@[irreducible] def headerFields : List Byte :=
  leBytes 4 0x4E314739 ++ leBytes 2 1 ++ [0, 0] ++ leBytes 8 1 ++ leBytes 4 1024 ++ leBytes 2 1 ++ leBytes 2 6 ++ leBytes 8 0

def unsigned : Sec := { owner := some key0, seed := some [], flash := putBytes 0 (putBytes 0 [] 0 headerFields) 32 (keyDigest key0) }
def banked : Sec := { unsigned with flash := putBytes 0 unsigned.flash 192 (signature0 (unsigned.bankBytes 0 0 192)) }

theorem getBytes_out {m : SMap Byte} {a o n : Nat} {l : List Byte} (h : o + n ≤ a ∨ a + l.length ≤ o) :
    getBytes 0 (putBytes 0 m a l) o n = getBytes 0 m o n := by
  refine List.map_congr_left fun k hk => get_putBytes_out 0 m a l k ?_
  obtain ⟨i, hi, rfl⟩ := List.mem_map.mp hk
  have := List.mem_range.mp hi
  omega

theorem getBytes_in {m : SMap Byte} {a n : Nat} {l : List Byte} (h : l.length = n) : getBytes 0 (putBytes 0 m a l) a n = l := by
  refine List.ext_getElem (by simp [getBytes, span, h]) fun i hi hj => ?_
  simp only [getBytes, span, List.map_map, List.getElem_map, List.getElem_range, Function.comp]
  exact get_putBytes_in 0 m a l i hj

theorem header_bytes (o n : Nat) (h : o + n ≤ 192) : banked.bankBytes 0 o n = unsigned.bankBytes 0 o n := by
  unfold Sec.bankBytes
  exact getBytes_out (.inl (by omega))
theorem header_field (o n : Nat) (h : o + n ≤ 32) : banked.bankLe 0 o n = leNat (getBytes 0 (putBytes 0 [] 0 headerFields) o n) := by
  rw [Sec.bankLe, header_bytes o n (by omega), Sec.bankBytes, Nat.zero_mul, Nat.zero_add]
  exact congrArg leNat (getBytes_out (.inl h))

/-- A header that breaks no test. -/
theorem test_met_header : banked.headerCause 0 banked.owner = 0 := by
  have k : banked.bankBytes 0 32 32 = keyDigest key0 := by
    rw [header_bytes 32 32 (by decide)]; exact getBytes_in (shake256_length (by decide) _)
  have g : banked.bankBytes 0 192 3309 = signature0 (unsigned.bankBytes 0 0 192) := getBytes_in (signature0_length _)
  have v := verifies0 (banked.bankBytes 0 0 192)
  rw [header_bytes 0 192 (by decide)] at v
  unfold Sec.headerCause
  simp only [header_field _ _ (show 16 + 4 ≤ 32 by decide), header_field _ _ (show 0 + 4 ≤ 32 by decide),
    header_field _ _ (show 4 + 2 ≤ 32 by decide), header_field _ _ (show 22 + 2 ≤ 32 by decide), header_field _ _ (show 20 + 2 ≤ 32 by decide)]
  rw [if_neg (by decide), if_neg (by decide +kernel)]
  show (if banked.bankBytes 0 32 32 ≠ keyDigest key0 then 2 else if !mldsaVerify key0 (banked.bankBytes 0 0 192) (banked.bankBytes 0 192 3309) then 3 else _) = 0
  rw [if_neg (not_not_intro k), g, header_bytes 0 192 (by decide), v, if_neg (by decide), if_neg (by decide +kernel)]


/-- A device that stages a package for its own identity. -/
def staging (s : Sec) : Sec := { s with stage := putBytes 0 (putBytes 0 [] 4 (leBytes 4 1)) 8 s.identity }

theorem staged_identity (s : Sec) (h : s.seed.isSome = true) :
    ((getBytes 0 (staging s).stage 0 5301).drop 8).take 32 = s.identity := by
  have e : s.identity.length = 32 := by rw [Sec.identity, if_pos h]; exact shake256_length (by decide) _
  refine List.ext_getElem (by simp [getBytes, span, e]) fun i hi hj => ?_
  have g := get_putBytes_in 0 (putBytes 0 [] 4 (leBytes 4 1)) 8 s.identity i hj
  simp [getBytes, span, staging]
  exact g

theorem staging_identity (s : Sec) : (staging s).identity = s.identity := rfl


/-- A device at level 3 with a seed, so that a copy of the device data is in force. -/
def secured (f : Sec → Sec) : State := { st0 with sec := f { seed := some [], area := some false } }
def open_ (w : BankWrite) (len : Nat) : State := (secured fun x => { x with write := some w }).setFld fSC_OPLEN_LEN len
def key1 : List Byte := [1, 2, 3]
def mine : BankWrite := ⟨0, .management, 8192, 0⟩

theorem test_met_SecurityCommands : (∀ code ∈ List.range 12, st0.mayAccess .management 1 4 true code = true ∧ st0.mayAccess sup 1 4 true code = true) ∧
    (secured fun x => { x with op := some (0, .none) }).sec.op ≠ none ∧ (secured id).sec.op = none ∧ (secured id).sec.write = none ∧
    (4160 ≤ (open_ mine 4160).fld fSC_OPLEN_LEN ∧ (open_ mine 469766144).fld fSC_OPLEN_LEN ≤ 469766144 ∧
      ¬4160 ≤ (open_ mine 4159).fld fSC_OPLEN_LEN ∧ ¬(open_ mine 469766145).fld fSC_OPLEN_LEN ≤ 469766144) ∧
    (open_ mine 8192).sec.write = some mine ∧ mine.owner = .management ∧ mine.owner ≠ sup ∧
    (1 ≤ (open_ mine 8192).fld fSC_OPLEN_LEN ∧ (open_ mine 8192).fld fSC_OPLEN_LEN ≤ 8192 ∧
      mine.written + (open_ mine 8192).fld fSC_OPLEN_LEN ≤ mine.len) ∧
    (open_ mine 0).fld fSC_OPLEN_LEN < 1 ∧ State.reset.level < 2 ∧ 2 ≤ (secured id).level ∧
    (match (open_ mine 4).dramRead ((open_ mine 4).pairAddr .scOpsrcLo .scOpsrcHi) 4 with | (.ok d, _) => d.length == 4 | _ => false) = true ∧
    mine.written ≠ mine.len ∧ ({ mine with written := 8192 } : BankWrite).written = 8192 ∧ (secured id).sec.headerCause 0 none = 1 ∧
    (secured id).sec.pagesGood 0 8192 = true ∧ (secured fun x => { x with badPages := [1] }).sec.pagesGood 0 8192 = false ∧
    leNat ((getBytes 0 (secured id).sec.stage 0 5301).take 4) ≠ 1 ∧ (secured id).sec.seed ≠ none ∧ st0.sec.seed = none := by
  refine ⟨by decide +kernel, by decide, by decide, by decide, by decide +kernel, by decide, by decide, by decide, by decide +kernel, by decide +kernel, by decide, by decide,
    by decide +kernel, by decide, by decide, by decide +kernel, by decide, by decide, by decide +kernel, by decide, by decide⟩

/-- A package of kind 1 for this identity, newer than none only if its generation is above 0. -/
theorem test_met_package : (((getBytes 0 (staging (secured id).sec).stage 0 5301).drop 8).take 32 = (staging (secured id).sec).identity) :=
  (staged_identity _ rfl).trans (staging_identity _).symm

theorem test_chunk : leaves (.chunk .management) (open_ mine 4) (fun t => t.sec.op == some (0, .append 0 0 [0, 0, 0, 0])) := by decide +kernel
theorem test_refused_write : leaves (.chunk sup) (open_ mine 4096) (fun t => t.fld fSC_STATUS_RESULT == 1) := by decide +kernel

def ending (r : Nat) (e : SecEffect) (f : Sec → Sec) : State := secured fun x => f { x with op := some (r, e) }

theorem test_met_SecurityEffects : (secured id).sec.op = none ∧ (ending 15 (.openWrite mine) id).sec.op = some (15, .openWrite mine) ∧ 15 < 16 ∧
    ((ending 0 .none id).sec.pagesGood 0x1000 1 = true ∧ (ending 0 .none fun x => { x with badPages := [1] }).sec.pagesGood 0x1000 1 = false ∧
      (ending 0 .none fun x => { x with badPages := [1] }).sec.pagesGood 0xFFF 1 = true) ∧
    (ending 0 (.owner key1 1) fun x => { x with area := none }).sec.canWriteDd = false ∧ (ending 0 (.owner key1 1) id).sec.canWriteDd = true ∧
    (ending 0 (.debug true true) id).sec.debug = false := by decide

theorem test_owner : leaves .operationComplete (ending 0 (.owner key1 7) id) (fun t => t.sec.dd.pending == some key1 && t.sec.dd.pendingGen == 7 &&
    t.sec.op.isNone && t.sec.area == some true) := by decide +kernel
theorem test_owner_bad_copy : leaves .operationComplete (ending 0 (.owner key1 7) fun x => { x with badPages := [0x40801] }) (fun t =>
    t.fld fSC_STATUS_RESULT == 9 && t.sec.dd.pending.isNone) := by decide +kernel

/-! ### Service levels, supplies and resets -/

def on (f : State → State) : State := f { State.reset with pw := { State.reset.pw with railsOn := true } }
def loading (f : State → State) : State := f { on id with level0 := true }

theorem ddTag_ne (r : List Byte) (d : DeviceData) : ddTag r d ≠ [] := fun e => by
  have h := shake256_length (n := 32) (by decide) (deviceDataKey r ++ d.bytes)
  rw [show shake256 32 (deviceDataKey r ++ d.bytes) = [] from e] at h
  cases h

theorem no_tag (r : List Byte) (d : DeviceData) : (([] : List Byte) == ddTag r d) = false :=
  beq_eq_false_iff_ne.mpr (ddTag_ne r d).symm

theorem verifies_untagged (x : Sec) (r : List Byte) (second : Bool) (h : x.seed = some r)
    (ht : (if second then x.copy1 else x.copy0).tag = []) : x.verifies second = false := by
  unfold Sec.verifies
  simp only [h, ht, no_tag, Bool.and_false]

/-- A device-data copy whose tag verifies under a seed is found; without one nothing is in force. -/
def withCopy : Sec := { seed := some (fit 32 []), copy0 := ⟨1, ddTag (fit 32 []) {}, {}⟩ }
theorem copy_found : withCopy.newer = some false ∧ ({ withCopy with area := withCopy.newer } : Sec).canWriteDd = true := by
  have no : withCopy.verifies true = false := verifies_untagged _ (fit 32 []) true rfl rfl
  have yes : withCopy.verifies false = true := by simp [Sec.verifies, withCopy, Sec.copyGood, Sec.pagesGood]
  have n : withCopy.newer = some false := by rw [Sec.newer, yes, no]
  exact ⟨n, by rw [n]; decide⟩

theorem no_copy : ({ seed := some (fit 32 []) } : Sec).newer = none := by
  have no (second : Bool) := verifies_untagged { seed := some (fit 32 []) } (fit 32 []) second rfl (by cases second <;> rfl)
  rw [Sec.newer, no, no]

theorem test_met_ServiceLevels : ((on id).pw.railsOn = true ∧ (on id).pw.mrst = false ∧ (on id).level0 = false ∧ (on id).rs.standby = false) ∧
    ((on id).rs.last ≠ 9 ∧ 3 < (on fun s => { s with rs := { s.rs with inWin := 4 } }).rs.inWin ∧ (on id).rs.accepted = false) ∧
    ((loading id).level0 = true ∧ (loading id).level = 0 ∧ (loading id).sec.bank = none ∧ (loading id).flag fMG_STAGE_UNCONF = false) ∧
    (let x : Sec := { seed := some (fit 32 []) }
     x.newer = none ∧ ({ x with area := x.newer } : Sec).canWriteDd = false) ∧
    ((loading id).rs.retired = false ∧ (loading id).rs.warmKind = false ∧ (loading id).sec.headerCause 0 none = 1 ∧ (loading id).sec.headerCause 1 none = 1) ∧
    (loading id).sec.reload = none ∧
    ((loading fun s => { s with level := 1, slices := (List.range 192).map fun n => (n, { trained := true }) }).level = 1 ∧
      ∀ n < 192, ((loading fun s => { s with level := 1, slices := (List.range 192).map fun n => (n, { trained := true }) }).slice n).trained = true) ∧
    (∀ p < 16, ((loading id).link (p / 2)).role = 0) ∧ (loading fun s => { s with level := 2 }).level = 2 ∧
    (loading fun s => { s with pw := { s.pw with measured := true } }).pw.measured = true := by
  refine ⟨by decide +kernel, by decide +kernel, by decide +kernel, ⟨no_copy, by rw [no_copy]; rfl⟩, by decide +kernel, by decide +kernel, by decide +kernel, by decide +kernel, by decide, rfl⟩

theorem test_level0_retires : leaves (.serviceLevel0 none) (on fun s => { s with rs := { s.rs with inWin := 4 } }) (fun t => t.level0 && t.rs.retired &&
    t.flag fRS_STATUS_CNTFAIL) := by decide +kernel
theorem test_level3 : leaves .serviceLevel3 (loading fun s => { s with level := 2, pw := { s.pw with measured := true } }) (fun t => t.level == 3 && t.cx.phase == .gathering && !t.rs.inReset) := by
  decide +kernel

theorem test_met_SuppliesAndResets : (on id).pw.railsOn = true ∧ State.reset.pw.railsOn = false ∧ (State.reset.pw.vaon = true ∧ State.reset.pw.tripped = false) ∧
    ({ State.reset with pw := { State.reset.pw with vaon := false } } : State).pw.vaon = false ∧ (on id).pw.mrst = false ∧
    ({ State.reset with pw := { State.reset.pw with mrst := true } } : State).pw.mrst = true ∧ (on id).rs.warmCause = none ∧
    ({ State.reset with rs := { State.reset.rs with warmCause := some 6 } } : State).rs.warmCause = some 6 := by decide

def warming : State := { hasCtx (ctx1 .running) with rs := { st0.rs with warmCause := some 6 }, dram := [(5, 1)] }
theorem test_warm : leaves .warmReset warming (fun t => t.rs.last == 6 && t.level == 0 && get 0 t.dram 5 == 1 && (t.ctxRec 1).state == .ready &&
    t.rs.count == 2) := by decide +kernel
theorem test_mrst : leaves .mrstNAssert (on fun s => { s with dram := [(5, 1)], rs := { s.rs with history := List.range 16 } }) (fun t => t.dram.isEmpty &&
    t.rs.history == (List.range 16).tail ++ [0] && t.rs.last == 3) := by decide +kernel

/-- A device that can be told to reset. -/
def ready3 (f : Rs → Rs) : State := { on id with level := 3, level0 := true, rs := f { State.reset.rs with inReset := false } }

theorem test_met_ResetCommands : (∀ code ∈ [1, 2, 3, 4, 5], (ready3 id).mayAccess .management 2 4 true code = true ∧ (ready3 id).mayAccess sup 2 4 true code = true) ∧
    (ready3 fun r => { r with retired := true }).rs.retired = true ∧
    ((ready3 id).rs.retired = false ∧ (ready3 id).pw.railsOn = true ∧ (ready3 id).pw.mrst = false ∧ (ready3 id).rs.standby = false ∧
      (ready3 id).rs.warmCause = none ∧ (ready3 id).rs.warmKind = false) ∧
    (ready3 fun r => { r with standby := true }).rs.standby = true ∧ 3 ≤ (ready3 id).level ∧ (ready3 id).sec.canWriteDd = false ∧ (secured id).sec.canWriteDd = true ∧
    (ready3 id).mayAccess sup 2 8 true 1 = true ∧ 1 % 256 = ((ready3 id).rs.seq.toNat + 1) % 256 ∧
    (let s := { ready3 fun r => { r with armed := true, strokeAt := 0 } with clock := 600000000 }
     s.rs.armed = true ∧ s.rs.strokeAt + s.fld fRS_SLCFG_TIMEOUT * 1000000 / 4 * 3 ≤ s.clock ∧ s.rs.warned = false ∧
       s.rs.strokeAt + s.fld fRS_SLCFG_TIMEOUT * 1000000 ≤ s.clock) ∧
    (let s := { ready3 fun r => { r with lockDelay := some 5 } with clock := 5 + 1000 * 1000 }
     s.rs.lockDelay = some 5 ∧ 5 + s.fld fRS_LOCKDLY_MS * 1000 ≤ s.clock) ∧ (st0.port 0).state ≠ .unused := by decide +kernel

theorem test_stroke : leaves (.stroke sup 1) (ready3 id) (fun t => t.rs.seq == 1) ∧ leaves (.stroke sup 2) (ready3 id) (fun t => t.flag fRS_STATUS_BADSTROKE) := by
  decide +kernel
/-- R437: RS_CMD.STANDBY: the hosts' notice stands, the lockup delay is at its reset value, and the ports are dark. -/
theorem test_standby : leaves (.standby .management) (((ready3 id).setFld fRS_LOCKDLY_MS 7).setPort 0 { state := .inService, width := 4 }) (fun t =>
    t.flag fPX_HEVT_WARM 0 && t.flag fPX_HEVT_WARM 1 && t.fld fRS_LOCKDLY_MS == bits (regReset .rsLockdly) 15 0 && t.rs.standby &&
    decide ((t.port 0).state = .dark) && (t.port 0).width == 4) := by decide +kernel

/-- R433: the delay that a lockup starts ends in a warm reset once RS_LOCKDLY.MS has passed. -/
theorem test_lockup_delay : leaves .lockupDelay { ready3 fun r => { r with lockDelay := some 5 } with clock := 5 } (fun t => t.rs.warmCause.isNone) ∧
    leaves .lockupDelay ((({ ready3 fun r => { r with lockDelay := some 5 } with clock := 2005 } : State).setFld fRS_LOCKDLY_MS 2)) (fun t =>
      t.rs.warmCause == some 8 && t.rs.lockDelay.isNone) := by decide +kernel
theorem test_warm_command : leaves (.warm .management) (ready3 id) (fun t => t.rs.warmCause == some 6 && t.flag fPX_HEVT_WARM 1) := by decide +kernel

/-- A device at level 2 whose negative raises the floor to 5. -/
theorem test_met_FloorRises : (let s := loading fun s => { s with level := 2, pw := { s.pw with measured := true }, sec := { s.sec with raiseFloor := true, imgSvn := 5, area := some false } }
    s.level = 2 ∧ (∀ p < 16, (s.link (p / 2)).role = 0) ∧ s.pw.measured = true ∧ s.sec.raiseFloor = true ∧ s.sec.dd.svnFloor < s.sec.imgSvn ∧ s.sec.canWriteDd = true) ∧
    (let x : Sec := { copy1 := ⟨1, [], { svnFloor := 5 }⟩, area := some true }
     5 ≤ x.dd.svnFloor ∧ x.bankLe 0 20 2 < 5) := by decide +kernel

theorem test_floor : leaves .serviceLevel3 (loading fun s => { s with level := 2, pw := { s.pw with measured := true }, sec := { s.sec with raiseFloor := true, imgSvn := 5, area := some false } })
    (fun t => t.sec.dd.svnFloor == 5) := by decide +kernel

/-- A bank with an acceptable header stands to be reloaded after a warm reset. -/
theorem test_met_reload : banked.owner = some key0 ∧ banked.headerCause 0 (some key0) = 0 := ⟨rfl, test_met_header⟩


/-! ### Host ports -/

/-- A device whose port A has a link; function 1 present; memory space, bus master and a window of function 0. -/
def hosted (f : PxPort → PxPort) (c : FnCfg) : State := st0.setPx 0 (f { linkUp := true, numVfs := 1, vfEnable := true, fns := put {} (put {} [] 0 c) 1 c })
def granted : State := ((hosted id { mse := true, bme := true }).setFld fPX_FN_D4LEN_LEN64K 1 0 0).setFlag fPX_HW_CTL_VALID true 0 0

theorem test_met_ConfigurationRequests : (st0.pxOf 0).linkUp = false ∧ ((hosted id {}).pxOf (portNum .A)).linkUp = true ∧ (hosted id {}).rs.standby = false ∧
    ({ hosted id {} with rs := { st0.rs with standby := true } } : State).rs.standby = true ∧ (1 ≤ (hosted id {}).level) ∧
    ((hosted id {}).pxOf 0).vfEnable = true ∧ 1 ≤ ((hosted id {}).pxOf 0).numVfs ∧ ¬2 ≤ ((hosted id {}).pxOf 0).numVfs ∧
    (8 ≤ (8 : Word).toNat ∧ (16 : Word).toNat ≤ 16 ∧ ¬(17 : Word).toNat ≤ 16) ∧ ((256 : Word).toNat ∈ [128, 256, 512] ∧ (1024 : Word).toNat ∉ [128, 256, 512]) ∧ (4096 : Word).toNat ∈ [128, 256, 512, 1024, 2048, 4096] ∧
    (31 : Word).toNat < 32 ∧ ¬(32 : Word).toNat < 32 ∧ 16 < (17 : Word).toNat ∧ (3 : Word).toNat % 4 = 3 ∧ (0 : Word).toNat % 4 = 0 ∧
    ((hosted id { bme := true }).fnCfg 0 0).bme = true ∧ ((0 : Word).getLsbD 0 = false ∧ (1 : Word).getLsbD 0 = true) ∧ (0 : Fin 17).val = 0 := by decide +kernel

/-- The same with a request that waits. -/
def crowded : State := granted.setPx 0 { granted.pxOf 0 with waiting := [⟨0, .dramRead 0 4, false⟩] }

theorem test_met_waits_at_port : crowded.portBusy 0 = true ∧ ((crowded.pxOf 0).linkUp = true ∧ (crowded.fnCfg 0 0).mse = true) ∧
    leaves (.configurationRequest .A 0 (.read .deviceId)) crowded (fun t => t.out.isEmpty && (t.pxOf 0).waiting.map (·.op.isConfig) == [false, true]) ∧
    leaves (.hostWrite .A 0 .bar4 5 [1] [true] false false) crowded (fun t => t.dram.isEmpty && (t.pxOf 0).waiting.length == 2) ∧
    leaves (.hostWrite .A 0 .bar4 5 [1] [true] true false) crowded (fun t => get 0 t.dram 5 == 1) := by decide +kernel

theorem test_not_answering : ({ hosted id {} with level := 0 } : State).level = 0 ∧
    leaves (.configurationRequest .A 0 (.read .vendorId)) { hosted id {} with level := 0 } (fun t => t.out.head? == some (.hostCompletion .A 0 2 [] false)) := by
  decide +kernel
theorem test_config : leaves (.configurationRequest .A 1 (.read .deviceId)) (hosted id {}) (fun t =>
    t.out.head? == some (.hostCompletion .A 1 0 [1, 0x96, 0, 0] false)) := by decide +kernel

theorem test_met_HostMemory : ((granted.pxOf 0).linkUp = true ∧ (granted.fnCfg 0 0).mse = true ∧ (granted.fnCfg 0 0).d3 = false) ∧
    2 ≤ granted.level ∧ granted.rs.standby = false ∧ granted.portBusy 0 = false ∧ crowded.portBusy 0 = true ∧ 4 ≤ (granted.fnCfg 0 0).mps ∧ (granted.fnCfg 0 0).mps = 128 ∧ (st0.pxOf 0).linkUp = false ∧
    (0xFFFF + 1 ≤ granted.fld fPX_FN_D4LEN_LEN64K 0 0 * 0x10000 ∧ ¬0x10000 + 1 ≤ granted.fld fPX_FN_D4LEN_LEN64K 0 0 * 0x10000) ∧
    replied (granted.dramRead (granted.reg .pxFnD4baseLo 0 0) 4) ∧
    ((hasCtx (ctx1 .idle)).ctxRec 1).ownedBy (0 == 1) 0 = true ∧ ((hasCtx (ctx1 .idle)).ctxRec 1).ownedBy (0 == 1) 1 = false ∧
    replied ((hasCtx (ctx1 .idle)).dramRead ((hasCtx (ctx1 .idle)).ringAddr 1 0x1FFF) 1) ∧
    (0x20004 : BitVec 24).toNat % 4 = 0 ∧ (findReg 0 (0x20004 - 0x20000)).isSome ∧ (0x20001 : BitVec 24).toNat % 4 ≠ 0 ∧
    (0x10000 ≤ (0x17FFC : BitVec 24).toNat ∧ (0x17FFC : BitVec 24).toNat < 0x18000) := by decide +kernel

theorem test_bar4 : leaves (.hostWrite .A 0 .bar4 5 [1, 2] [true, false] false false) granted (fun t => get 0 t.dram 5 == 1 && get 0 t.dram 6 == 0) := by
  decide +kernel
theorem test_bar4_outside : leaves (.hostRead .A 0 .bar4 0xFFFD 4 [true, true, true, true]) granted (fun t => t.out.head? == some (.hostCompletion .A 0 1 [] false) &&
    t.fld fPX_ERR_BADREQ 0 == 1) := by decide +kernel

def hostWrite4 : Msg := { kind := .write, addr := 0x700000000010, data := [1, 2, 3, 4], be := [true, true, true, true] }
def hostRead4 : HostRead := ⟨3, 0, { kind := .readReq, addr := 0x700000000010, len := 4, chan := 0 }, []⟩

theorem test_met_HostPorts :
    (let s := granted.setPx 0 { granted.pxOf 0 with inbox := [hostWrite4] }
     (s.pxOf 0).inbox = [hostWrite4] ∧ hostWrite4.addr < 0x780000000000 ∧ s.hostPlace hostWrite4.addr = some (0, 0x10)) ∧
    (hosted id {}).hostPlace hostWrite4.addr = none ∧ (st0.pxOf 0).inbox = [] ∧ ([] : List HostRead).find? (·.tag == 3) = none ∧
    ([hostRead4].find? (·.tag == 3) = some hostRead4 ∧ (hostRead4.got ++ [1]).length < hostRead4.msg.len ∧
      hostRead4.msg.len ≤ (hostRead4.got ++ [1, 2, 3, 4]).length ∧ hostRead4.msg.chan < 2) ∧
    (Nat.testBit 16 4 = true ∧ (granted.fnCfg 0 0).cto.testBit 4 = false) ∧ (granted.pxOf 0).lost = false ∧ granted.flag fPX_PCTL_HBEN 0 = false ∧
    (granted.setFlag fPX_PCTL_HBEN true 0).flag fPX_PCTL_HBEN 0 = true ∧ granted.mayAccess sup 9 0xC true 1 = true ∧
    ((granted.pxOf 0).perst = false ∧ (powered id).pw.railsOn = true ∧ (powered id).pw.mrst = false ∧ (5 : Fin 6).val ≠ 0 ∧ (16 : Fin 17).val ∈ [1, 2, 4, 8, 16]) := by
  decide +kernel

theorem test_window_write : leaves (.hostWindowWrite .A) (granted.setPx 0 { granted.pxOf 0 with inbox := [hostWrite4] }) (fun t =>
    (t.pxOf 0).tx == [⟨0, 0x10, [1, 2, 3, 4], false, none⟩] && (t.pxOf 0).inbox.isEmpty && t.vResp.any (·.kind == .ack)) := by decide +kernel
theorem test_flr : leaves (.flr .A 0) granted (fun t => (t.pxOf 0).numVfs == 0 && (t.fnCfg 0 0) == {} && (t.fnCfg 0 1).mse) := by decide +kernel

end Sys2Proof.Tests
end

section
/-! PROOFS. Elements of 4 bits within a row of bytes (R19). -/

namespace Sys2Proof.Machine

/-- An element with an even index is the lower half of its byte (R19). -/
theorem nibbleAt_even (bs : List Nat) (i : Nat) : nibbleAt bs (2 * i) = bs.getD i 0 % 16 := by
  have index : 2 * i / 2 = i := by omega
  have parity : 2 * i % 2 = 0 := by omega
  simp only [nibbleAt, index, parity, if_true]

/-- An element with an odd index is the upper half of its byte (R19). -/
theorem nibbleAt_odd (bs : List Nat) (i : Nat) : nibbleAt bs (2 * i + 1) = bs.getD i 0 / 16 := by
  have index : (2 * i + 1) / 2 = i := by omega
  have parity : (2 * i + 1) % 2 ≠ 0 := by omega
  simp only [nibbleAt, index, if_neg parity]

/-- Byte i as a number, taken before or after the row is read as numbers; past the end both sides are 0. -/
theorem getD_map_toNat (data : List Byte) (i : Nat) : (data.map (·.toNat)).getD i 0 = (data.getD i 0).toNat := by
  rw [List.getD_eq_getElem?_getD, List.getD_eq_getElem?_getD, List.getElem?_map]
  cases data[i]? with
  | none => rfl
  | some b => rfl

/-- Bits 3 to 0 of a byte, by value. -/
theorem toNat_lowNibble (b : Byte) : (b.extractLsb' 0 4).toNat = b.toNat % 16 := by
  simp only [BitVec.extractLsb'_toNat, Nat.shiftRight_zero, Nat.reducePow]

/-- Bits 7 to 4 of a byte, by value: a byte is below 256, so what stands above bit 3 fits in four bits. -/
theorem toNat_highNibble (b : Byte) : (b.extractLsb' 4 4).toNat = b.toNat / 16 := by
  have fits : b.toNat / 16 < 16 := by have := b.isLt; omega
  simp only [BitVec.extractLsb'_toNat, Nat.shiftRight_eq_div_pow, Nat.reducePow, Nat.mod_eq_of_lt fits]

end Sys2Proof.Machine

namespace Sys2Proof

open Sys2Proof.Machine

/-- Settles O38: either half of byte i, read as a number, is the element that the model takes from it. -/
theorem nibbleElements : Obligations.NibbleElements := by
  intro data i _
  have byteValue := getD_map_toNat data i
  constructor
  · rw [nibbleAt_even, byteValue, toNat_lowNibble]
  · rw [nibbleAt_odd, byteValue, toNat_highNibble]

end Sys2Proof
end
section
/-! PROOFS. The register command ABANDON of the vector engine (R95). -/

namespace Sys2Proof.Machine

/-- A register command from a requester with the right to it takes effect and is acknowledged (R3). -/
theorem next_regCommand_of_mayAccess {s : State} {rq : Requester} {blk off v : Nat} (f : State → State)
    (may : s.mayAccess rq blk off true v = true) : .next (s.regCommand rq blk off v f) = acked rq blk off (f s) := by
  simp only [State.regCommand, if_pos may]
  rfl

/-- ABANDON of an engine that is held writes its queue and its progress. -/
theorem State.vxAbandon_of_held {s : State} {k : Nat} (held : (s.vxOf k).held = true) :
    s.vxAbandon k = s.setVx k { s.vxOf k with queue := [], progress := none } := by
  simp only [State.vxAbandon, if_pos held, State.modVx_eq]

/-- ABANDON of an engine that is not held changes nothing. -/
theorem State.vxAbandon_of_not_held {s : State} {k : Nat} (free : (s.vxOf k).held = false) : s.vxAbandon k = s := by
  simp only [State.vxAbandon, free, Bool.false_eq_true, if_false]

/-- The command VX_CTRL.ABANDON carries out the state's ABANDON for a requester with the right to it. -/
theorem exec_vxAbandon {s : State} {rq : Requester} {k : CcId}
    (may : s.mayAccess rq 15 (k.val * 0x100 + 4) true 1 = true) :
    exec (.vxAbandon rq k) s = acked rq 15 (k.val * 0x100 + 4) (s.vxAbandon k) :=
  next_regCommand_of_mayAccess (fun t => t.vxAbandon k) may

/-- A write of vector engine k leaves the rest of the state and the other vector engines as they were. -/
theorem onlyVx_setVx (s : State) (k : Nat) (x : Vx) : onlyVx k s (s.setVx k x) :=
  ⟨rfl, fun j other => s.vxOf_setVx_ne k x j other⟩

/-- VX_PROGRESS shows 0, and with it VALID clear, while the engine has no progress recorded (R98). -/
theorem regValue_vxProgress_of_none {s : State} {k : Nat} (n : Nat) (unrecorded : (s.vxOf k).progress = none) :
    s.regValue .vxProgress k n = 0 := by
  simp only [State.regValue, Vx.progressWord, unrecorded]

end Sys2Proof.Machine

namespace Sys2Proof

open Sys2Proof.Machine

/-- Settles O34: with the right to the write, the next state is that of the state's ABANDON, which writes the engine alone
when it is held and nothing otherwise. -/
theorem vectorAbandon : Obligations.VectorAbandon := by
  intro s rq k may
  rw [exec_vxAbandon may]
  constructor
  · intro held
    have written := s.vxOf_setVx_self k { s.vxOf k with queue := [], progress := none }
    refine ⟨_, congrArg _ (State.vxAbandon_of_held held), onlyVx_setVx s k _, written, ?valid, s.spOf_setVx k _⟩
    case valid =>
      rw [regValue_vxProgress_of_none 0 (by rw [written])]
      rfl
  · intro free
    rw [State.vxAbandon_of_not_held free]

end Sys2Proof
end
section
/-! PROOFS. A coordinate word with one coordinate replaced, and the torus neighbour across a link (R340). -/

namespace Sys2Proof.Machine

/-- Which bits a field of a number is made of. -/
theorem testBit_bits (x hi lo i : Nat) :
    (bits x hi lo).testBit i = (decide (i < hi + 1 - lo) && x.testBit (lo + i)) := by
  simp only [bits, Nat.testBit_mod_two_pow, Nat.testBit_shiftRight]

/-- A replaced field as a number: what stands above the field, the new value and what stands below it, none reaching into
the place of another. -/
theorem setBits_eq_of_le {hi lo : Nat} (ordered : lo ≤ hi) (x v : Nat) :
    setBits x hi lo v =
      2 ^ lo * (2 ^ (hi + 1 - lo) * (x >>> (hi + 1)) + v % 2 ^ (hi + 1 - lo)) + x % 2 ^ lo := by
  have width : 2 ^ (hi + 1) = 2 ^ lo * 2 ^ (hi + 1 - lo) := by
    rw [← Nat.pow_add, Nat.add_sub_of_le (Nat.le_succ_of_le ordered)]
  rw [setBits, Nat.shiftLeft_eq, Nat.shiftLeft_eq, width, Nat.mul_add, Nat.mul_comm (x >>> (hi + 1)), Nat.mul_assoc,
    Nat.mul_comm (v % 2 ^ (hi + 1 - lo))]

/-- A replaced field takes the bits of the new value, and every other bit stays. -/
theorem testBit_setBits {hi lo : Nat} (ordered : lo ≤ hi) (x v i : Nat) :
    (setBits x hi lo v).testBit i = if lo ≤ i ∧ i ≤ hi then v.testBit (i - lo) else x.testBit i := by
  rw [setBits_eq_of_le ordered, Nat.testBit_two_pow_mul_add _ (Nat.mod_lt _ (Nat.two_pow_pos _)),
    Nat.testBit_two_pow_mul_add _ (Nat.mod_lt _ (Nat.two_pow_pos _)), Nat.testBit_mod_two_pow, Nat.testBit_mod_two_pow,
    Nat.testBit_shiftRight]
  by_cases below : i < lo
  · simp only [below, Nat.not_le.mpr below, decide_true, if_true, false_and, if_false, Bool.true_and]
  by_cases above : i ≤ hi
  · have inField : i - lo < hi + 1 - lo := by omega
    simp only [below, Nat.le_of_not_lt below, above, inField, if_false, and_self, if_true, decide_true, Bool.true_and]
  · have outside : ¬ i - lo < hi + 1 - lo := by omega
    have place : hi + 1 + (i - lo - (hi + 1 - lo)) = i := by omega
    simp only [below, above, outside, place, if_false, and_false]

/-- A replaced field reads as the new value, cut to its width. -/
theorem bits_setBits_self {hi lo : Nat} (ordered : lo ≤ hi) (x v : Nat) :
    bits (setBits x hi lo v) hi lo = v % 2 ^ (hi + 1 - lo) := by
  refine Nat.eq_of_testBit_eq fun i => ?_
  rw [testBit_bits, testBit_setBits ordered, Nat.testBit_mod_two_pow]
  by_cases inField : i < hi + 1 - lo
  · have inRange : lo ≤ lo + i ∧ lo + i ≤ hi := by omega
    rw [if_pos inRange, Nat.add_sub_cancel_left]
  · simp only [inField, decide_false, Bool.false_and]

/-- A field that lies wholly above or wholly below the replaced one reads as before. -/
theorem bits_setBits_of_disjoint {hi lo hi' lo' : Nat} (ordered : lo ≤ hi) (disjoint : hi < lo' ∨ hi' < lo) (x v : Nat) :
    bits (setBits x hi lo v) hi' lo' = bits x hi' lo' := by
  refine Nat.eq_of_testBit_eq fun i => ?_
  rw [testBit_bits, testBit_bits, testBit_setBits ordered]
  by_cases inField : i < hi' + 1 - lo'
  · have notReplaced : ¬ (lo ≤ lo' + i ∧ lo' + i ≤ hi) := by omega
    rw [if_neg notReplaced]
  · simp only [inField, decide_false, Bool.false_and]

/-- The element read at a place within a list is one of the list. -/
theorem getD_mem_of_lt {l : List Nat} {i : Nat} (inList : i < l.length) (default : Nat) : l.getD i default ∈ l := by
  rw [List.getD_eq_getElem?_getD, List.getElem?_eq_getElem inList, Option.getD_some]
  exact List.getElem_mem inList

/-- The coordinate across link k in the link's dimension, which has size n and holds coordinate x: the next one across an
even link, the previous one across an odd link (R340). -/
def acrossLink (n x k : Nat) : Nat := (x + if k % 2 = 0 then 1 else n - 1) % n

/-- The neighbour's word is the device's own with the coordinate of the link's dimension replaced. -/
theorem torusNeighbour_eq (sizes : List Nat) (c k : Nat) :
    torusNeighbour sizes c k =
      setBits c (15 - 4 * (k / 2)) (12 - 4 * (k / 2)) (acrossLink (sizes.getD (k / 2) 1) (coordOf c (k / 2)) k) := rfl

/-- The neighbour's coordinate in the link's dimension: with a size of at most 16 it fits in its four bits. -/
theorem coordOf_torusNeighbour_self {sizes : List Nat} {k : Nat} (c : Nat) (link : k < 8)
    (positive : 1 ≤ sizes.getD (k / 2) 1) (fits : sizes.getD (k / 2) 1 ≤ 16) :
    coordOf (torusNeighbour sizes c k) (k / 2) = acrossLink (sizes.getD (k / 2) 1) (coordOf c (k / 2)) k := by
  have ordered : 12 - 4 * (k / 2) ≤ 15 - 4 * (k / 2) := by omega
  have width : 15 - 4 * (k / 2) + 1 - (12 - 4 * (k / 2)) = 4 := by omega
  have inSize : acrossLink (sizes.getD (k / 2) 1) (coordOf c (k / 2)) k < sizes.getD (k / 2) 1 := Nat.mod_lt _ positive
  rw [torusNeighbour_eq, coordOf, bits_setBits_self ordered, width]
  exact Nat.mod_eq_of_lt (Nat.lt_of_lt_of_le inSize fits)

/-- The neighbour's coordinates in the other dimensions are the device's own. -/
theorem coordOf_torusNeighbour_of_ne {k e : Nat} (sizes : List Nat) (c : Nat) (link : k < 8) (dim : e < 4)
    (other : e ≠ k / 2) : coordOf (torusNeighbour sizes c k) e = coordOf c e := by
  have ordered : 12 - 4 * (k / 2) ≤ 15 - 4 * (k / 2) := by omega
  have disjoint : 15 - 4 * (k / 2) < 12 - 4 * e ∨ 15 - 4 * e < 12 - 4 * (k / 2) := by omega
  rw [torusNeighbour_eq]
  exact bits_setBits_of_disjoint ordered disjoint _ _

/-- One step on from the coordinate across an odd link is the coordinate itself. -/
theorem acrossLink_odd_succ {n x k : Nat} (odd : k % 2 = 1) (inRange : x < n) : (acrossLink n x k + 1) % n = x := by
  have notEven : ¬ k % 2 = 0 := by omega
  have around : x + (n - 1) + 1 = x + n := by omega
  rw [acrossLink, if_neg notEven, Nat.mod_add_mod, around, Nat.add_mod_right, Nat.mod_eq_of_lt inRange]

/-- Both links of a dimension of size 2 reach the same device: one step back is one step on (R340). -/
theorem torusNeighbour_even_eq_odd_of_size_two {sizes : List Nat} {d : Nat} (c : Nat) (two : sizes.getD d 1 = 2) :
    torusNeighbour sizes c (2 * d) = torusNeighbour sizes c (2 * d + 1) := by
  have evenDim : 2 * d / 2 = d := by omega
  have oddDim : (2 * d + 1) / 2 = d := by omega
  have even : 2 * d % 2 = 0 := by omega
  have odd : ¬ (2 * d + 1) % 2 = 0 := by omega
  rw [torusNeighbour_eq, torusNeighbour_eq, evenDim, oddDim, two, acrossLink, acrossLink, if_pos even, if_neg odd]

end Sys2Proof.Machine

namespace Sys2Proof

open Sys2Proof.Machine

/-- Settles O29: the neighbour's word replaces the field of the link's dimension alone, and the value put there is one step
on or one step back modulo the size. -/
theorem torusNeighbours : Obligations.TorusNeighbours := by
  intro sizes c k fourSizes sizeRange link _ coordRange d n
  have dim : d < 4 := Nat.div_lt_of_lt_mul link
  have size : n ∈ sizes := getD_mem_of_lt (fourSizes.symm ▸ dim) 1
  obtain ⟨positive, fits⟩ := sizeRange n size
  have across : coordOf (torusNeighbour sizes c k) d = acrossLink n (coordOf c d) k :=
    coordOf_torusNeighbour_self c link positive fits
  refine ⟨fun e inDims other => coordOf_torusNeighbour_of_ne sizes c link inDims other, ?next, ?previous,
    torusNeighbour_even_eq_odd_of_size_two c⟩
  case next =>
    intro even
    rw [across, acrossLink, if_pos even]
  case previous =>
    intro odd
    rw [across]
    exact acrossLink_odd_succ odd (coordRange d dim)

end Sys2Proof
end
